-- ==== Sys2Proof/Word.lean ====
section
/-! DEFINITION. The word types of the sled and their plainest arithmetic (00_scope R10, R12, R16). -/

namespace Sys2Proof

/-- A byte. -/
abbrev Byte := BitVec 8

/-- A register of BAR2 and a command dword (R12). -/
abbrev Word := BitVec 32

/-- A control-core register and a 64-bit field (R16, R233). -/
abbrev Dword := BitVec 64

/-- An item ID: frame number in bits 63:16, record slot in bits 15:0 (R18). -/
abbrev ItemId := Nat

end Sys2Proof
end

