-- ==== Sys2Proof/Syntax.lean ====
section
/-! DEFINITION. The commands: one constructor of `Instr` for each row of the spec's table of operations
and events, with the operands the row acts on. What an agent outside the model settles (a measured
voltage, the outcome of a flash operation, the contents of host memory) is an operand of the row
(DESIGN CHOICE, logs 4, 5). -/

namespace Sys2Proof

/-- One NVMe command as the host submits it (02 R44, 03 R78), less its opcode. `pptr` is dwords 4 and 5; `params` and `data` are
what host memory holds at PPTR and in the data buffer; `bufLen` is the length that an SGL describes;
`ok` is the outcome of the physical operations that the command itself starts. -/
structure Cmd where
  sqid : Nat
  cid : Nat
  flags : BitVec 8
  nsid : Nat
  cdw2 : Word
  cdw3 : Word
  pptr : Dword
  cdw10 : Word
  cdw11 : Word
  cdw12 : Word
  cdw13 : Word
  cdw14 : Word
  cdw15 : Word
  params : List Byte
  data : List Byte
  bufLen : Nat
  ok : Bool
  deriving DecidableEq, Repr

/-- A submission queue entry: opcode and command (Table 3.2). -/
structure Sqe where
  opc : BitVec 8
  cmd : Cmd
  deriving DecidableEq, Repr

/-- The controller registers the host sets up before and with CC.EN (R36, R37, R40). -/
structure CtlRegs where
  cc : Word
  aqa : Word
  asq : Dword
  acq : Dword
  deriving DecidableEq, Repr

/-- What the hardware finds at steps 2 and 3 of a start (R429, R431, R440, R447), and the arrays (cluster, array) that the checker
self-test fails (R229). -/
structure FillReport where
  fillOk : Bool
  checkersOk : Bool
  ledgerOk : Bool
  floorsOk : Bool
  dumpOk : Bool
  badArrays : List (Nat × Nat)
  deriving DecidableEq, Repr

/-- What replay finds (R430, R433, R350): whether a checkpoint and the journal can be read, the units whose
posted record is present but whose data is absent, and the first missing sequence number of a gap; and the clusters that failed the
self-check of step 6 (R231, R429). -/
structure ReplayReport where
  checkpointOk : Bool
  lostUnits : List (Nat × Nat)
  gapAt : Option Nat
  imageFails : Bool
  badClusters : List Nat
  deriving DecidableEq, Repr

/-- The engines of a cluster (Table 7.1; ENG of Table 8.9). -/
inductive Engine where
  | fetch | matrix | vector | hamming | store
  deriving DecidableEq, Repr

/-- The units that hold a grant (Table 14.2). -/
inductive GUnit where
  | recharge | stack (n : Nat) | cluster (n : Nat) | eraseGroup (n : Nat)
  deriving DecidableEq, Repr

/-- How a coded memory read ended (R456, R457). -/
inductive CodeRead where
  | clean | corrected | beyond
  deriving DecidableEq, Repr

/-- One reading of the string monitor (R402, R405): voltage of each string in mV, largest deviation of a
cell from its string's mean in mV, strings found open or shorted, bank temperature in 0.1 °C. -/
structure StringReport where
  mv : List Nat
  dev : List Nat
  broken : List Nat
  temp : Int
  deriving DecidableEq, Repr

/-- The regions whose delivery failures Table 11.5 tells apart. -/
inductive RegionKind where
  | mirrored | protected_ | jobData | coreRead | resultFetch
  deriving DecidableEq, Repr

/-- A place on the media (Table 12.2). -/
structure Loc where
  ch : Nat
  die : Nat
  plane : Nat
  block : Nat
  page : Nat
  unit : Nat
  slc : Bool
  deriving DecidableEq, Repr

/-- A Runnel message: the header of Table 13.4, its payload, and the congestion mark of the IP header
(R373, R375). `reason` is ADDR bits 7:0 of a REJECT; `poison` are the granules set in POISMAP. -/
structure Msg where
  typ : Nat
  retx : Bool
  ece : Bool
  ce : Bool
  src : Nat
  dst : Nat
  flow : Nat
  sgen : Nat
  seq : Nat
  ack : Nat
  sysid : Dword
  inst : Nat
  jobtag : Nat
  sclu : Nat
  opid : Nat
  addr : Dword
  poison : List Nat
  payload : List Byte
  deriving DecidableEq, Repr

/-- The contents of a HELLO (R368). -/
structure Hello where
  devnum : Nat
  sysid : Dword
  port : Nat
  mode : Nat
  deriving DecidableEq, Repr

/-- The commands of the sled: the rows of the table of operations and events, in its order. -/
inductive Instr where
  | submissionQueueDoorbell (qid tail : Nat) (entries : List Sqe)
  | completionQueueDoorbell (qid head : Nat)
  | controllerEnable (r : CtlRegs)
  | controllerDisable
  | shutdownNotification (shn : BitVec 2)
  | nvmSubsystemReset (v : Word)
  | perstAssert
  | hotReset
  | functionLevelReset
  | linkDown
  | linkRetrain (rate width : Nat)
  | powerGood (bay : BitVec 4) (i3c : Bool) (vin : Nat)
  | memoryFillDone (r : FillReport)
  | activationCopyDone (ok : Bool)
  | replayDone (r : ReplayReport)
  | startTimerExpiry
  | powerLossCondition (line : Bool)
  | overvoltageTrip
  | powerStageFault (stage : Nat)
  | dumpComplete (recordOk : Bool) (us j : Nat)
  | adminAbort (c : Cmd)
  | asynchronousEventRequest (c : Cmd)
  | createIoSubmissionQueue (c : Cmd)
  | createIoCompletionQueue (c : Cmd)
  | deleteIoSubmissionQueue (c : Cmd)
  | deleteIoCompletionQueue (c : Cmd)
  | identify (c : Cmd)
  | getLogPage (c : Cmd)
  | getFeatures (c : Cmd)
  | setFeaturesPowerManagement (c : Cmd)
  | setFeaturesArbitration (c : Cmd)
  | setFeaturesTimestamp (c : Cmd)
  | setFeaturesVendorEventEnable (c : Cmd)
  | setFeatures (c : Cmd)
  | powerStateEntryDrained
  | powerStateExitDone
  | deviceSelfTestShort (c : Cmd)
  | deviceSelfTestExtended (c : Cmd)
  | deviceSelfTestStop (c : Cmd)
  | selfTestSlice (seg unit : Nat) (ok : Bool)
  | selfTestTimeout
  | firmwareImageDownload (c : Cmd)
  | firmwareCommitReplaceActivate (c : Cmd)
  | firmwareCommitActivate (c : Cmd)
  | sanitizeCryptoErase (c : Cmd)
  | sanitizeBlockErase (c : Cmd)
  | sanitizeDone
  | formatNvm (c : Cmd)
  | namespaceCreate (c : Cmd)
  | namespaceDelete (c : Cmd)
  | namespaceAttach (c : Cmd)
  | namespaceDetach (c : Cmd)
  | nvmeMiSend (c : Cmd)
  | nvmeMiReceive (c : Cmd)
  | read (c : Cmd)
  | write (c : Cmd)
  | writeZeroes (c : Cmd)
  | datasetManagement (c : Cmd)
  | flush (c : Cmd)
  | scan (c : Cmd)
  | embed (c : Cmd)
  | score (c : Cmd)
  | search (c : Cmd)
  | nearJoin (c : Cmd)
  | indexInsert (c : Cmd)
  | indexDelete (c : Cmd)
  | indexPublish (c : Cmd)
  | indexCompact (c : Cmd)
  | jobRun (c : Cmd)
  | resultFetch (c : Cmd)
  | resultRelease (c : Cmd)
  | recallEstimate (c : Cmd)
  | indexCreate (c : Cmd)
  | indexDrop (c : Cmd)
  | epochDurable (nsid idx : Nat)
  | configurationStage (c : Cmd)
  | configurationCheck (c : Cmd)
  | configurationCommit (c : Cmd)
  | commitDrainEnd
  | commitDrainTimeout
  | commitRecordDurable
  | configurationDiscard (c : Cmd)
  | modelInstall (c : Cmd)
  | modelRemove (c : Cmd)
  | programInstall (c : Cmd)
  | registerRead (c : Cmd)
  | registerWrite (c : Cmd)
  | attestCertificates (c : Cmd)
  | attestQuote (c : Cmd)
  | attestOwner (c : Cmd)
  | cisternTest (c : Cmd)
  | startLedgerClear (c : Cmd)
  | bar2Read (a : Word) (size : Nat)
  | bar2Write (a v : Word) (size : Nat)
  | registerPairLoRead (a : Word)
  | registerPairHiWrite (a v : Word)
  | cluCtlHaltreq (c : Nat)
  | cluCtlFreload (c : Nat)
  | cluTmctlRead (c : Nat)
  | cluTmctlWrite (c : Nat) (v : Word)
  | cluTfinfoWrite (c : Nat) (v : Word)
  | cluAstatWrite (c : Nat) (v : Word)
  | syncValueWrite (o : Nat) (v : Word)
  | syncStatWrite (o : Nat) (v : Word)
  | cadVstatWrite (v : Word)
  | cisTestStart (v : Word)
  | medCtlWrite (v : Word)
  | rasCtlWrite (v : Word)
  | rasInjArm (v : Word)
  | genFaultWrite (v : Word)
  | bootCtlCrst (v : Word)
  | bootNativeProgram (v : Word)
  | bootPulseVerifiedProgram (v : Word)
  | bootErase (v : Word)
  | bootPstatWrite (v : Word)
  | bootRwinRead (j : Nat)
  | bootFlashOperationDone (ok : Bool) (pulses : Nat)
  | cadenceEdge (len high : Nat)
  | cadenceMarker (len high : Nat)
  | cadenceLoss
  | surrogatePeriod
  | cadenceAcquireTimeout
  | grantRelease (u : GUnit)
  | thermalSensorRead (t : List Int)
  | thermalShutdown (sensor : Nat)
  | stringMonitorRead (r : StringReport)
  | spareStringSwitchedIn
  | stringTestSchedule
  | stringTestDone (i cap esr : Nat)
  | allowanceRecompute
  | rechargeBurstEnd
  | jobBoundary (p : Nat)
  | quiescenceWaitTimeout (p : Nat)
  | modelLoadDone (m : Nat)
  | batchStepBoundary (p : Nat)
  | jobWatchdog (p : Nat)
  | stepWatchdog (p : Nat)
  | controlCoreHang (c : Nat)
  | teardownEnd (p : Nat)
  | partitionResetEnd (p : Nat) (failed : List Nat)
  | alu (c : Nat) (w : Word)
  | addi (c : Nat) (w : Word)
  | andi (c : Nat) (w : Word)
  | ori (c : Nat) (w : Word)
  | xori (c : Nat) (w : Word)
  | slli (c : Nat) (w : Word)
  | srli (c : Nat) (w : Word)
  | srai (c : Nat) (w : Word)
  | li32 (c : Nat) (w w1 : Word)
  | lih (c : Nat) (w w1 : Word)
  | ld (c : Nat) (w : Word)
  | lw (c : Nat) (w : Word)
  | lh (c : Nat) (w : Word)
  | lb (c : Nat) (w : Word)
  | st (c : Nat) (w : Word)
  | sw (c : Nat) (w : Word)
  | sh (c : Nat) (w : Word)
  | sb (c : Nat) (w : Word)
  | beq (c : Nat) (w : Word)
  | bne (c : Nat) (w : Word)
  | blt (c : Nat) (w : Word)
  | bge (c : Nat) (w : Word)
  | bltu (c : Nat) (w : Word)
  | bgeu (c : Nat) (w : Word)
  | jal (c : Nat) (w : Word)
  | jalr (c : Nat) (w : Word)
  | loop (c : Nat) (w : Word)
  | loopi (c : Nat) (w : Word)
  | lcidx (c : Nat) (w : Word)
  | agld (c : Nat) (w : Word)
  | agst (c : Nat) (w : Word)
  | agset (c : Nat) (w : Word)
  | swait (c : Nat) (w : Word)
  | stake (c : Nat) (w : Word)
  | syncWaitMet (c : Nat)
  | ssig (c : Nat) (w : Word)
  | sset (c : Nat) (w : Word)
  | deviceSignal (o : Nat)
  | issueF (c : Nat) (w w1 : Word)
  | issueM (c : Nat) (w w1 : Word)
  | issueV (c : Nat) (w w1 : Word)
  | issueH (c : Nat) (w w1 : Word)
  | issueS (c : Nat) (w w1 : Word)
  | barDrain (c : Nat) (w : Word)
  | barStage (c : Nat) (w : Word)
  | barEnd (c : Nat) (w : Word)
  | barrierDrained (c : Nat)
  | recb (c : Nat) (w : Word)
  | verd (c : Nat) (w : Word)
  | rdcyc (c : Nat) (w : Word)
  | trap (c : Nat) (w : Word)
  | fetchCopy (c : Nat)
  | fetchGather (c : Nat)
  | fetchCopyrel (c : Nat)
  | storeCopy (c : Nat)
  | storeAppend (c : Nat)
  | storeVappend (c : Nat)
  | storePlist (c : Nat)
  | transferComplete (c : Nat) (e : Engine) (seq : Nat)
  | matrixRun (c : Nat) (residue : Option Nat)
  | matrixRunFinish (c seq : Nat)
  | vectorList (c : Nat)
  | hammingQload (c : Nat)
  | hammingXscan (c : Nat)
  | hammingTload (c : Nat)
  | hammingPqscan (c : Nat)
  | hammingSelect (c : Nat)
  | frameStaged (c : Nat)
  | reservoirRead (c stack bank row gran : Nat) (r : CodeRead) (spareRow : Bool)
  | reservoirReadLate (c stack ch gran attempt : Nat) (k : RegionKind) (bothCopies spareLane : Bool)
  | mirrorRebuildDone (stack : Nat)
  | sramPatrol (mem inst addr : Nat) (r : CodeRead) (passEnds : Bool)
  | hbmPatrol (stack bank row gran : Nat) (r : CodeRead) (spareRow passEnds : Bool)
  | flashPageReadDone (l : Loc) (steps : List Nat) (us : Nat)
  | flashProgramDone (l : Loc) (nsid lba : Nat) (ok : Bool)
  | flashEraseDone (dieSet block : Nat) (ok slc : Bool)
  | dieStatusPollTimeout (ch die : Nat)
  | dieRebuildDone (ch die : Nat)
  | gcMove (nsid lba : Nat) (src dst : Loc)
  | fold (nsid lba : Nat) (dst : Loc)
  | mediaPatrolRead (l : Loc) (steps : List Nat) (passEnds : Bool)
  | directoryCheckpoint
  | mapPageConfirmed (page : Nat) (l : Loc)
  | timestampTimeout
  | fmcCoreWatchdog (core : Nat)
  | processorWatchdogExpiry
  | commandAuditExpiry (sqid cid : Nat)
  | errorHandlerTimeout
  | envelopeRecovery
  | laneFailure (port lane : Nat) (codeword : Bool)
  | portRetrainDone (port : Nat)
  | flitRetry (port : Nat)
  | electricalTrainingDone (port : Nat)
  | trainingRetry (port : Nat)
  | ethernetInterfaceUp (port i : Nat)
  | hello (port : Nat) (h : Hello)
  | probe (m : Msg)
  | probeack (m : Msg)
  | probeTimer
  | ack (m : Msg)
  | resendTimeout (dev flow : Nat)
  | pathRecovery (dev path : Nat)
  | rateRaiseTimer (dev : Nat)
  | bind (m : Msg)
  | bindack (m : Msg)
  | rread (m : Msg)
  | rdata (m : Msg)
  | rwrite (m : Msg)
  | wack (m : Msg)
  | rsig (m : Msg)
  | cancel (m : Msg)
  | cancelack (m : Msg)
  | waking (m : Msg)
  | reject (m : Msg)
  | remoteTimeout (opid dev : Nat)
  | fanreq (m : Msg)
  | fanprog (m : Msg)
  | fanprogTimer
  | fanres (m : Msg)
  | shufitem (m : Msg)
  | shufend (m : Msg)
  | shufpair (m : Msg)
  | spdmGetVersion (req : List Byte)
  | spdmGetCapabilities (req : List Byte)
  | spdmNegotiateAlgorithms (req : List Byte)
  | spdmGetDigests (req : List Byte)
  | spdmGetCertificate (req : List Byte)
  | spdmChallenge (req : List Byte)
  | spdmGetMeasurements (req : List Byte)
  | subsystemHealthStatusPoll
  | nvmeMiAdminTunnel (e : Sqe)
  | perstDeassert
  | thermalShutdownRecovery (t : List Int)
  | engineCommandFinish (c : Nat) (e : Engine)
  | ucieLaneFault (link : Nat) (spareLeft : Bool)
  | managementProcessorMemoryError (boot : Bool) (addr : Nat)
  | hostLinkError
  deriving DecidableEq, Repr

end Sys2Proof
end

