-- ==== Sys2Proof/Config.lean ====
section
/-! DEFINITION. What the spec leaves open or an implementation fixes: constants without a body, and the
differences of the two variants (Table 0.1). -/

namespace Sys2Proof

/-- The ordering variants (R3). -/
inductive Variant where
  | d1024 | d512
  deriving DecidableEq, Repr

namespace Config

/-- The value number `n` that the model draws where the spec states none; `State.free` counts the
draws. DESIGN CHOICE (log 9). -/
opaque freeWord : Nat → BitVec 64

/-- EXP of the vector engine: the spec bounds the error and fixes no bit pattern (R284). -/
opaque expF32 : Word → Word

/-- RSQRT of the vector engine: within one unit in the last place (R284). -/
opaque rsqrtF32 : Word → Word

/-- EXP and RSQRT of the vector engine with a BF16 destination (R284). -/
opaque expBf16 : Word → BitVec 16
opaque rsqrtBf16 : Word → BitVec 16

/-- The outputs of an installed model, as FP32 values, for an input under a SATPOL, which decides replays (R89 to R91): the spec gives
no model. -/
opaque modelOut : (model : Nat) → (package : List Byte) → (satpol : Nat) → (input : List Byte) → List Word

/-- A tile that a model drains (R279, R282): the index of its cluster in the job, whether it is quantised with SATCHK, its tensor counter,
elements and accumulations saturated, rows replayed, whether it had a saturation event, whether it is underused. -/
structure Tile where
  clu : Nat
  chk : Bool
  ctr : Fin 64
  sats : Nat
  acc : Nat
  replays : Nat
  event : Bool
  under : Bool
  deriving Inhabited

/-- The tiles that a model drains for an input under a SATPOL (R91, R279): the spec gives no model. -/
opaque modelTiles : (model : Nat) → (package : List Byte) → (satpol : Nat) → (input : List Byte) → List Tile

/-- NORM of an Embed stage: the vector L2-normalised (R90), whose rounding the spec does not fix. -/
opaque normalised : List Word → List Word

/-- The fields that a scan program reads: number, TYPE, LEN, ETYPE, OFFSET (R138): the image header names no place for them;
see log 40 (DESIGN CHOICE). -/
opaque scanFields : (image : List Byte) → List (Nat × Nat × Nat × Nat × Nat)

/-- The tokens a model's tokenizer gives for a text (R138): the spec gives no tokenizer. -/
opaque tokens : (model : Nat) → (package : List Byte) → (input : List Byte) → List (BitVec 16)

/-- Ed448 verification (RFC 8032): context, key, message, signature; see log 10 (DESIGN CHOICE). -/
opaque ed448Verify : List Byte → List Byte → List Byte → List Byte → Bool

/-- Ed448 signature by the sled's identity key: context, message. -/
opaque ed448Sign : List Byte → List Byte → List Byte

/-- The public identity key of the sled (57 bytes), and the DER certificates of its chain (R478, R484). -/
opaque identityKey : List Byte
opaque rootCert : List Byte
opaque middleCert : List Byte
opaque deviceCert : List Byte

/-- The vendor's root keys (R478), the digests of the mask ROM and of the Trickle image that it holds (R482). -/
opaque rootKey : Nat → List Byte
opaque romDigest : List Byte
opaque trickleDigest : List Byte

/-- The bytes of the firmware slot as manufactured (log 22). -/
opaque firmwareByte : Nat → Byte

/-- The I/O die stepping (Table 19.11). -/
opaque stepping : Byte

/-- The bound table of the vendor image for a built-in stage (R295): FIXED and PERUNIT for a number of clusters, formed from the command's
parameters, and the unit of its X: 0 bytes, 1 records, 2 frames. -/
opaque builtinTable : (opcode : Nat) → (params : List Byte) → (clusters : Nat) → Nat × Nat
opaque builtinUnit : (opcode : Nat) → Fin 3

/-- Serial number and the revision of a firmware image by its header: printable ASCII characters, counted from the space (R38). -/
opaque serialNumber : List (Fin 95)
opaque firmwareRevision : (header : List Byte) → List (Fin 95)

/-- Fields of the NVMe standard's own structures that the spec does not restate. -/
opaque standardByte : (page : Nat) → (offset : Nat) → Byte

/-- The bytes of an index extent that the spec leaves to the sled (R152). -/
opaque internalByte : (region : Nat) → (offset : Nat) → Byte

end Config

namespace Variant

/-- Clusters enabled (Table 0.1). -/
def clusters : Variant → Nat
  | .d1024 => 32
  | .d512 => 16

/-- Compute dies. -/
def computeDies : Variant → Nat
  | .d1024 => 2
  | .d512 => 1

/-- Die sets of the flash translation layer; also the dies whose loss leaves the capacity writable
is half of it. -/
def dieSets : Variant → Nat
  | .d1024 => 64
  | .d512 => 32

/-- Dies on each channel. -/
def diesPerChannel : Variant → Nat
  | .d1024 => 16
  | .d512 => 8

/-- Whole flash dies whose loss leaves the full exported capacity writable. -/
def dieLossLimit : Variant → Nat
  | .d1024 => 32
  | .d512 => 16

/-- Largest exported capacity in TiB. -/
def exportedTiB : Variant → Nat
  | .d1024 => 896
  | .d512 => 448

/-- Largest exported capacity in logical blocks of 4,096 bytes. -/
def exportedBlocks (v : Variant) : Nat := v.exportedTiB * 2 ^ 28

/-- Flash staging slots of a cluster. -/
def stSlots : Variant → Nat
  | .d1024 => 16
  | .d512 => 32

/-- Sync objects. -/
def syncObjects (v : Variant) : Nat := v.clusters * 128

/-- HBM stacks. -/
def stackCount : Variant → Nat
  | .d1024 => 12
  | .d512 => 6

/-- Reservoir capacity in MiB. -/
def reservoirMiB (v : Variant) : Nat := v.stackCount * 49152

/-- The mirror (D1024) or parity (D512) floor in MiB. -/
def protFloorMiB : Variant → Nat
  | .d1024 => 49152
  | .d512 => 8192

/-- Map cache ceiling in MiB. -/
def mapCeilMiB : Variant → Nat
  | .d1024 => 262144
  | .d512 => 131072

/-- Pinned models, total, in MiB. -/
def pinnedMiB : Variant → Nat
  | .d1024 => 147456
  | .d512 => 73728

/-- Runnel ports. -/
def ports : Variant → Nat
  | .d1024 => 4
  | .d512 => 2

/-- SLC buffer target on an empty sled, in GiB; full it is one forty-eighth. -/
def slcEmptyGiB : Variant → Nat
  | .d1024 => 49152
  | .d512 => 24576

/-- Mirrored critical regions exist on the D1024 alone. -/
def mirrored : Variant → Bool
  | .d1024 => true
  | .d512 => false

end Variant

end Sys2Proof
end

