-- ==== Sys2Proof/Machine/Bytes.lean ====
section
/-! DEFINITION. Bytes, little-endian fields, bit fields, sparse memories and list helpers (R10). -/

namespace Sys2Proof.Machine

/-- Bits `hi` to `lo` of a number. -/
def bits (w hi lo : Nat) : Nat := (w >>> lo) % 2 ^ (hi + 1 - lo)

/-- Bit `n` of a number. -/
def bit (w n : Nat) : Bool := w.testBit n

/-- A Bool as a number. -/
def b2n (b : Bool) : Nat := if b then 1 else 0

/-- The `n` bytes of a number, least significant first (R10). -/
def leBytes : Nat → Nat → List Byte
  | 0, _ => []
  | n + 1, v => BitVec.ofNat 8 v :: leBytes n (v / 256)

/-- The number that bytes hold, least significant first (R10). -/
def leNat : List Byte → Nat
  | [] => 0
  | b :: bs => b.toNat + 256 * leNat bs

/-- `n` zero bytes. -/
def zeros (n : Nat) : List Byte := List.replicate n 0

/-- Bytes `off` to `off + n - 1` of a list; what lies past its end reads as zero. -/
def slice (l : List Byte) (off n : Nat) : List Byte :=
  let t := (l.drop off).take n
  t ++ zeros (n - t.length)

/-- The little-endian field of `n` bytes at an offset. -/
def field (l : List Byte) (off n : Nat) : Nat := leNat ((l.drop off).take n)

/-- Bytes laid over a list from `off` on. -/
def patch (l : List Byte) (off : Nat) (bs : List Byte) : List Byte := l.take off ++ bs ++ l.drop (off + bs.length)

/-- Whether every byte from `off` to `off + n - 1` is zero. -/
def zeroAt (l : List Byte) (off n : Nat) : Bool := ((l.drop off).take n).all (· == 0)

/-- Zero bytes appended up to a multiple of `k`. -/
def padTo (k : Nat) (l : List Byte) : List Byte := l ++ zeros ((k - l.length % k) % k)

/-- `n` rounded up to a multiple of `k`. -/
def roundUp (n k : Nat) : Nat := (n + k - 1) / k * k

/-- A saturating counter of 32 bits, advanced by one. -/
def sat32 (n : Nat) : Nat := if n < 0xFFFFFFFF then n + 1 else n

/-- A saturating counter of 32 bits, advanced by `k`. -/
def satAdd32 (n k : Nat) : Nat := min (n + k) 0xFFFFFFFF

/-- A list with its element `n` changed. -/
def modAt {α : Type} (l : List α) (n : Nat) (f : α → α) : List α := l.modify n f

/-- Insertion into a list sorted by a key; an equal key goes after. -/
def insBy {α : Type} (key : α → Nat) (x : α) : List α → List α
  | [] => [x]
  | y :: ys => if key x < key y then x :: y :: ys else y :: insBy key x ys

/-- A stable sort by a key. -/
def sortBy {α : Type} (key : α → Nat) (l : List α) : List α := l.foldl (fun acc x => insBy key x acc) []

/-- Numbers in ascending order, each once. -/
def sortDedup (l : List Nat) : List Nat :=
  (sortBy id l).foldr (fun x acc => if acc.head? == some x then acc else x :: acc) []

/-- Numbers of a list without consecutive repeats. -/
def squeeze : List Nat → List Nat
  | [] => []
  | x :: xs => match squeeze xs with
    | [] => [x]
    | y :: ys => if x = y then y :: ys else x :: y :: ys

/-- The first position of an element that meets a test. -/
def findIdx {α : Type} (p : α → Bool) (l : List α) : Option Nat := l.findIdx? p

/-- The most of a list of numbers, 0 when empty. -/
def maxOf (l : List Nat) : Nat := l.foldl max 0

/-- The sum of a list of numbers. -/
def sumOf (l : List Nat) : Nat := l.foldl (· + ·) 0

/-- The least of a list of numbers, `d` when empty. -/
def minOf (d : Nat) : List Nat → Nat
  | [] => d
  | x :: xs => xs.foldl min x

/-- A sparse memory: cells with strictly rising addresses, none equal to the blank byte. -/
abbrev Mem := List Host.Cell

namespace Mem

/-- What the memory reads at one address; `d` is what an unlisted address reads as. -/
def get (d : Byte) (m : Mem) (a : Nat) : Byte :=
  match m.find? (fun c => c.1 == a) with
  | some c => c.2
  | none => d

/-- `n` bytes from address `a` of a memory whose cells below `a` are dropped. -/
def readFrom (d : Byte) : Nat → Nat → Mem → List Byte
  | 0, _, _ => []
  | n + 1, a, [] => d :: readFrom d n (a + 1) []
  | n + 1, a, (k, b) :: m =>
    if k = a then b :: readFrom d n (a + 1) m else d :: readFrom d n (a + 1) ((k, b) :: m)

/-- `n` bytes from address `a`. -/
def read (d : Byte) (m : Mem) (a n : Nat) : List Byte :=
  readFrom d n a (m.dropWhile (fun c => decide (c.1 < a)))

/-- The cells that bytes from address `a` fill. -/
def cells (d : Byte) : Nat → List Byte → Mem
  | _, [] => []
  | a, b :: bs => if b = d then cells d (a + 1) bs else (a, b) :: cells d (a + 1) bs

/-- The memory with bytes stored from address `a`. -/
def write (d : Byte) (m : Mem) (a : Nat) (bs : List Byte) : Mem :=
  m.filter (fun c => decide (c.1 < a)) ++ cells d a bs
    ++ m.filter (fun c => decide (a + bs.length ≤ c.1))

/-- The memory with `n` bytes from address `a` blank. -/
def clear (m : Mem) (a n : Nat) : Mem :=
  m.filter (fun c => decide (c.1 < a) || decide (a + n ≤ c.1))

/-- The canonical form: addresses strictly rising, no cell equal to the blank byte. -/
def wfFrom (d : Byte) : Nat → Mem → Bool
  | _, [] => true
  | lo, (k, b) :: m => decide (lo ≤ k) && b != d && wfFrom d (k + 1) m

def wf (d : Byte) (m : Mem) : Bool := wfFrom d 0 m

end Mem

end Sys2Proof.Machine
end

