-- ==== Sys2Proof/Machine/Float.lean ====
section
/-! DEFINITION. Binary floating point as exact numbers: decoding and comparing (R129, R136, 09). -/

namespace Sys2Proof.Machine

/-- A number of a binary format: not a number, an infinity, or sign and m × 2^e exactly. -/
inductive Fl where
  | nan
  | inf (neg : Bool)
  | fin (neg : Bool) (m : Nat) (e : Int)
  deriving DecidableEq, Repr

namespace Fl

/-- Decode the IEEE-style format with `ew` exponent and `mw` fraction bits. -/
def decode (ew mw w : Nat) : Fl :=
  let neg := w.testBit (ew + mw)
  let x := (w >>> mw) % 2 ^ ew
  let f := w % 2 ^ mw
  let bias : Int := 2 ^ (ew - 1) - 1
  if x = 2 ^ ew - 1 then (if f = 0 then .inf neg else .nan)
  else if x = 0 then .fin neg f (1 - bias - mw)
  else .fin neg (2 ^ mw + f) (x - bias - mw)

/-- FP32, BF16 and FP64. -/
def ofF32 (w : Nat) : Fl := decode 8 23 w
def ofBf16 (w : Nat) : Fl := decode 8 7 w
def ofF64 (w : Nat) : Fl := decode 11 52 w

/-- m × 2^e as an integer multiple of 2^lo, for lo ≤ e. -/
def scaled (neg : Bool) (m : Nat) (e lo : Int) : Int :=
  let v : Int := m * 2 ^ (e - lo).toNat
  if neg then -v else v

/-- The order of two numbers; `none` when one is not a number. +0 equals −0. -/
def cmp : Fl → Fl → Option Ordering
  | .nan, _ => none
  | _, .nan => none
  | .inf a, .inf b => some (if a == b then .eq else if a then .lt else .gt)
  | .inf a, .fin _ _ _ => some (if a then .lt else .gt)
  | .fin _ _ _, .inf b => some (if b then .gt else .lt)
  | .fin a m e, .fin b n g =>
    let lo := min e g
    some (compare (scaled a m e lo) (scaled b n g lo))

end Fl

end Sys2Proof.Machine
end

