-- ==== Sys2Proof/Machine/NvmState.lean ====
section
/-! DEFINITION. The state of the host link, the NVMe controller and the result sets (02, 03). -/

namespace Sys2Proof.Machine

/-- The statuses with which the sled completes commands, by name: the generic, command-specific and media
statuses of the NVMe standard that the spec names, and the vendor statuses of Table 3.22. -/
inductive Status where
  | success
  | invalidOpcode | invalidField | cidConflict | abortRequested | sqDeletion | internalError
  | sanitizeInProgress | sanitizeFailed | commandSequence | invalidNamespace | sglLength
  | lbaOutOfRange | capacityExceeded | writeProtected | unrecoveredRead | invalidFormat
  | abortLimit | aerLimit | invalidQueueId | invalidQueueSize | cqInvalid | invalidQueueDeletion
  | accessDenied | invalidVector | invalidLogPage | notSaveable | notChangeable
  | selfTestInProgress | invalidFwSlot | invalidFwImage | overlappingRange
  | nsCapacity | nsIdUnavailable | nsAttached | nsNotAttached | controllerList
  | checkFailed | commitPending | partitionBusy | notResident | timingFault | jobWatchdog
  | poisonedResult | remoteUnreachable | remoteTimeout | programBusy | epochStale | tierFailed
  | trickle | saturationLimit | poolExhausted
  deriving DecidableEq, Repr

/-- A completion queue entry (02, 03 R115). -/
structure Cqe where
  sqid : Nat
  cid : Nat
  sqhd : Nat
  status : Status
  more : Bool
  dw0 : Nat
  dw1 : Nat
  deriving DecidableEq, Repr

/-- What the sled writes to host memory, in the order in which it writes it (R34): data of a command at an
offset of its data buffer, which alone may carry Relaxed Ordering, completion entries, MSI-X messages. -/
inductive HostWrite where
  | data (sqid cid off : Nat) (relaxed : Bool) (bytes : List Byte)
  | entry (cqid : Nat) (e : Cqe)
  | msix (vector : Nat)
  deriving DecidableEq, Repr

/-- A submission queue (R39). `unfetched` are the entries between head and tail. -/
structure Sq where
  id : Nat
  size : Nat
  head : Nat
  tail : Nat
  cqid : Nat
  prio : Nat
  unfetched : List Sqe
  deriving DecidableEq, Repr

/-- A completion queue (R39). Entries between head and tail are posted and not yet consumed; `backlog` are
completions that wait for room. -/
structure Cq where
  id : Nat
  size : Nat
  head : Nat
  tail : Nat
  vector : Nat
  ien : Bool
  backlog : List Cqe
  deriving DecidableEq, Repr

/-- How far a command in flight has come (Table 2.5). -/
inductive Phase where
  | held          -- held by R60
  | waiting       -- fetched; its effect has not begun
  | executing     -- its effect has begun
  | job           -- on a job queue or running
  | ending        -- its completion waits for room
  deriving DecidableEq, Repr

/-- An audit entry: one for each command in flight (R465). `order` counts fetches; `errRec` is the ring slot of
the earliest error record attributed to the command (R475). -/
structure Flight where
  sqid : Nat
  cid : Nat
  opc : BitVec 8
  cmd : Cmd
  order : Nat
  fetched : Nat
  deadline : Nat
  phase : Phase
  errRec : Option Nat
  deriving DecidableEq, Repr

/-- An Error Information entry (R74). `record` is the ring slot of the earliest record of the command. -/
structure ErrInfo where
  count : Nat
  sqid : Nat
  cid : Nat
  status : Status
  nsid : Nat
  record : Option Nat
  deriving DecidableEq, Repr

/-- An asynchronous event that waits for a request or is to be read: type, information, log page (R75). -/
structure Event where
  typ : Nat
  info : Nat
  page : Nat
  deriving DecidableEq, Repr

/-- A result of the self-test log (R61): code, result, failing segment, power-on hours at its end. -/
structure TestResult where
  code : Nat
  result : Nat
  segment : Nat
  hours : Nat
  deriving DecidableEq, Repr

/-- A running self-test (R61 to R63): code, slices done (4096 times segment plus unit), suspended, first failed segment. -/
structure SelfTest where
  code : Nat
  done : List Nat
  suspended : Bool
  failed : Nat
  deriving DecidableEq, Repr

/-- The host link (R31, R32). -/
structure HostLink where
  up : Bool
  rate : Nat
  width : Nat
  deriving DecidableEq, Repr

/-- A namespace (R71, R72, R493). `keyGen` numbers its key; `gone` is the fetch order of a delete or detach
under way. -/
structure Ns where
  id : Nat
  size : Nat
  attached : Bool
  keyGen : Nat
  gone : Option Nat
  mem : Mem
  deriving DecidableEq, Repr

/-- The function's configuration space as the host sets it (R33, Table 2.2): Max Payload Size and Max Read Request Size in bytes, the width
of tags, Relaxed and ID-Based Ordering enabled, ASPM L1 enabled, the bases of BAR0 and BAR2, MSI-X enabled and masked, the entries of the
MSI-X table that the host has written (vector, address, data, masked), the pending bits that are set, the header log of Advanced Error
Reporting. No row of the table of operations writes them; see log 14 (DESIGN CHOICE). -/
structure Pci where
  mps : Nat
  mrrs : Nat
  tagBits : Nat
  relaxed : Bool
  idOrder : Bool
  aspm : Bool
  bar0 : Nat
  bar2 : Nat
  msix : Bool
  msixMask : Bool
  table : List (Nat × Nat × Nat × Bool)
  pba : List Nat
  header : List Byte
  deriving DecidableEq, Repr

/-- The configuration space at reset: the defaults of PCI Express (PRESUMED, log 14). -/
def Pci.reset : Pci where
  mps := 128
  mrrs := 512
  tagBits := 8
  relaxed := true
  idOrder := false
  aspm := false
  bar0 := 0
  bar2 := 0
  msix := false
  msixMask := false
  table := []
  pba := []
  header := []

/-- The controller, its queues, features, events and serial class. `rrLast` holds for the urgent, high, medium and low priority class the
queue fetched from last (class 0 stands for every queue of a plain round robin), `burst` how many commands it has given in a row, `credits` what the high, medium and low priority classes may still fetch in this round (R40), `serial` the fetch number of
the serial command that was started last (R48). -/
structure Nvm where
  link : HostLink
  cc : Word
  aqa : Word
  asq : Dword
  acq : Dword
  en : Bool
  rdy : Bool
  shst : Nat
  sqs : List Sq
  cqs : List Cq
  pci : Pci
  rrLast : List Nat
  burst : List Nat
  credits : List Nat
  flights : List Flight
  orders : Nat
  serial : Option Nat
  aers : List (Nat × Nat)
  events : List Event
  masked : List Nat
  errLog : List ErrInfo
  errCount : Nat
  feats : List (Nat × Nat)
  saved : List (Nat × Nat)
  tsSet : Bool
  tsBase : Nat
  tsAt : Nat
  deriving DecidableEq, Repr

/-- Power states, self-test, firmware staging and sanitize (R53 to R70). -/
structure Mgmt where
  ps : Nat
  lastOp : Nat
  entry : Option (Nat × Nat × Nat)
  exiting : Bool
  test : Option SelfTest
  testLog : List TestResult
  fw : List (Nat × List Byte)
  sanitize : Option Nat
  sanResume : Bool
  sanStatus : Nat
  deriving DecidableEq, Repr

/-- One record of a record stream (R85, R87): its item ID, the fields it carries by schema number, the numbers and TYPEs of the
fields projected onto it (R141), the vector or code that the previous stage produced, model outputs, other bytes (a frame
bitmap, host input, the output of a program), the KIND of host input (R134), its poison; and the fields that are poisoned, FFFFh for
`vec`. -/
structure Rec where
  id : Nat
  fields : List (Nat × List Byte)
  proj : List (Nat × Nat)
  vec : List Byte
  outs : List Word
  raw : List Byte
  kind : Nat
  poison : Bool
  hurt : List Nat := []
  deriving DecidableEq, Repr

/-- A result set (R110 to R114). `first` is the first held stream byte, `bytes` what is held from there, `recs` the records
that begin within it. -/
structure ResultSet where
  handle : Nat
  nsid : Nat
  part : Nat
  first : Nat
  total : Nat
  bytes : List Byte
  fmt : Nat
  nrec : Nat
  recs : List Rec
  until_ : Nat
  users : List (Nat × Nat)
  released : Bool
  deriving DecidableEq, Repr

/-- The result sets and the next handle. -/
structure Results where
  sets : List ResultSet
  next : Nat
  deriving DecidableEq, Repr

/-- The controller at reset: disabled, the link down, no queue but what CC.EN will make; vendor feature C0h is 7Fh
(R75) and the other features 0 (DESIGN CHOICE, log 20). -/
def Nvm.reset : Nvm where
  link := ⟨false, 0, 0⟩
  cc := 0
  aqa := 0
  asq := 0
  acq := 0
  en := false
  rdy := false
  shst := 0
  sqs := []
  cqs := []
  pci := Pci.reset
  rrLast := [0, 0, 0, 0]
  burst := [0, 0, 0, 0]
  credits := [0, 0, 0]
  flights := []
  orders := 0
  serial := none
  aers := []
  events := []
  masked := []
  errLog := []
  errCount := 0
  feats := [(0xC0, 0x7F)]
  saved := []
  tsSet := false
  tsBase := 0
  tsAt := 0

/-- PS0, no test, nothing staged, no sanitize. -/
def Mgmt.reset : Mgmt where
  ps := 0
  lastOp := 0
  entry := none
  exiting := false
  test := none
  testLog := []
  fw := []
  sanitize := none
  sanResume := false
  sanStatus := 0

/-- No result set; the first handle is 0001h (R111). -/
def Results.reset : Results := ⟨[], 1⟩

end Sys2Proof.Machine
end

