-- ==== Sys2Proof/Machine/JobState.lean ====
section
/-! DEFINITION. The state of configurations, partitions, jobs, models and the Reservoir pool (10, 11, 15). -/

namespace Sys2Proof.Machine

/-- An entry of the object group table (Table 15.2). `members` is the bitmap of devices. -/
structure ObjGroup where
  nsid : Nat
  objid : Nat
  kind : Nat
  part : Nat
  jq : Nat
  members : Nat
  deriving DecidableEq, Repr

/-- The transactional settings (R417): Table 10.1, Table 13.2 and Table 14.6. `queues` holds QEN and WEIGHT of
queue q of partition p at 16p + q. -/
structure Conf where
  clusters : List Nat
  share : List Nat
  queues : List (Bool × Nat)
  quantum : List Nat
  jwlim : List Nat
  devnum : Nat
  sysid : Nat
  pmode : List Nat
  pfx : Nat
  udpport : Nat
  vlan : Nat
  rtmo : Nat
  groups : List (Option ObjGroup)
  slot : Nat
  stepw : Nat
  release : Nat
  cadsrc : Nat
  allowcap : Nat
  testhour : Nat
  deriving DecidableEq, Repr

/-- An entry of the Check Result log page (Table 15.6). -/
structure CheckFail where
  item : Nat
  index : Nat
  rule : Nat
  detail : Nat
  deriving DecidableEq, Repr

/-- Where a commit stands (R423). -/
inductive CommitPhase where
  | draining | recording | durable
  deriving DecidableEq, Repr

/-- A commit under way: its command, its drained partitions and the end of DRAIN. -/
structure Commit where
  sqid : Nat
  cid : Nat
  phase : CommitPhase
  drained : List Nat
  until_ : Nat
  deriving DecidableEq, Repr

/-- The configuration in force, its generation, and the staging image (R417, R418). `checked` is STATE of
the Check Result page while an image exists. -/
structure Cfg where
  conf : Conf
  gen : Nat
  image : Option Conf
  stageId : Nat
  lastId : Nat
  checked : Nat
  fails : List CheckFail
  nfail : Nat
  commit : Option Commit
  deriving DecidableEq, Repr

/-- What a job works for: a command, the link jobs of an Index Publish, the training job of an Index
Create, or the fan-out of a peer (Table 10.7 RUNNING). -/
inductive JobKind where
  | command
  | link (nsid idx : Nat)
  | train (nsid idx : Nat)
  | fan (dev : Nat) (tag : Nat)
  deriving DecidableEq, Repr

/-- A job on a job queue (R292). A job whose command a function reset has ended is torn down under a key that no command has: SQID FFFFh,
with the old SQID above the CID. `hurt` are the parts of its input that a peer delivered poisoned, from and to. -/
structure Job where
  sqid : Nat
  cid : Nat
  order : Nat
  opc : Nat
  cmd : Cmd
  part : Nat
  jq : Nat
  dl : Bool
  deadline : Nat
  fetched : Nat
  kind : JobKind
  hurt : List (Nat × Nat) := []
  deriving DecidableEq, Repr

/-- A field descriptor (Table 4.4). -/
structure FieldD where
  typ : Nat
  etype : Nat
  len : Nat
  off : Nat
  deriving DecidableEq, Repr

/-- A valid collection as its descriptor declares it (Table 4.3). -/
structure Coll where
  id : Nat
  sgen : Nat
  first : Nat
  nframes : Nat
  reclen : Nat
  fields : List FieldD
  deriving DecidableEq, Repr

/-- What a stage meets as it reads: an invalid frame, reported under its item ID (R133); or a record, with NREC of its frame. -/
inductive Seen where
  | bad (id : Nat)
  | item (r : Rec) (nrec : Nat)
  deriving DecidableEq, Repr

/-- The running job of a partition: its stage, cycles, bound B and watchdog limit W, clusters, streams,
reply flags and, when it is being torn down, the status it will complete with. `atBar` are the clusters whose
core stands at the barrier that ends the stage; `cursor` is the append cursor (R246), `marks` the appended records (offset, length, whether of VAPPEND), `copies` the stored objects that
the job started with (R302), `regions` the base and length of its regions (Table 8.3), `inst` its INST (R377), `coll` the collection
of its first stage as it stood when the job started (R127), `seen` what the frames staged so far show (R139), `wrote` the records of the
output that have been wholly written (R115). -/
structure Run where
  job : Job
  stage : Nat
  nstg : Nat
  cycles : Nat
  bound : Nat
  limit : Nat
  clusters : List Nat
  gen : Nat
  input : List Rec
  recs : List Rec
  out : List Byte
  nrec : Nat
  recsz : Nat
  fmt : Nat
  poison : List Nat
  flags : Nat
  stat : Nat
  epoch : Nat
  missing : List Nat
  atBar : List Nat
  teardown : Option Status
  tdAt : Nat
  cursor : Nat
  marks : List (Nat × Nat × Bool)
  copies : List (Nat × List Byte)
  regions : List (Nat × Nat)
  inst : Nat
  coll : Option Coll
  seen : List (Nat × List Seen)
  wrote : Nat := 0
  deriving DecidableEq, Repr

/-- A sequence of a batch (R305, R306): its member, ordinal, record, tokens, tokens left and units. -/
structure BSeq where
  sqid : Nat
  cid : Nat
  ord : Nat
  item : Rec
  tokens : Nat
  left : Nat
  units : Nat
  deriving DecidableEq, Repr

/-- A member of a batch: its job, the schema of its records as it joined (R127), the sequences that have not joined, the records finished in
the order in which they left; bytes of its record area and records that have been written (R307). -/
structure Member where
  job : Job
  schema : Option (List FieldD)
  waiting : List BSeq
  done : List (Nat × Rec)
  poison : List Nat
  leaving : Option Status
  area : Nat := 0
  wrote : Nat := 0
  deriving DecidableEq, Repr

/-- A running batch job (R305 to R309); `copy` is the package that it started with (R302). -/
structure Batch where
  model : Nat
  copy : List Byte
  opc : Nat
  members : List Member
  active : List BSeq
  closed : Bool
  clusters : List Nat
  cycles : Nat
  limit : Nat
  teardown : Option Status
  deriving DecidableEq, Repr

/-- Counters of a partition (Table 10.7). -/
structure PartCnt where
  jobs : Nat
  busy : Nat
  teardowns : Nat
  watchdog : Nat
  dlAdmit : Nat
  dlRefused : Nat
  deferred : Nat
  maxDefer : Nat
  presets : Nat
  joinDefer : Nat
  trunc : Nat
  loadWait : Nat
  deriving DecidableEq, Repr

/-- A partition: its queues with DEFICIT, DISPATCHED and CHARGED, last(p), the job that has been
selected and waits for grants (R396), its running job or batch, a partition reset under way, a clear that a job boundary ends, and when a
teardown that waits for remote operations began (R311). -/
structure Part where
  queues : List (List Job)
  deficit : List Int
  dispatched : List Nat
  charged : List Nat
  last : Nat
  sel : Option Job
  run : Option Run
  batch : Option Batch
  resetting : Bool
  clearing : Bool
  cnt : PartCnt
  deferAt : Option Nat
  deriving DecidableEq, Repr

/-- An object of the model store (R299): a model package or a program image. -/
structure Stored where
  id : Nat
  model : Bool
  bytes : List Byte
  pin : Bool
  deriving DecidableEq, Repr

/-- A staging of a model (R301): pieces by offset, package length. -/
structure StagedModel where
  id : Nat
  len : Nat
  pin : Bool
  pieces : List (Nat × List Byte)
  deriving DecidableEq, Repr

/-- A hot-set entry (Table 10.9). -/
structure Hot where
  id : Nat
  loading : Bool
  inUse : Nat
  lastUse : Nat
  uses : Nat
  bytes : Nat
  deriving DecidableEq, Repr

/-- The model store and the hot set. `installing` are identifiers between FIRST and the completion of LAST; `loadQ` are loads that wait;
`lost` are the units of 4 KiB, by object and number, that the media lost (R317). -/
structure Store where
  objs : List Stored
  staged : List StagedModel
  installing : List Nat
  hot : List Hot
  loadQ : List Nat
  lost : List (Nat × Nat)
  deriving DecidableEq, Repr

/-- A unit of the Reservoir pool (Table 11.3): class, a key within the class, owner partition (8 the
system), bytes in whole 4 KiB pages, the die on whose stacks they are interleaved, none for every stack (R318), when its age began, uses
that hold it, and its place in the order of allocation. -/
structure PoolUnit where
  cls : Nat
  key : Nat
  owner : Nat
  bytes : Nat
  home : Option Nat
  age : Nat
  users : Nat
  order : Nat
  deriving DecidableEq, Repr

/-- The Reservoir (11): units of the shared remainder, the memory of job addresses with its poisoned granules,
retirements, lanes, rows, rebuilds and the counters of the MEM block. `lanes` are the channels with their spare lane in use, `rows` the rows
remapped, `spareRows` the banks without a spare row, `corr` the rows corrected in the patrol interval, `rebuild` the stacks whose mirror
copies are being rebuilt, `undelivered` the granules that a cluster's next fetch does not get (cluster, granule, number of the first
free value). -/
structure Resv where
  units : List PoolUnit
  orders : Nat
  mem : Mem
  poison : List Nat
  stkLost : List Nat
  chRet : List (Nat × Nat)
  lanes : List (Nat × Nat)
  rows : List (Nat × Nat × Nat)
  spareRows : List (Nat × Nat)
  corr : List (Nat × Nat × Nat)
  rebuild : List Nat
  undelivered : List (Nat × Nat × Nat)
  evict : Nat
  exhaust : Nat
  late : Nat
  mirRet : Nat
  nmFail : Nat
  tierFail : Nat
  rowRep : Nat
  laneRep : Nat
  mirSkip : Nat
  deriving DecidableEq, Repr

/-- The configuration shipped (Tables 10.1, 13.2, 14.6) for a variant. -/
def Conf.shipped (v : Variant) : Conf where
  clusters := (2 ^ v.clusters - 1) :: List.replicate 7 0
  share := 256 :: List.replicate 7 0
  queues := List.replicate 128 (true, 16)
  quantum := List.replicate 8 (2 ^ 24)
  jwlim := List.replicate 8 (2 ^ 38)
  devnum := 16383
  sysid := 0
  pmode := [0, 0, 0, 0]
  pfx := 0
  udpport := 51340
  vlan := 0
  rtmo := 2000
  groups := List.replicate 64 none
  slot := 0
  stepw := 150
  release := 250
  cadsrc := 0
  allowcap := 32
  testhour := 0

/-- The shipped configuration in force with CFGGEN 1, no image (R417, R418). -/
def Cfg.reset (v : Variant) : Cfg where
  conf := Conf.shipped v
  gen := 1
  image := none
  stageId := 0
  lastId := 0
  checked := 0
  fails := []
  nfail := 0
  commit := none

/-- Counters at zero. -/
def PartCnt.reset : PartCnt := ⟨0, 0, 0, 0, 0, 0, 0, 0, 0, 0, 0, 0⟩

/-- An idle partition: every DEFICIT 0 and last(p) 15 (R293). -/
def Part.reset : Part where
  queues := List.replicate 16 []
  deficit := List.replicate 16 0
  dispatched := List.replicate 16 0
  charged := List.replicate 16 0
  last := 15
  sel := none
  run := none
  batch := none
  resetting := false
  clearing := false
  cnt := PartCnt.reset
  deferAt := none

/-- An empty model store (DESIGN CHOICE, log 3) and hot set. -/
def Store.reset : Store := ⟨[], [], [], [], [], []⟩

/-- The Reservoir after the power-on fill, as manufactured (DESIGN CHOICE, log 3). -/
def Resv.reset : Resv where
  units := []
  orders := 0
  mem := []
  poison := []
  stkLost := []
  chRet := []
  lanes := []
  rows := []
  spareRows := []
  corr := []
  rebuild := []
  undelivered := []
  evict := 0
  exhaust := 0
  late := 0
  mirRet := 0
  nmFail := 0
  tierFail := 0
  rowRep := 0
  laneRep := 0
  mirSkip := 0

end Sys2Proof.Machine
end

