-- ==== Sys2Proof/Machine/Collections.lean ====
section
/-! DEFINITION. Frames, collections, records and predicate lists (04). -/

namespace Sys2Proof.Machine

/-- One step of CRC-32C over a bit of the register. -/
def crcBit (c : Nat) : Nat := if c.testBit 0 then (c >>> 1) ^^^ 0x82F63B78 else c >>> 1

/-- CRC-32C of bytes (Castagnoli polynomial). -/
def crc32c (bs : List Byte) : Nat :=
  (bs.foldl (fun c b =>
    let c := c ^^^ b.toNat
    crcBit (crcBit (crcBit (crcBit (crcBit (crcBit (crcBit (crcBit c)))))))) 0xFFFFFFFF) ^^^ 0xFFFFFFFF

/-- A frame as a job reads it: its number, its bytes and its poisoned 64-byte granules. -/
structure Frame where
  no : Nat
  cells : Mem
  bad : List Nat
  deriving DecidableEq, Repr

/-- Frame `no` of a namespace whose lost blocks are `lost`: the granules of a lost block are poisoned and carry zero bytes (R121, R317,
R352). -/
def frameAt (mem : Mem) (lost : List Nat) (no : Nat) : Frame where
  no := no
  cells := (mem.filter fun c => decide (no * 65536 ≤ c.1) && decide (c.1 < (no + 1) * 65536) && !lost.contains (c.1 / 4096)).map
    fun c => (c.1 - no * 65536, c.2)
  bad := (lost.filter fun b => b / 16 == no).flatMap fun b => (List.range 64).map fun g => b % 16 * 64 + g

namespace Frame

/-- `n` bytes at an offset, and the field they hold. -/
def bytes (f : Frame) (off n : Nat) : List Byte := Mem.read 0 f.cells off n
def num (f : Frame) (off n : Nat) : Nat := leNat (f.bytes off n)

/-- Whether a byte range meets a poisoned granule; an empty one meets none. -/
def badIn (f : Frame) (off n : Nat) : Bool :=
  n != 0 && f.bad.any fun g => decide (g * 64 < off + n) && decide (off < (g + 1) * 64)

/-- CHECK is the CRC-32C of the frame with CHECK taken as zero (R122). -/
def checkOk (f : Frame) : Bool :=
  f.num 0x3C 4 == crc32c (f.bytes 0 0x3C ++ zeros 4 ++ f.bytes 0x40 65472)

end Frame

namespace FieldD

/-- Bytes in the fixed part (Table 4.5); 0 for a type that is not listed. -/
def size (d : FieldD) : Nat :=
  if d.typ = 1 ∨ d.typ = 5 then 1
  else if d.typ = 2 ∨ d.typ = 6 ∨ d.typ = 9 then 2
  else if d.typ = 3 ∨ d.typ = 7 ∨ d.typ = 10 then 4
  else if d.typ = 4 ∨ d.typ = 8 ∨ d.typ = 11 ∨ d.typ = 0x10 ∨ d.typ = 0x11 ∨ d.typ = 0x12 ∨ d.typ = 0x19 then 8
  else if d.typ = 0x18 then d.len / 8
  else 0

/-- The alignment of the field. -/
def align (d : FieldD) : Nat := if d.typ = 0x18 then 8 else d.size

/-- The kinds of Table 4.5. -/
def isSigned (d : FieldD) : Bool := decide (1 ≤ d.typ ∧ d.typ ≤ 4)
def isUnsigned (d : FieldD) : Bool := decide (5 ≤ d.typ ∧ d.typ ≤ 8)
def isFloat (d : FieldD) : Bool := decide (9 ≤ d.typ ∧ d.typ ≤ 11)
def isText (d : FieldD) : Bool := d.typ == 0x10
def isTok (d : FieldD) : Bool := d.typ == 0x11 || d.typ == 0x12
def isCode (d : FieldD) : Bool := d.typ == 0x18
def isVec (d : FieldD) : Bool := d.typ == 0x19
def isRef (d : FieldD) : Bool := d.isText || d.isTok || d.isVec

/-- Bytes of an element of an array field. -/
def elem (d : FieldD) : Nat :=
  if d.typ = 0x11 then 2 else if d.typ = 0x12 then 4
  else if d.typ = 0x19 then (if d.etype = 0 then 4 else if d.etype = 1 then 2 else 1) else 1

/-- TYPE, LEN and ETYPE are as Table 4.5 allows (R129). -/
def typeOk (d : FieldD) : Bool :=
  if d.isCode then d.etype == 0 && d.len % 64 == 0 && decide (64 ≤ d.len ∧ d.len ≤ 2048)
  else if d.isVec then decide (d.etype ≤ 2 ∧ 1 ≤ d.len ∧ d.len ≤ 8192)
  else d.size != 0 && d.etype == 0 && d.len == 0

end FieldD

/-- Whether two byte ranges overlap. -/
def overlap (a n b m : Nat) : Bool := decide (a < b + m ∧ b < a + n)

/-- No two elements of a list meet a test. -/
def noPair {α : Type} (p : α → α → Bool) : List α → Bool
  | [] => true
  | x :: xs => xs.all (fun y => !p x y) && noPair p xs

/-- A valid field table (R129). -/
def fieldsOk (reclen : Nat) (fs : List FieldD) : Bool :=
  fs.all (fun d => d.typeOk && decide (8 ≤ d.off ∧ d.off + d.size ≤ reclen) && d.off % d.align == 0) &&
  noPair (fun a b => overlap a.off a.size b.off b.size) fs

/-- Field descriptor `n` of a descriptor frame. -/
def fieldAt (f : Frame) (n : Nat) : FieldD :=
  ⟨f.num (0x100 + 16 * n) 1, f.num (0x101 + 16 * n) 1, f.num (0x102 + 16 * n) 2, f.num (0x104 + 16 * n) 2⟩

/-- The header that frames of types 02h and 03h share (Table 4.1). -/
def headOk (f : Frame) (ftype collid : Nat) : Bool :=
  f.bad.isEmpty && f.num 0 4 == 0x4D52464B && f.num 4 1 == ftype && f.num 5 1 == 1 && f.num 6 2 == 0 &&
  f.num 8 4 == collid && f.num 0x10 8 == f.no && f.num 0x18 2 == 0 && f.num 0x1C 4 == 0 &&
  f.num 0x20 4 == 0 && f.checkOk

/-- The catalogue's entries in use, COLLID and DESCFRAME; none when frame 0 is no valid catalogue (R124). -/
def catalogue (mem : Mem) (lost : List Nat) : List (Nat × Nat) :=
  let f := frameAt mem lost 0
  let n := f.num 0x40 4
  if f.bad.isEmpty && f.num 0 4 == 0x4D52464B && f.num 4 1 == 3 && f.num 5 1 == 1 && f.num 0x10 8 == 0 &&
      f.checkOk && decide (n ≤ 1024) then
    (List.range n).map fun i => (f.num (0x80 + 32 * i) 4, f.num (0x88 + 32 * i) 8)
  else []

/-- The collection that a catalogue entry declares, when it meets the first three conditions of R126: a
candidate. `frames` is the size of the namespace in frames, `descs` the descriptor frames of the catalogue. -/
def candidate (mem : Mem) (lost : List Nat) (frames : Nat) (descs : List Nat) (e : Nat × Nat) : Option Coll :=
  let f := frameAt mem lost e.2
  let nf := f.num 0x50 2
  let c : Coll :=
    { id := e.1, sgen := f.num 0xC 4, first := f.num 0x40 8, nframes := f.num 0x48 8, reclen := f.num 0x52 2
      fields := (List.range nf).map (fieldAt f) }
  if e.1 != 0 && decide (e.2 < frames) && headOk f 2 e.1 &&
      decide (1 ≤ nf ∧ nf ≤ 64 ∧ 16 ≤ c.reclen ∧ c.reclen ≤ 65472 ∧ c.reclen % 8 = 0) &&
      fieldsOk c.reclen c.fields &&
      (List.range 64).all (fun n => decide (n < nf) || f.num (0x100 + 16 * n) 6 == 0) &&
      decide (1 ≤ c.first ∧ 1 ≤ c.nframes ∧ c.first + c.nframes ≤ frames) &&
      descs.all (fun d => decide (d < c.first ∨ c.first + c.nframes ≤ d)) then some c
  else none

/-- The valid collections of a namespace (R126). -/
def collections (mem : Mem) (lost : List Nat) (frames : Nat) : List Coll :=
  let cat := catalogue mem lost
  let descs := cat.map (·.2)
  let cands := cat.filterMap (candidate mem lost frames descs)
  cands.filter fun c =>
    (cat.filter fun e => e.1 == c.id).length == 1 &&
    (cands.filter fun d => overlap c.first c.nframes d.first d.nframes).length == 1

/-- How a scan classifies a frame of an extent (R133). -/
inductive FrameClass where
  | empty | invalid | records
  deriving DecidableEq, Repr

/-- The classification of R133. -/
def classify (c : Coll) (f : Frame) : FrameClass :=
  if f.cells.isEmpty && f.bad.isEmpty then .empty
  else if f.badIn 0 64 then .invalid
  else
    let nrec := f.num 6 2
    let ho := f.num 0x1C 4
    let hl := f.num 0x20 4
    if f.num 0 4 == 0x4D52464B && f.num 4 1 == 1 && f.num 5 1 == 1 && f.num 8 4 == c.id &&
        f.num 0xC 4 == c.sgen && f.num 0x10 8 == f.no && f.num 0x18 2 == c.reclen && decide (nrec ≤ 4092) &&
        ho % 8 == 0 && decide (0x40 + nrec * c.reclen ≤ ho) && decide (ho + hl ≤ 65536) &&
        (!f.bad.isEmpty || f.checkOk) then .records
    else .invalid

/-- A field of a record: its value bytes when it is present and valid, and whether it poisons the record
(R131, R132). -/
def readField (f : Frame) (base : Nat) (d : FieldD) : Option (List Byte) × Bool :=
  if d.isRef then
    let off := f.num (base + d.off) 4
    let len := f.num (base + d.off + 4) 4
    let ho := f.num 0x1C 4
    let hl := f.num 0x20 4
    if decide (ho ≤ off ∧ off + len ≤ ho + hl) && off % d.elem == 0 && len % d.elem == 0 &&
        (!d.isVec || len == d.len * d.elem) then (some (f.bytes off len), f.badIn off len)
    else (none, true)
  else (some (f.bytes (base + d.off) d.size), false)

/-- The record in a slot; `none` for a vacant slot (R130, R132). A field is poisoned when its own bytes or the presence map are; see
log 111 (DEDUCED). -/
def recordAt (c : Coll) (f : Frame) (slot : Nat) : Option Rec :=
  let base := 0x40 + slot * c.reclen
  let map := f.num base 8
  let hurt := f.badIn base c.reclen
  if map == 0 && !hurt then none
  else
    let vals := (c.fields.zipIdx.filter fun p => bit map p.2).map fun p => (p, readField f base p.1)
    some { id := f.no * 65536 + slot
           fields := vals.filterMap fun v => v.2.1.map fun b => (v.1.2, b)
           proj := [], vec := [], outs := [], raw := [], kind := 0
           poison := hurt || vals.any fun v => v.2.2
           hurt := (vals.filter fun v => v.2.2 || f.badIn base 8 || f.badIn (base + v.1.1.off) v.1.1.size).map (·.1.2) }

/-- The records of a frame in slot order. -/
def recordsOf (c : Coll) (f : Frame) : List Rec :=
  (List.range (f.num 6 2)).filterMap (recordAt c f)

/-- The value of a field of a record. -/
def Rec.field (r : Rec) (n : Nat) : Option (List Byte) :=
  match r.fields.find? (fun p => p.1 == n) with
  | some p => some p.2
  | none => none

/-- A term of a predicate list (Table 4.6). -/
structure Term where
  op : Nat
  tflags : Nat
  fld : Nat
  coff : Nat
  clen : Nat
  value : Nat
  konst : List Byte
  deriving DecidableEq, Repr

/-- Term `t` of a list. -/
def termAt (l : List Byte) (t : Nat) : Term :=
  let b := 8 + 16 * t
  { op := field l b 1, tflags := field l (b + 1) 1, fld := field l (b + 2) 2, coff := field l (b + 4) 2
    clen := field l (b + 6) 2, value := field l (b + 8) 8
    konst := (l.drop (field l (b + 4) 2)).take (field l (b + 6) 2) }

/-- The terms of a list. -/
def termsOf (l : List Byte) : List Term := (List.range (field l 1 1)).map (termAt l)

/-- Whether an operation takes a constant, is an operator, or compares a field. -/
def Term.takesConst (t : Term) : Bool := [0x10, 0x11, 0x12, 0x18].contains t.op
def Term.isOp (t : Term) : Bool := [0x20, 0x21, 0x22].contains t.op

/-- Whether an operation accepts a field (Table 4.7). -/
def Term.accepts (t : Term) (d : FieldD) : Bool :=
  if decide (1 ≤ t.op ∧ t.op ≤ 6) then d.isSigned || d.isUnsigned || d.isFloat
  else if t.op == 7 || t.op == 8 then true
  else if t.op == 9 then d.isSigned || d.isUnsigned
  else if t.op == 0x10 || t.op == 0x11 || t.op == 0x12 then d.isText
  else if t.op == 0x13 || t.op == 0x14 then d.isText || d.isTok
  else if t.op == 0x18 then d.isCode
  else if t.op == 0x19 then d.isTok
  else false

/-- The value a field is compared with, as an integer by its type. -/
def signedOf (n : Nat) (v : Nat) : Int := if v < 2 ^ (8 * n - 1) then v else (v : Int) - 2 ^ (8 * n)

/-- The order of a field's value and VALUE (R136); `none` for a NaN. -/
def cmpField (d : FieldD) (b : List Byte) (value : Nat) : Option Ordering :=
  if d.isSigned then some (compare (signedOf d.size (leNat b)) (signedOf 8 value))
  else if d.isUnsigned then some (compare (leNat b) value)
  else
    let x := if d.typ == 9 then Fl.ofBf16 (leNat b) else if d.typ == 10 then Fl.ofF32 (leNat b)
      else Fl.ofF64 (leNat b)
    Fl.cmp x (Fl.ofF64 value)

/-- ASCII capitals folded to small letters. -/
def foldCase (b : Byte) : Byte := if 0x41 ≤ b.toNat ∧ b.toNat ≤ 0x5A then b + 0x20 else b

/-- Whether a list occurs in another. -/
def occursIn (needle : List Byte) : List Byte → Bool
  | [] => needle.isEmpty
  | x :: xs => needle.isPrefixOf (x :: xs) || occursIn needle xs

/-- Ones in a byte, and the Hamming distance of two codes. -/
def ones (b : Nat) : Nat := (List.range 8).foldl (fun a i => a + b2n (b.testBit i)) 0
def hamming (a b : List Byte) : Nat := (a.zip b).foldl (fun n p => n + ones (p.1 ^^^ p.2).toNat) 0

/-- The elements of a token array. -/
def elems (n : Nat) : Nat → List Byte → List Nat
  | 0, _ => []
  | k + 1, bs => leNat (bs.take n) :: elems n k (bs.drop n)

/-- A comparison of Table 4.7 on a present field. -/
def Term.holds (t : Term) (d : FieldD) (b : List Byte) : Bool :=
  let fold := fun (l : List Byte) => if bit t.tflags 0 then l.map foldCase else l
  let o := cmpField d b t.value
  if t.op == 1 then o == some .eq
  else if t.op == 2 then o != some .eq
  else if t.op == 3 then o == some .lt
  else if t.op == 4 then o == some .lt || o == some .eq
  else if t.op == 5 then o == some .gt
  else if t.op == 6 then o == some .gt || o == some .eq
  else if t.op == 8 then true
  else if t.op == 9 then
    (if d.isSigned then (signedOf d.size (leNat b) % 2 ^ 64).toNat else leNat b) &&& t.value != 0
  else if t.op == 0x10 then fold b == fold t.konst
  else if t.op == 0x11 then (fold t.konst).isPrefixOf (fold b)
  else if t.op == 0x12 then occursIn (fold t.konst) (fold b)
  else if t.op == 0x13 then decide (b.length / d.elem < t.value)
  else if t.op == 0x14 then decide (t.value ≤ b.length / d.elem)
  else if t.op == 0x18 then decide (hamming b t.konst ≤ t.value)
  else if t.op == 0x19 then (elems d.elem (b.length / d.elem) b).contains t.value
  else false

/-- One term on the stack of truth values (R135, R136). A field that the schema lacks, or of a type or code length
that the term does not accept, counts as absent (R185); a valid Scan predicate names none. -/
def evalTerm (fs : List FieldD) (r : Rec) (st : List Bool) (t : Term) : List Bool :=
  if t.op == 0x20 then (match st with | a :: b :: k => (a && b) :: k | k => k)
  else if t.op == 0x21 then (match st with | a :: b :: k => (a || b) :: k | k => k)
  else if t.op == 0x22 then (match st with | a :: k => (!a) :: k | k => k)
  else
    let v := match fs[t.fld]? with
      | some d => if t.accepts d && (t.op != 0x18 || t.clen == d.len / 8) then r.field t.fld else none
      | none => none
    let here := if t.op == 7 then v.isNone
      else match v, fs[t.fld]? with
        | some b, some d => t.holds d b
        | _, _ => false
    here :: st

/-- Whether a record passes a predicate list. -/
def passes (fs : List FieldD) (terms : List Term) (r : Rec) : Bool :=
  (terms.foldl (evalTerm fs r) []).head? == some true

/-- Whether a term's own fields are valid in a list of `len` bytes with `n` terms (R137). `fs` is the schema, where it is
known: field existence, type and the length of a HAMLE constant depend on it. `filter` sets R185's rule on the
latter for a Search filter. -/
def Term.valid (fs : Option (List FieldD)) (filter : Bool) (len n : Nat) (t : Term) : Bool :=
  if t.isOp then t.fld == 0 && t.tflags == 0 && t.coff == 0 && t.clen == 0 && t.value == 0
  else
    [1, 2, 3, 4, 5, 6, 7, 8, 9, 0x10, 0x11, 0x12, 0x13, 0x14, 0x18, 0x19].contains t.op && decide (t.tflags < 2) &&
    (if t.takesConst then
      decide (1 ≤ t.clen ∧ t.clen ≤ 256 ∧ 8 + 16 * n ≤ t.coff ∧ t.coff + t.clen ≤ len) &&
      (t.op != 0x18 || !filter || t.clen % 8 == 0)
    else t.coff == 0 && t.clen == 0) &&
    (match fs with
      | none => true
      | some l => match l[t.fld]? with
        | none => false
        | some d => t.accepts d && (t.op != 0x18 || t.clen == d.len / 8))

/-- The depth of the stack after a term; `none` on underflow or above 16 (R137). -/
def stackAfter (t : Term) (d : Nat) : Option Nat :=
  if t.op == 0x20 || t.op == 0x21 then (if d < 2 then none else some (d - 1))
  else if t.op == 0x22 then (if d < 1 then none else some d)
  else if d < 16 then some (d + 1) else none

/-- The offset in a list of the first offence of R137 from term `i` on. -/
def badTerm (fs : Option (List FieldD)) (filter : Bool) (len n : Nat) : Nat → Nat → List Term → Option Nat
  | _, d, [] => if d == 1 then none else some 1
  | i, d, t :: ts =>
    if t.valid fs filter len n then
      match stackAfter t d with
      | none => some (8 + 16 * i)
      | some d => badTerm fs filter len n (i + 1) d ts
    else some (8 + 16 * i)

end Sys2Proof.Machine
end

