-- ==== Sys2Proof/Machine/Meadow.lean ====
section
/-! DEFINITION. The Meadow index: its state, distances, graphs, pending changes, publish and compaction (05). -/

namespace Sys2Proof.Machine

/-- A slot of a plot (Table 5.5): an unused slot keeps its GEN. `raw` is the raw code of its raw page, `code` the
product code (empty in a raw index); `retired` withholds the slot until a full sweep (R173). -/
structure Node where
  used : Bool
  tomb : Bool
  item : Nat
  birth : Nat
  death : Nat
  gen : Nat
  retired : Bool
  edges : List (Nat × Nat)
  raw : List Byte
  code : List Nat
  deriving DecidableEq, Repr

/-- A plot (Table 5.4): its slots below NUSED, its entry node, the epoch at which it last changed, and the node
pages, raw pages and page-list chunks it holds. -/
structure Plot where
  nodes : List Node
  entry : Option Nat
  chEpoch : Nat
  npages : List Nat
  rpages : List Nat
  nchunks : List Nat
  rchunks : List Nat
  deriving DecidableEq, Repr

/-- An entry of the pending log (R165): an insert or a delete, the command that appended it, whether that command's
completion has been posted, and the fetch order plus 1 of the Publish that takes it, 0 for none. -/
structure Pend where
  ins : Bool
  item : Nat
  plot : Nat
  raw : List Byte
  code : List Nat
  sqid : Nat
  cid : Nat
  order : Nat
  done : Bool
  taken : Nat
  deriving DecidableEq, Repr

/-- A directory entry (R157): position, item, plot, slot, STATE. -/
structure DirE where
  pos : Nat
  item : Nat
  plot : Nat
  slot : Nat
  st : Nat
  deriving DecidableEq, Repr

/-- What an index has under way (R161, R168): training, a Publish with its command and taken entries, a
compaction. -/
inductive IdxWork where
  | none
  | training (sqid cid : Nat)
  | publish (sqid cid order : Nat) (linked : Bool)
  | compact (sqid cid plots reclaimed sweeps : Nat)
  deriving DecidableEq, Repr

/-- A Meadow index (R143 to R177). `images` are the plots of retained older epochs, `bound` the epochs that
dispatched queries are bound to; `next` is the new epoch's plots that are not yet durable. -/
structure Index where
  nsid : Nat
  id : Nat
  product : Bool
  codeBits : Nat
  deg : Nat
  alpha16 : Nat
  buildcq : Nat
  first : Nat
  nframes : Nat
  maxItems : Nat
  retain : Nat
  part : Nat
  centroids : List (List Byte)
  codebooks : List (List (List Byte))
  plots : List Plot
  dir : List DirE
  pend : List Pend
  epoch : Nat
  images : List (Nat × List Plot)
  bound : List (Nat × Nat × Nat)
  work : IdxWork
  waiting : List (Nat × Nat × Nat)
  next : Option (List Plot × List DirE)
  stale : Nat
  rejDup : Nat
  rejPois : Nat
  rejFull : Nat
  rejPend : Nat
  reclaimed : Nat
  sweeps : Nat
  dropping : Option Nat
  deriving DecidableEq, Repr

/-- The least by a key of a list with positions; ties go to the earlier. -/
def argmin {α : Type} (key : α → Nat) (l : List α) : Option Nat :=
  (l.zipIdx.foldl (fun (b : Option (Nat × Nat)) p => match b with
    | none => some (key p.1, p.2)
    | some m => if key p.1 < m.1 then some (key p.1, p.2) else b) none).map (·.2)

/-- Subspace `m` of a raw code (R145). -/
def subspace (raw : List Byte) (m : Nat) : List Byte := (raw.drop (8 * m)).take 8

/-- The product code of a raw code: the nearest codeword of each subspace, ties to the lowest (R145). -/
def productCode (books : List (List (List Byte))) (raw : List Byte) : List Nat :=
  books.zipIdx.map fun b => (argmin (hamming (subspace raw b.2)) b.1).getD 0

/-- A codeword. -/
def codeword (books : List (List (List Byte))) (m c : Nat) : List Byte := (books.getD m []).getD c []

/-- The asymmetric distance from a raw query to a product code (R146). -/
def asym (books : List (List (List Byte))) (q : List Byte) (p : List Nat) : Nat :=
  sumOf (p.zipIdx.map fun c => hamming (subspace q c.2) (codeword books c.2 c.1))

/-- The symmetric distance between two product codes (R146). -/
def symDist (books : List (List (List Byte))) (a b : List Nat) : Nat :=
  sumOf ((a.zip b).zipIdx.map fun c => hamming (codeword books c.2 c.1.1) (codeword books c.2 c.1.2))

/-- The plot an item belongs to: the nearest centroid, ties to the lowest plot (R147). -/
def plotOf (ix : Index) (raw : List Byte) : Nat := (argmin (hamming raw) ix.centroids).getD 0

/-- The distance of a walk from a raw query to a node (R181). -/
def walkDist (ix : Index) (q : List Byte) (n : Node) : Nat :=
  if ix.product then asym ix.codebooks q n.code else hamming q n.raw

/-- The distance of a prune between two nodes (R150). -/
def nodeDist (ix : Index) (a b : Node) : Nat :=
  if ix.product then symDist ix.codebooks a.code b.code else hamming a.raw b.raw

/-- A node of a plot, if the slot is below NUSED. -/
def Plot.node? (p : Plot) (s : Nat) : Option Node := p.nodes[s]?

/-- Whether an edge is valid in a plot: its target is in use and of the edge's generation (R149). -/
def Plot.edgeOk (p : Plot) (e : Nat × Nat) : Bool :=
  match p.node? e.1 with
  | some n => n.used && n.gen == e.2
  | none => false

/-- An entry of a candidate queue: distance, item ID, slot, expanded. -/
structure QEnt where
  dist : Nat
  item : Nat
  slot : Nat
  expanded : Bool
  deriving DecidableEq, Repr

/-- The key order of R181: distance, item ID, slot. -/
def QEnt.before (a b : QEnt) : Bool :=
  decide (a.dist < b.dist) || a.dist == b.dist &&
    (decide (a.item < b.item) || a.item == b.item && decide (a.slot < b.slot))

/-- Insertion in key order. -/
def qIns (x : QEnt) : List QEnt → List QEnt
  | [] => [x]
  | y :: ys => if x.before y then x :: y :: ys else y :: qIns x ys

/-- What a walk carries: its queue, the slots visited, the stale edges counted, whether poison was met. -/
structure WalkSt where
  queue : List QEnt
  visited : List Nat
  stale : Nat
  deriving DecidableEq, Repr

/-- One edge of a node being expanded. -/
def walkEdge (p : Plot) (dist : Node → Nat) (w : WalkSt) (e : Nat × Nat) : WalkSt :=
  if !p.edgeOk e then { w with stale := w.stale + 1 }
  else if w.visited.contains e.1 then w
  else match p.node? e.1 with
    | none => w
    | some t => { w with
        visited := e.1 :: w.visited
        queue := qIns ⟨dist t, t.item, e.1, false⟩ w.queue }

/-- The steps of the walk of R181; each expands at least one node, so the number of slots bounds them. -/
def walkLoop (p : Plot) (dist : Node → Nat) (cq beam : Nat) : Nat → WalkSt → WalkSt
  | 0, w => w
  | k + 1, w =>
    let step := (w.queue.filter fun x => !x.expanded).take beam
    if step.isEmpty then w
    else
      let slots := step.map (·.slot)
      let w := { w with queue := w.queue.map fun x =>
                    if slots.contains x.slot then { x with expanded := true } else x }
      let w := slots.foldl (fun w s => match p.node? s with
        | none => w
        | some n => n.edges.foldl (walkEdge p dist) w) w
      walkLoop p dist cq beam k { w with queue := w.queue.take cq }

/-- The walk of R181 in one plot. -/
def walk (p : Plot) (dist : Node → Nat) (cq beam : Nat) : WalkSt :=
  match p.entry with
  | none => ⟨[], [], 0⟩
  | some e => match p.node? e with
    | none => ⟨[], [], 0⟩
    | some n => walkLoop p dist cq beam (p.nodes.length + 1) ⟨[⟨dist n, n.item, e, false⟩], [e], 0⟩

/-- The kept and the rest of a prune, over candidates in order (R150). -/
def pruneLoop (ix : Index) (n : Node) (deg : Nat) : List (Nat × Node) → List (Nat × Node) → List (Nat × Node) →
    List (Nat × Node)
  | [], kept, rest => kept ++ rest.take (deg - kept.length)
  | c :: cs, kept, rest =>
    if kept.length = deg then kept
    else if kept.any fun e => decide (ix.alpha16 * nodeDist ix e.2 c.2 ≤ 16 * nodeDist ix n c.2) then
      pruneLoop ix n deg cs kept (rest ++ [c])
    else pruneLoop ix n deg cs (kept ++ [c]) rest

/-- prune of R150: candidates (slot, node) sorted by distance to `n`, then item ID. -/
def prune (ix : Index) (n : Node) (cand : List (Nat × Node)) (deg : Nat) : List (Nat × Node) :=
  pruneLoop ix n deg (sortBy (fun c => nodeDist ix n c.2) (sortBy (fun c => c.2.item) cand)) [] []

/-- Slots as candidates, each once, tombstones and `self` left out. -/
def candidates (p : Plot) (self : Nat) (slots : List Nat) : List (Nat × Node) :=
  (sortDedup slots).filterMap fun s => match p.node? s with
    | some n => if n.used && !n.tomb && s != self then some (s, n) else none
    | none => none

/-- Change a node of a plot. -/
def Plot.setNode (p : Plot) (s : Nat) (f : Node → Node) : Plot := { p with nodes := p.nodes.modify s f }

/-- The edges that lead to nodes. -/
def edgesTo (l : List (Nat × Node)) : List (Nat × Nat) := l.map fun c => (c.1, c.2.gen)

/-- backlink of R167: node `s` becomes a target of `u`. -/
def backlink (ix : Index) (p : Plot) (u s : Nat) : Plot :=
  match p.node? u, p.node? s with
  | some nu, some ns =>
    let ok := nu.edges.filter p.edgeOk
    if ok.any fun e => e.1 == s then p.setNode u fun n => { n with edges := ok }
    else if ok.length < ix.deg then p.setNode u fun n => { n with edges := ok ++ [(s, ns.gen)] }
    else
      let es := edgesTo (prune ix nu (candidates p u (s :: ok.map (·.1))) ix.deg)
      p.setNode u fun n => { n with edges := es }
  | _, _ => p

/-- The distance of a node to its plot's centroid (R151). -/
def centDist (ix : Index) (plot : Nat) (n : Node) : Nat := walkDist ix (ix.centroids.getD plot []) n

/-- The entry rule of R151 for a node linked into slot `s`. -/
def entryRule (ix : Index) (plot : Nat) (p : Plot) (s : Nat) (n : Node) : Plot :=
  match p.entry with
  | none => { p with entry := some s }
  | some e => match p.node? e with
    | none => { p with entry := some s }
    | some m =>
      let dn := centDist ix plot n
      let dm := centDist ix plot m
      if dn < dm ∨ dn = dm ∧ n.item < m.item then { p with entry := some s } else p

/-- The lowest free slot below NUSED, else NUSED (R167). -/
def Plot.freeSlot (p : Plot) : Nat :=
  (p.nodes.findIdx? fun n => !n.used && !n.retired).getD p.nodes.length

/-- link of R167: a pending insert becomes a node; answers the plot, its slot and the stale edges met. -/
def link (ix : Index) (plot epoch : Nat) (p : Plot) (e : Pend) : Plot × Nat × Nat :=
  let s := p.freeSlot
  let gen := match p.node? s with | some n => n.gen | none => 0
  let w := walk p (walkDist ix e.raw) ix.buildcq 1
  let bare : Node := { used := true, tomb := false, item := e.item, birth := epoch, death := 0, gen := gen
                       retired := false, edges := [], raw := e.raw, code := e.code }
  let out := prune ix bare (candidates p s (w.queue.map (·.slot))) ix.deg
  let n := { bare with edges := edgesTo out }
  let p := if s < p.nodes.length then p.setNode s fun _ => n else { p with nodes := p.nodes ++ [n] }
  let p := out.foldl (fun p u => backlink ix p u.1 s) p
  (entryRule ix plot p s n, s, w.stale)

/-- A tombstone made of the live node of an item (R99, R167). -/
def killNode (epoch item : Nat) (p : Plot) : Plot :=
  if p.nodes.any fun n => n.used && !n.tomb && n.item == item then
    { p with
      chEpoch := epoch
      nodes := p.nodes.map fun n =>
        if n.used && !n.tomb && n.item == item then { n with tomb := true, death := epoch } else n }
  else p

/-- Whether an item is live in plots. -/
def liveIn (plots : List Plot) (item : Nat) : Bool :=
  plots.any fun p => p.nodes.any fun n => n.used && !n.tomb && n.item == item

/-- The entries of one item. -/
def Index.pendOf (ix : Index) (item : Nat) : List Pend := ix.pend.filter fun e => e.item == item

/-- Whether an item is pending as an insert that nothing has withdrawn: its latest entry is an insert (R166). -/
def Index.pendIns (ix : Index) (item : Nat) : Bool :=
  match (ix.pendOf item).getLast? with
  | some e => e.ins
  | none => false

/-- Whether an item is live with no pending entry that ends it. -/
def Index.liveNow (ix : Index) (item : Nat) : Bool :=
  liveIn ix.plots item && (ix.pendOf item).isEmpty

/-- Inserts that are pending and not withdrawn (PENDINS). -/
def Index.nPendIns (ix : Index) : Nat :=
  ((sortDedup (ix.pend.map (·.item))).filter ix.pendIns).length

/-- Those of a plot. -/
def Index.pendInsIn (ix : Index) (plot : Nat) : Nat :=
  ((sortDedup (ix.pend.map (·.item))).filter fun i => match (ix.pendOf i).getLast? with
    | some e => e.ins && e.plot == plot
    | none => false).length

/-- Pending deletes, and inserts that a later entry withdraws (PENDDEL). DEDUCED (log 25). -/
def Index.nPendDel (ix : Index) : Nat := ix.pend.length - ix.nPendIns

/-- Nodes in use of a plot, live nodes and tombstones of an index. -/
def Plot.inUse (p : Plot) : Nat := (p.nodes.filter (·.used)).length
def Plot.tombs (p : Plot) : Nat := (p.nodes.filter fun n => n.used && n.tomb).length
def Plot.live (p : Plot) : Nat := (p.nodes.filter fun n => n.used && !n.tomb).length
def Index.live (ix : Index) : Nat := sumOf (ix.plots.map Plot.live)
def Index.tombs (ix : Index) : Nat := sumOf (ix.plots.map Plot.tombs)

/-- The most entries of a pending log (Table 5.7). -/
def pendMax : Nat := 67108864

/-- One Index Insert entry (R165): the index, and whether the entry was appended. -/
def insertEntry (ix : Index) (key : Nat × Nat) (order : Nat) (replace poisoned : Bool) (item : Nat)
    (raw : List Byte) : Index × Bool :=
  if poisoned then ({ ix with rejPois := ix.rejPois + 1 }, false)
  else
    let plot := plotOf ix raw
    let code := if ix.product then productCode ix.codebooks raw else []
    let inPlot := (ix.plots.getD plot ⟨[], none, 0, [], [], [], []⟩).inUse
    -- what the entry adds: one that replaces a pending insert withdraws it (R166)
    let old := if replace && ix.pendIns item then (ix.pendOf item).getLast? else none
    let more := b2n old.isNone
    let moreHere := b2n (match old with | some e => e.plot != plot | none => true)
    if ix.maxItems < ix.live + ix.tombs + ix.nPendIns + more ∨ 16777215 < inPlot + ix.pendInsIn plot + moreHere then
      ({ ix with rejFull := ix.rejFull + 1 }, false)
    else if !replace && (ix.liveNow item || ix.pendIns item) then
      ({ ix with rejDup := ix.rejDup + 1 }, false)
    else if pendMax ≤ ix.pend.length then ({ ix with rejPend := ix.rejPend + 1 }, false)
    else
      let e : Pend := { ins := true, item := item, plot := plot, raw := raw, code := code, sqid := key.1
                        cid := key.2, order := order, done := false, taken := 0 }
      ({ ix with pend := ix.pend ++ [e] }, true)

/-- One Index Delete item (R99, R165): the index, and whether it was marked. -/
def deleteItem (ix : Index) (key : Nat × Nat) (order : Nat) (item : Nat) : Index × Bool :=
  if !(ix.liveNow item || ix.pendIns item) then (ix, false)
  else if pendMax ≤ ix.pend.length then ({ ix with rejPend := ix.rejPend + 1 }, false)
  else
    let e : Pend := { ins := false, item := item, plot := 0, raw := [], code := [], sqid := key.1
                      cid := key.2, order := order, done := false, taken := 0 }
    ({ ix with pend := ix.pend ++ [e] }, true)

/-- Mark the entries that the Publish of fetch order `order` takes: those of completed commands that no earlier Publish
takes, up to the first of each item that is held back (R100). -/
def markTaken (order : Nat) : List Nat → List Pend → List Pend
  | _, [] => []
  | held, e :: es =>
    if e.taken != 0 then e :: markTaken order held es
    else if !e.done || held.contains e.item then e :: markTaken order (e.item :: held) es
    else { e with taken := order + 1 } :: markTaken order held es

/-- The entries that the Publish of a fetch order has taken, and the others. -/
def takenBy (order : Nat) (l : List Pend) : List Pend × List Pend :=
  (l.filter fun e => e.taken == order + 1, l.filter fun e => e.taken != order + 1)

/-- The epoch after another (R169). -/
def nextEpoch (e : Nat) : Nat := if e = 0xFFFFFFFF then 1 else e + 1

/-- The home position of an item ID in a directory of `n` entries (R157). -/
def homePos (n item : Nat) : Nat := (item * 0x9E3779B97F4A7C15) % 2 ^ 64 % n

/-- The position for an item: its own entry, else the first that is empty or vacated (DESIGN CHOICE, log 24). -/
def dirPos (n : Nat) (dir : List DirE) (item : Nat) : Nat → Nat → Nat
  | 0, pos => pos
  | k + 1, pos => match dir.find? fun d => d.pos == pos with
    | none => pos
    | some d => if d.item == item || d.st == 3 then pos else dirPos n dir item k ((pos + 1) % n)

/-- The directory with an item's entry set. -/
def dirSet (n : Nat) (dir : List DirE) (item plot slot st : Nat) : List DirE :=
  let pos := match dir.find? fun d => d.item == item && d.st != 3 with
    | some d => d.pos
    | none => dirPos n dir item n (homePos n item)
  (dir.filter fun d => d.pos != pos) ++ [⟨pos, item, plot, slot, st⟩]

/-- Node size, nodes per page, pages and regions (R153, R156). -/
def Index.codeBytes (ix : Index) : Nat := ix.codeBits / 8
def nodeSz (product : Bool) (codeBits deg : Nat) : Nat :=
  roundUp (24 + (if product then codeBits / 64 else codeBits / 8) + 4 * deg) 64
def Index.nodeSz (ix : Index) : Nat := Machine.nodeSz ix.product ix.codeBits ix.deg
def Index.npp (ix : Index) : Nat := 65536 / ix.nodeSz
def Index.rpp (ix : Index) : Nat := 65536 / ix.codeBytes
def Index.nplots (ix : Index) : Nat := ix.centroids.length

/-- `n / k` rounded up. -/
def ceilDiv (n k : Nat) : Nat := (n + k - 1) / k

/-- The frames of each region of Table 5.2, in order. -/
def regionFrames (product : Bool) (codeBits deg maxItems nplots : Nat) : List Nat :=
  let cb := codeBits / 8
  let npp := 65536 / nodeSz product codeBits deg
  let nnp := ceilDiv maxItems npp + nplots
  let nrp := ceilDiv maxItems (65536 / cb) + nplots
  let ch := ceilDiv (nnp + nrp) 1023 + 2 * nplots
  [1, ceilDiv (nplots * cb) 65536, if product then ceilDiv (codeBits / 64 * 2048) 65536 else 0,
   ceilDiv nplots 1024 + ceilDiv ch 16, nnp, nrp, ceilDiv (maxItems * 5) 16384, ceilDiv nnp 8,
   1024 * (16 + cb)]

/-- REQ (R153). -/
def reqFrames (product : Bool) (codeBits deg maxItems nplots : Nat) : Nat :=
  sumOf (regionFrames product codeBits deg maxItems nplots)

/-- The regions of an index: frame offset and length of each. -/
def Index.regions (ix : Index) : List Nat :=
  regionFrames ix.product ix.codeBits ix.deg ix.maxItems ix.nplots
def Index.regionOff (ix : Index) (r : Nat) : Nat := sumOf (ix.regions.take r)

/-- Entries of the directory. -/
def Index.dirSize (ix : Index) : Nat := 4096 * ix.regions.getD 6 0

/-- The lowest numbers not in a list, `k` of them. -/
def lowestFree (used : List Nat) : Nat → Nat → Nat → List Nat
  | 0, _, _ => []
  | fuel + 1, k, i =>
    if k = 0 then []
    else if used.contains i then lowestFree used fuel k (i + 1)
    else i :: lowestFree used fuel (k - 1) (i + 1)

/-- A plot with the pages and chunks that its slots need, lowest first (R153). -/
def growPlot (ix : Index) (all : List Plot) (p : Plot) : Plot :=
  let grow (used mine : List Nat) (want : Nat) : List Nat :=
    mine ++ lowestFree used (used.length + want) (want - mine.length) 0
  let np := ceilDiv p.nodes.length ix.npp
  let rp := ceilDiv p.nodes.length ix.rpp
  let chUsed := all.flatMap (·.nchunks) ++ all.flatMap (·.rchunks)
  let nch := grow chUsed p.nchunks (ceilDiv np 1023)
  { p with
    npages := grow (all.flatMap (·.npages)) p.npages np
    rpages := grow (all.flatMap (·.rpages)) p.rpages rp
    nchunks := nch
    rchunks := grow (chUsed ++ nch) p.rchunks (ceilDiv rp 1023) }

/-- The first pass of a Publish (R167): taken entries in order; what is left to link. -/
def publishPass1 (epoch : Nat) : List Plot → List Pend → List Pend → List Plot × List Pend
  | plots, links, [] => (plots, links)
  | plots, links, e :: es =>
    let plots := plots.map (killNode epoch e.item)
    let links := links.filter fun l => l.item != e.item
    publishPass1 epoch plots (if e.ins then links ++ [e] else links) es

/-- The second pass: the inserts of a plot in ascending item ID order. -/
def publishPlot (ix : Index) (epoch : Nat) (links : List Pend) (acc : List Plot × List DirE × Nat) (plot : Nat) :
    List Plot × List DirE × Nat :=
  let mine := sortBy (·.item) (links.filter fun l => l.plot == plot)
  match acc.1[plot]? with
  | none => acc
  | some p =>
    if mine.isEmpty then acc
    else
      let r := mine.foldl (fun (a : Plot × List DirE × Nat) e =>
        let l := link ix plot epoch a.1 e
        (l.1, dirSet ix.dirSize a.2.1 e.item plot l.2.1 1, a.2.2 + l.2.2)) (p, acc.2.1, acc.2.2)
      let q := growPlot ix acc.1 { r.1 with chEpoch := epoch }
      (acc.1.set plot q, r.2.1, r.2.2)

/-- The tombstones that the plots show as directory states. -/
def dirTombs (plots : List Plot) (dir : List DirE) : List DirE :=
  dir.map fun d => match (plots[d.plot]?).bind (·.node? d.slot) with
    | some n => if n.used && n.item == d.item && n.tomb then { d with st := 2 } else d
    | none => d

/-- The new epoch that the Publish of a fetch order makes of the entries it has taken (R167): plots, directory, what stays
pending, stale edges. -/
def publishResult (order : Nat) (ix : Index) : List Plot × List DirE × List Pend × Nat :=
  let t := takenBy order ix.pend
  let e := nextEpoch ix.epoch
  let r := publishPass1 e ix.plots [] t.1
  let out := (List.range ix.plots.length).foldl (publishPlot ix e r.2) (r.1, ix.dir, 0)
  (out.1, dirTombs out.1 out.2.1, t.2, out.2.2)

/-- Whether an epoch is retained (R170). -/
def Index.retained (ix : Index) (e : Nat) : Bool := e == ix.epoch || ix.images.any fun i => i.1 == e

/-- The plots as an epoch left them. -/
def Index.plotsAt (ix : Index) (e : Nat) : List Plot :=
  if e == ix.epoch then ix.plots
  else match ix.images.find? fun i => i.1 == e with
    | some i => i.2
    | none => ix.plots

/-- Steps in publication order from one epoch to another (R171). -/
def epochSteps (a b : Nat) : Nat := if a ≤ b then b - a else b + 0xFFFFFFFF - a

/-- Whether a query is bound to an epoch. -/
def Index.isBound (ix : Index) (e : Nat) : Bool := ix.bound.any fun b => b.1 == e

/-- The retained images: the RETAIN epochs before the current one and those that a query is bound to (R170). -/
def pruneImages (ix : Index) : Index :=
  { ix with images := ix.images.filter fun i =>
      decide (epochSteps i.1 ix.epoch ≤ ix.retain) || ix.isBound i.1 }

/-- Places at which a newer and an older list differ, of those that the older has. -/
def differing {α : Type} [BEq α] (new old : List α) : Nat := (old.zipIdx.filter fun x => !(new[x.2]? == some x.1)).length

/-- The plot entry of R170: a plot without its nodes' records. -/
def Plot.head (p : Plot) : Plot := { p with nodes := [] }

/-- The images that retained epochs need, newest first, under the plots that stand over them: superseded node records and plot entries.
Each is held once for the epochs that share it (R170); see log 112 (DEDUCED). -/
def superseded : List Plot → List (Nat × List Plot) → Nat × Nat
  | _, [] => (0, 0)
  | new, (_, old) :: rest =>
    let r := superseded old rest
    (r.1 + sumOf (old.zipIdx.map fun x => differing ((new[x.2]?.map Plot.nodes).getD []) x.1.nodes),
     r.2 + differing (new.map fun p => (p.head, p.nodes.length)) (old.map fun p => (p.head, p.nodes.length)))

/-- The frames of the version log that they fill (R170). -/
def Index.versionFrames (ix : Index) (plots : List Plot) (images : List (Nat × List Plot)) : Nat :=
  let n := superseded plots images
  ceilDiv n.1 (65536 / (ix.nodeSz + 64)) + ceilDiv n.2 512

/-- The images without the oldest that no query is bound to. -/
def Index.dropOldest (ix : Index) (images : List (Nat × List Plot)) : List (Nat × List Plot) :=
  match (images.filter fun i => !ix.isBound i.1).getLast? with
  | some o => images.filter fun i => i.1 != o.1
  | none => images

/-- The images that stay under new plots: the oldest are given up until the version log holds the rest (R170). `n` bounds the steps. -/
def Index.fitImages (ix : Index) (plots : List Plot) : Nat → List (Nat × List Plot) → List (Nat × List Plot)
  | 0, images => images
  | n + 1, images =>
    if ix.versionFrames plots images ≤ ix.regions.getD 7 0 then images
    else ix.fitImages plots n (ix.dropOldest images)

/-- The index with its new epoch current, and its version log (R170). -/
def Index.advance (ix : Index) (plots : List Plot) (dir : List DirE) (pend : List Pend) : Index :=
  let new := pruneImages { ix with
    images := (ix.epoch, ix.plots) :: ix.images
    plots := plots, dir := dir, pend := pend, epoch := nextEpoch ix.epoch, next := none }
  { new with images := new.fitImages plots new.images.length new.images }

/-- Whether the version log can hold what a new epoch's change needs; otherwise the change waits for bound queries (R170, R189). -/
def Index.roomFor (ix : Index) (plots : List Plot) : Bool :=
  let new := ix.advance plots ix.dir ix.pend
  decide (new.versionFrames plots new.images ≤ new.regions.getD 7 0)

/-- An index whose change still waits for room: the epochs that no query is bound to are no longer retained (R170). -/
def Index.giveUp (plots : List Plot) (ix : Index) : Index :=
  let new := ix.advance plots ix.dir ix.pend
  { ix with images := ix.images.filter fun i => new.images.any fun n => n.1 == i.1 }

/-- Whether an epoch has not been published yet (R171). -/
def Index.unpublished (ix : Index) (e : Nat) : Bool :=
  decide (1 ≤ epochSteps ix.epoch e ∧ epochSteps ix.epoch e < 2 ^ 31)

/-- Step 1 of compaction for one tombstone (R173). -/
def bridge (ix : Index) (p : Plot) (t : Nat) : Plot :=
  match p.node? t with
  | none => p
  | some nt =>
    let tgt := (nt.edges.filter p.edgeOk).map (·.1)
    tgt.foldl (fun p u => match p.node? u with
      | none => p
      | some nu =>
        if nu.tomb then p
        else
          let c := candidates p u ((nu.edges.filter p.edgeOk).map (·.1) ++ tgt)
          let es := edgesTo (prune ix nu c ix.deg)
          p.setNode u fun n => { n with edges := es }) p

/-- A reclaimed slot (R173 step 3): cleared, GEN advanced, retired when GEN was FEh. -/
def reclaim (n : Node) : Node :=
  { used := false, tomb := false, item := 0, birth := 0, death := 0, gen := (n.gen + 1) % 256
    retired := n.gen == 0xFE, edges := [], raw := [], code := [] }

/-- The live node nearest the centroid, ties to the lower item ID (R151). -/
def bestEntry (ix : Index) (plot : Nat) (p : Plot) : Option Nat :=
  (p.nodes.zipIdx.foldl (fun (b : Option (Nat × Nat × Nat)) x =>
    if x.1.used && !x.1.tomb then
      let d := centDist ix plot x.1
      match b with
      | none => some (d, x.1.item, x.2)
      | some m => if d < m.1 ∨ d = m.1 ∧ x.1.item < m.2.1 then some (d, x.1.item, x.2) else b
    else b) none).map fun m => m.2.2

/-- A full sweep (R173 step 5). -/
def sweep (p : Plot) : Plot :=
  { p with nodes := p.nodes.map fun n =>
      if n.retired then { n with retired := false, gen := 0 }
      else { n with edges := n.edges.filter p.edgeOk } }

/-- Compaction of one plot (R173): the plot, the slots reclaimed and whether it was swept. -/
def compactPlot (ix : Index) (epoch plot : Nat) (p : Plot) : Plot × Nat × Bool :=
  let ts := (p.nodes.zipIdx.filter fun x => x.1.used && x.1.tomb).map (·.2)
  if ts.isEmpty then (p, 0, false)
  else
    let p := ts.foldl (bridge ix) p
    let p := { p with chEpoch := epoch, nodes := p.nodes.map fun (n : Node) => if n.used && n.tomb then reclaim n else n }
    let p := { p with entry := bestEntry ix plot p }
    let sw := p.nodes.any (·.retired)
    (if sw then sweep p else p, ts.length, sw)

/-- Compaction of plots `a` to `b - 1` (R173): plots, directory, slots reclaimed, sweeps. -/
def compactResult (ix : Index) (a b : Nat) : List Plot × List DirE × Nat × Nat :=
  let e := nextEpoch ix.epoch
  let out := ix.plots.zipIdx.map fun x =>
    if a ≤ x.2 ∧ x.2 < b then compactPlot ix e x.2 x.1 else (x.1, 0, false)
  let plots := out.map (·.1)
  let dir := ix.dir.map fun d => match (plots[d.plot]?).bind (·.node? d.slot) with
    | some n => if n.used && n.item == d.item then d else if d.st == 2 then { d with st := 3 } else d
    | none => d
  (plots, dir, sumOf (out.map fun o => o.2.1), (out.filter fun o => o.2.2).length)

/-- The sampler key of R160 and R192. -/
def sampleKey (seed item : Nat) : Nat := ((item ^^^ (seed * 2 ^ 32 + seed)) * 0x9E3779B97F4A7C15) % 2 ^ 64

/-- The sample: the `n` items of smallest key, ties to the lower item ID, in draw order. -/
def sample {α : Type} (item : α → Nat) (seed n : Nat) (l : List α) : List α :=
  (sortBy (fun x => sampleKey seed (item x)) (sortBy item l)).take n

/-- The distinct elements of a list, in order of first occurrence. -/
def distinct {α : Type} [BEq α] (l : List α) : List α :=
  l.foldl (fun acc x => if acc.contains x then acc else acc ++ [x]) []

/-- The majority byte of members over a centre's byte: ties keep the bit (R160). -/
def majorByte (ms : List (List Byte)) (i : Nat) (old : Byte) : Byte :=
  BitVec.ofNat 8 (sumOf ((List.range 8).map fun b =>
    let ones := (ms.filter fun m => (m.getD i 0).getLsbD b).length
    let zeros := ms.length - ones
    if zeros < ones then 2 ^ b else if ones < zeros then 0 else if old.getLsbD b then 2 ^ b else 0))

/-- One iteration of train (R160). -/
def trainStep (codes : List (List Byte)) (cs : List (List Byte)) : List (List Byte) :=
  let asg := codes.map fun c => (c, (argmin (hamming c) cs).getD 0)
  cs.zipIdx.map fun c =>
    let ms := (asg.filter fun a => a.2 == c.2).map (·.1)
    if ms.isEmpty then c.1 else c.1.zipIdx.map fun b => majorByte ms b.2 b.1

/-- `iter` iterations. -/
def trainLoop (codes : List (List Byte)) : Nat → List (List Byte) → List (List Byte)
  | 0, cs => cs
  | k + 1, cs => trainLoop codes k (trainStep codes cs)

/-- train of R160; none when the sample has fewer than `k` distinct codes. -/
def train (codes : List (List Byte)) (k iter : Nat) : Option (List (List Byte)) :=
  let d := distinct codes
  if d.length < k then none else some (trainLoop codes iter (d.take k))

end Sys2Proof.Machine
end

