-- ==== Sys2Proof/Machine/Search.lean ====
section
/-! DEFINITION. Search, Recall Estimate and Near Join as functions of an index or of codes (06). -/

namespace Sys2Proof.Machine

/-- The parameters of a search (Table 6.1). -/
structure SearchParm where
  k : Nat
  nprobe : Nat
  beam : Nat
  cq : Nat
  rerank : Nat
  deriving DecidableEq, Repr

/-- A candidate of the merged list: distance, item, plot, slot, poisoned. -/
structure Cand where
  dist : Nat
  item : Nat
  plot : Nat
  slot : Nat
  poison : Bool
  deriving DecidableEq, Repr

/-- Candidates by distance, then item ID. -/
def sortCands (l : List Cand) : List Cand := sortBy (·.dist) (sortBy (·.item) l)

/-- What of an index extent arrives poisoned: lost blocks of the namespace, which read as zero (R317, R352), and granules of the extent
that the Reservoir delivers poisoned, with their bytes as read (R224). -/
structure Hurt where
  lost : List Nat
  grans : List (Nat × List Byte)
  deriving DecidableEq, Repr

/-- Whether bytes of an index extent are poisoned. -/
def extBad (ix : Index) (h : Hurt) (off n : Nat) : Bool :=
  n != 0 &&
  (h.lost.any (fun b => decide (b * 4096 < ix.first * 65536 + off + n) && decide (ix.first * 65536 + off < (b + 1) * 4096)) ||
   h.grans.any fun g => decide (g.1 * 64 < off + n) && decide (off < (g.1 + 1) * 64))

/-- Bytes of an index extent as they are read. -/
def extRead (ix : Index) (h : Hurt) (off : Nat) (l : List Byte) : List Byte :=
  if !extBad ix h off l.length then l
  else l.zipIdx.map fun x =>
    let a := off + x.2
    if h.lost.contains ((ix.first * 65536 + a) / 4096) then 0
    else match h.grans.find? fun g => g.1 == a / 64 with
      | some g => g.2.getD (a % 64) 0
      | none => x.1

/-- The index with its centroids and codebooks as they are read (R190). -/
def Index.asRead (ix : Index) (h : Hurt) : Index :=
  if h.lost.isEmpty && h.grans.isEmpty then ix
  else { ix with
    centroids := ix.centroids.zipIdx.map fun x => extRead ix h (65536 + x.2 * ix.codeBytes) x.1
    codebooks := ix.codebooks.zipIdx.map fun b => b.1.zipIdx.map fun w =>
      extRead ix h (ix.regionOff 2 * 65536 + 2048 * b.2 + 8 * w.2) w.1 }

/-- Where the record of a slot, and its raw code, lie in the extent (R153, R157). -/
def nodeOff (ix : Index) (p : Plot) (s : Nat) : Nat :=
  (ix.regionOff 4 + p.npages.getD (s / ix.npp) 0) * 65536 + s % ix.npp * ix.nodeSz
def rawOff (ix : Index) (p : Plot) (s : Nat) : Nat :=
  (ix.regionOff 5 + p.rpages.getD (s / ix.rpp) 0) * 65536 + s % ix.rpp * ix.codeBytes

/-- Bytes of CODE in a node record. -/
def Index.nodeCode (ix : Index) : Nat := if ix.product then ix.codeBits / 64 else ix.codeBits / 8

/-- Whether the fields of a node record are poisoned: CODE with the head, EDGES (R190). -/
def nodeBad (ix : Index) (h : Hurt) (p : Plot) (s : Nat) : Bool :=
  extBad ix h (nodeOff ix p s) (0x18 + ix.nodeCode)
def edgesBad (ix : Index) (h : Hurt) (p : Plot) (s : Nat) : Bool :=
  extBad ix h (nodeOff ix p s + 0x18 + ix.nodeCode) (4 * ix.deg)

/-- A node record as a walk reads it: CODE with its bytes as read, poisoned edges not followed (R190); see log 113 (DEDUCED). -/
def readNode (ix : Index) (h : Hurt) (p : Plot) (s : Nat) (n : Node) : Node :=
  let at_ := nodeOff ix p s + 0x18
  { n with
    edges := if edgesBad ix h p s then [] else n.edges
    raw := if ix.product then n.raw else extRead ix h at_ n.raw
    code := (extRead ix h at_ (n.code.map (BitVec.ofNat 8))).map (·.toNat) }

/-- A plot as a walk reads it. -/
def readPlot (ix : Index) (h : Hurt) (p : Plot) : Plot :=
  if h.lost.isEmpty && h.grans.isEmpty then p
  else { p with nodes := p.nodes.zipIdx.map fun x => readNode ix h p x.2 x.1 }

/-- Stage 3: the NPROBE nearest plots, ties to the lower number (R180). -/
def chosenPlots (ix : Index) (q : List Byte) (nprobe : Nat) : List Nat :=
  ((sortBy (fun c => hamming q c.1) ix.centroids.zipIdx).map (·.2)).take nprobe

/-- What the walks of one query give: merged list, stale edges, poisoned items met, and the frames of the extent that they
touch (R158). -/
structure Merged where
  list : List Cand
  stale : Nat
  hurt : List Nat
  touch : List Nat
  deriving DecidableEq, Repr

/-- Stages 4 and 5 (R181, R182) over the plots as an epoch left them; the index with its tables as read. -/
def mergeWalks (ix : Index) (plots : List Plot) (lost : Hurt) (q : List Byte) (m : SearchParm) : Merged :=
  let rs := (chosenPlots ix q m.nprobe).map fun i =>
    let p := plots.getD i ⟨[], none, 0, [], [], [], []⟩
    let w := walk (readPlot ix lost p) (walkDist ix q) m.cq m.beam
    let live := w.queue.filter fun x => match p.node? x.slot with
      | some n => n.used && !n.tomb
      | none => false
    let hurt := w.visited.filter fun s => nodeBad ix lost p s || edgesBad ix lost p s
    (live.map fun x => (⟨x.dist, x.item, i, x.slot, nodeBad ix lost p x.slot⟩ : Cand), w.stale,
     hurt.filterMap fun s => (p.node? s).map (·.item),
     (ix.regionOff 3 + i / 1024) :: squeeze (w.visited.map fun s => nodeOff ix p s / 65536))
  { list := sortCands (rs.flatMap (·.1)), stale := sumOf (rs.map fun r => r.2.1)
    hurt := rs.flatMap fun r => r.2.2.1, touch := rs.flatMap fun r => r.2.2.2 }

/-- The raw code at a slot of a plot as its raw page is read (R157), and whether it is poisoned. -/
def readRaw (ix : Index) (h : Hurt) (p : Plot) (s : Nat) : List Byte :=
  match p.node? s with
  | some n => extRead ix h (rawOff ix p s) n.raw
  | none => []
def rawBad (ix : Index) (h : Hurt) (p : Plot) (s : Nat) : Bool := extBad ix h (rawOff ix p s) ix.codeBytes

/-- A plot by its number. -/
def plotAt (plots : List Plot) (i : Nat) : Plot := plots.getD i ⟨[], none, 0, [], [], [], []⟩

/-- Stage 6 (R183): the pool. -/
def poolOf (ix : Index) (plots : List Plot) (lost : Hurt) (q : List Byte) (m : SearchParm) (l : List Cand) :
    List Cand :=
  if ix.product && m.rerank != 0 then
    sortCands ((l.take m.rerank).map fun c =>
      let p := plotAt plots c.plot
      { c with dist := hamming q (readRaw ix lost p c.slot), poison := c.poison || rawBad ix lost p c.slot })
  else l

/-- The frames that hold the raw codes of candidates. -/
def rawFrames (ix : Index) (plots : List Plot) (l : List Cand) : List Nat :=
  l.map fun c => rawOff ix (plotAt plots c.plot) c.slot / 65536

/-- What the filter finds at an item ID: the schema and record of its frame, and whether the frame is invalid
(R185). -/
structure Found where
  fields : List FieldD
  item : Option Rec
  invalid : Bool
  deriving DecidableEq, Repr

/-- The record that a candidate without one is evaluated as: every field absent. -/
def noRec (id : Nat) : Rec :=
  { id := id, fields := [], proj := [], vec := [], outs := [], raw := [], kind := 0, poison := false }

/-- What stage 7 has found so far. -/
structure FilterSt where
  kept : List Cand
  removed : Nat
  hurt : List Nat
  deriving DecidableEq, Repr

/-- Stage 7 with a filter (R184): entries in pool order until K pass. -/
def filterPool (look : Nat → Found) (terms : List Term) (k : Nat) : List Cand → FilterSt → FilterSt
  | [], st => st
  | c :: cs, st =>
    if k ≤ st.kept.length then st
    else
      let f := look c.item
      let r := f.item.getD (noRec c.item)
      let hurt := (if f.invalid then [c.item / 65536 * 65536 + 0xFFFF] else []) ++
        (if r.poison then [c.item] else [])
      let pass := passes f.fields terms r
      filterPool look terms k cs
        { kept := if pass then st.kept ++ [{ c with poison := c.poison || r.poison }] else st.kept
          removed := if pass then st.removed else st.removed + 1
          hurt := st.hurt ++ hurt }

/-- The outcome of one query. -/
structure QRes where
  res : List (Nat × Nat)
  removed : Nat
  poison : List Nat
  stale : Nat
  touch : List Nat
  deriving DecidableEq, Repr

/-- Whether a centroid or codebook granule is poisoned (R190). -/
def tablesBad (ix : Index) (h : Hurt) : Bool :=
  extBad ix h 65536 (ix.nplots * ix.codeBytes) ||
  ix.product && extBad ix h (ix.regionOff 2 * 65536) (ix.codeBits / 64 * 2048)

/-- A query whose code arrives poisoned (R190): nothing is found, its synthetic ID is listed. -/
def poisonedQuery (synth : Nat) : QRes := { res := [], removed := 0, poison := [synth], stale := 0, touch := [] }

/-- One query over the plots of an epoch (R179 to R186, R190): a poisoned centroid or codebook lists the synthetic ID `synth` of the
query, which runs on with the values as read. -/
def runQuery (ix : Index) (plots : List Plot) (lost : Hurt) (m : SearchParm)
    (filter : Option ((Nat → Found) × List Term)) (synth : Nat) (q : List Byte) : QRes :=
  let tableBad := tablesBad ix lost
  let ix := ix.asRead lost
  let w := mergeWalks ix plots lost q m
  let pool := poolOf ix plots lost q m w.list
  let f : FilterSt := match filter with
    | none => ⟨pool.take m.k, 0, []⟩
    | some g => filterPool g.1 g.2 m.k pool ⟨[], 0, []⟩
  { res := f.kept.map fun c => (c.item, c.dist)
    removed := f.removed
    poison := (if tableBad then [synth] else []) ++ w.hurt ++
      (pool.filter (·.poison)).map (·.item) ++ f.hurt
    stale := w.stale
    touch := w.touch ++ (if ix.product && m.rerank != 0 then rawFrames ix plots (w.list.take m.rerank) else []) }

/-- A result block (Table 3.18). -/
def searchBlock (ord k : Nat) (partial_ : Bool) (r : QRes) : List Byte :=
  let n := r.res.length
  leBytes 4 ord ++ leBytes 2 n ++
  leBytes 2 (b2n (decide (n < k)) + 2 * b2n partial_ + 4 * b2n (!r.poison.isEmpty)) ++
  leBytes 4 r.removed ++ zeros 4 ++
  r.res.flatMap (fun x => leBytes 8 x.1 ++ leBytes 2 x.2 ++ zeros 6) ++
  (List.range (k - n)).flatMap fun _ => leBytes 8 (2 ^ 64 - 1) ++ leBytes 2 0xFFFF ++ zeros 6

/-- A live item of an index: item ID, raw code as read, whether that is poisoned. -/
structure LiveItem where
  item : Nat
  raw : List Byte
  poison : Bool
  deriving DecidableEq, Repr

/-- The live items of plots. -/
def liveItems (ix : Index) (h : Hurt) (plots : List Plot) : List LiveItem :=
  plots.flatMap fun p => (p.nodes.zipIdx.filter fun x => x.1.used && !x.1.tomb).map fun x =>
    ⟨x.1.item, readRaw ix h p x.2, rawBad ix h p x.2⟩

/-- What one sample query of a Recall Estimate gives: its matched count, stale edges, the poison it met, the frames touched. -/
structure RRes where
  matched : Nat
  stale : Nat
  poison : List Nat
  touch : List Nat
  deriving DecidableEq, Repr

/-- One sample query (R193): the approximate search, and the exact search over the live items. -/
def matched (ix : Index) (plots : List Plot) (h : Hurt) (m : SearchParm) (live : List LiveItem) (x : LiveItem) : RRes :=
  let q := x.raw
  let ix' := ix.asRead h
  let w := mergeWalks ix' plots h q m
  let pool := poolOf ix' plots h q m w.list
  let best := pool.take m.k
  let approx := best.map fun c => hamming q (readRaw ix h (plotAt plots c.plot) c.slot)
  let exact := (sortBy id (live.map fun y => hamming q y.raw)).take m.k
  let d := exact.getLast?.getD 0
  { matched := min m.k (approx.filter fun a => decide (a ≤ d)).length
    stale := w.stale
    poison := (if x.poison || tablesBad ix h then [x.item] else []) ++ w.hurt ++ (pool.filter (·.poison)).map (·.item)
    touch := w.touch ++ rawFrames ix plots (if ix.product && m.rerank != 0 then w.list.take m.rerank else []) }

/-- The sample queries (R192, R193), in ordinal order. -/
def recallRuns (ix : Index) (plots : List Plot) (h : Hurt) (m : SearchParm) (seed n : Nat) : List RRes :=
  let live := liveItems ix h plots
  (sample (·.item) seed n live).map (matched ix plots h m live)

/-- Bits of a code from `lo` to `hi - 1`, as a number. -/
def bandBits (code : List Byte) (lo hi : Nat) : Nat := leNat code / 2 ^ lo % 2 ^ (hi - lo)

/-- The bands in which two codes agree (R196, R197). -/
def bandsAgree (l r : Nat) (a b : List Byte) : Nat :=
  let n := r + 1
  ((List.range n).filter fun k =>
    bandBits a (k * l / n) ((k + 1) * l / n) == bandBits b (k * l / n) ((k + 1) * l / n)).length

/-- The pairs of a join (R195 to R198): kept pairs in order, and the candidate pairs compared. -/
def nearPairs (self : Bool) (l r : Nat) (as bs : List (Nat × List Byte)) : List (Nat × Nat × Nat) × Nat :=
  let as := sortBy (·.1) as
  let bs := sortBy (·.1) bs
  let all := as.flatMap fun a => (bs.filter fun b => !self || decide (a.1 < b.1)).filterMap fun b =>
    let n := bandsAgree l r a.2 b.2
    if n = 0 then none else some (a.1, b.1, hamming a.2 b.2, n)
  ((all.filter fun p => decide (p.2.2.1 ≤ r)).map fun p => (p.1, p.2.1, p.2.2.1),
   sumOf (all.map fun p => p.2.2.2))

/-- A pair record (FMT 0007h). -/
def pairRec (p : Nat × Nat × Nat) : List Byte := leBytes 8 p.1 ++ leBytes 8 p.2.1 ++ leBytes 2 p.2.2 ++ zeros 6

end Sys2Proof.Machine
end

