-- ==== Sys2Proof/Machine/BootState.lean ====
section
/-! DEFINITION. The state of start, boot flash and ledger (16), of security (18), and of the module's contacts (19). -/

namespace Sys2Proof.Machine

/-- How far the sled is in a start (Table 16.1): off; held in a controller reset by PERST#; filling; copying a pending image; the
management processor running (steps 5 to 7); ready; Trickle mode; dumping, with whether for a thermal shutdown; kept off by a
thermal shutdown. -/
inductive BootPhase where
  | off | held | fill | copy | replay | ready | trickle
  | dump (thermal : Bool)
  | hot
  deriving DecidableEq, Repr

/-- An entry of the start ledger (Table 16.9). -/
structure StartEntry where
  start : Nat
  kind : Nat
  outcome : Nat
  cause : Nat
  milestone : Nat
  limit : Nat
  elapsed : Nat
  imgId : List Byte
  err : Nat
  deriving DecidableEq, Repr

/-- An operation of the boot flash program interface: 1 native program, 2 pulse-verified program, 3 erase; its address and, for a
program, its data (R435, R437). -/
structure FlashOp where
  op : Nat
  addr : Nat
  data : List Byte
  deriving DecidableEq, Repr

/-- How the machine last stopped (Table 16.2): a power loss or thermal shutdown with whether a dump record was written, or a
controller reset. -/
inductive LastEnd where
  | power (record : Bool)
  | reset
  deriving DecidableEq, Repr

/-- Start, boot flash and ledger. `flash` holds the array's bytes, FFh where erased; `made` lists the 4 MiB blocks of the slot that
have not been erased since manufacture, whose contents are the image as manufactured (log 22); `spoiled` lists what an
operation that failed left undefined (address, length, number of its first free value). `bufs` are the bytes of BOOT_PBUF,
`xo` the execute-only regions (LOCK, LIMIT, BASE), `clean` the clean-stop record in force. -/
structure Boot where
  phase : BootPhase
  kind : Nat
  t0 : Nat
  ended : Option Nat
  limit : Nat
  milestone : Nat
  lastStop : Nat
  lastEnd : LastEnd
  clean : Bool
  fails : Nat
  tcause : Nat
  entries : List StartEntry
  starts : Nat
  failTotal : Nat
  jgap : Nat
  flash : Mem
  made : List Nat
  spoiled : List (Nat × Nat × Nat)
  marker : Bool
  op : Option FlashOp
  paddr : Nat
  pop : Nat
  pbuf : List Byte
  pulses : Nat
  rcoll : Bool
  denied : Bool
  refused : Bool
  fail : Bool
  raddr : Nat
  xoviol : Nat
  xo : List (Bool × Nat × Nat)
  deriving DecidableEq, Repr

/-- The SPDM responder (R485): the version agreed (0 none, 12h, 13h), how far the negotiation went (1 version, 2 capabilities, 3
algorithms), the messages that it signs: the negotiation, the certificate messages, the measurement messages; `reply` is the last response
on the management bus (the model's own, log 4). -/
structure Spdm where
  ver : Nat
  step : Nat
  base : List Byte
  certs : List Byte
  meas : List Byte
  reply : List Byte
  deriving DecidableEq, Repr

/-- Keys and policy (R478, R481, R487), measurements (R482), the counters of the SEC block. `measured` tells whether MEAS1 names the
Trickle image. -/
structure Sec where
  owner : Option (List Byte)
  signreq : Bool
  debug : Nat
  ownerSeq : Nat
  minsvn : Nat
  revoked : Nat
  keyidx : Nat
  svn : Nat
  floor_ : Nat
  toRevoke : Nat
  meas : List (List Byte)
  dbgCnt : Nat
  denied : Nat
  storeKey : Nat
  spdm : Spdm
  deriving DecidableEq, Repr

/-- The contacts of J3 and the GEN block (R500, R502, R505). `pairs` are the upper halves that reads of _LO registers have latched,
by the offset of the _HI register (R16). -/
structure Gen where
  bay : Nat
  i3c : Bool
  latchOpen : Bool
  pwrloss : Bool
  perst : Bool
  cadact : Bool
  lost : Bool
  attn : Bool
  pairs : List (Nat × Word)
  deriving DecidableEq, Repr

/-- Off, as manufactured: no start yet, the slot holding its image, an empty ledger (DESIGN CHOICE, logs 2, 3, 22). -/
def Boot.reset : Boot where
  phase := .off
  kind := 0
  t0 := 0
  ended := none
  limit := 180
  milestone := 0
  lastStop := 0
  lastEnd := .power false
  clean := true
  fails := 0
  tcause := 0
  entries := []
  starts := 0
  failTotal := 0
  jgap := 0
  flash := []
  made := List.range 16
  spoiled := []
  marker := false
  op := none
  paddr := 0
  pop := 0
  pbuf := zeros 512
  pulses := 0
  rcoll := false
  denied := false
  refused := false
  fail := false
  raddr := 0
  xoviol := 0
  xo := List.replicate 8 (false, 0, 0)

/-- No version agreed. -/
def Spdm.reset : Spdm := ⟨0, 0, [], [], [], []⟩

/-- No owner, debug level 2 (the default of R487), measurements zero (R482). -/
def Sec.reset : Sec where
  owner := none
  signreq := false
  debug := 2
  ownerSeq := 0
  minsvn := 0
  revoked := 0
  keyidx := 0
  svn := 0
  floor_ := 0
  toRevoke := 0
  meas := List.replicate 6 (zeros 64)
  dbgCnt := 0
  denied := 0
  storeKey := 0
  spdm := Spdm.reset

/-- Inputs at their pull-ups: the bay straps open, no line asserted (Table 19.5). -/
def Gen.reset : Gen where
  bay := 15
  i3c := false
  latchOpen := false
  pwrloss := false
  perst := false
  cadact := false
  lost := false
  attn := false
  pairs := []

end Sys2Proof.Machine
end

