-- ==== Sys2Proof/Machine/CadState.lean ====
section
/-! DEFINITION. The state of the cadence, power, the Cistern and the thermal loop (14). -/

namespace Sys2Proof.Machine

/-- The cadence tracker (R386 to R391). Lengths are in 10 ns. `src` is CSRC of Table 14.7; `lens` the last 16 accepted
periods, newest last; `pidx` the period of the frame, 16 when a marker is overdue; `cand` the clean external
periods towards an acquisition (length, marker); `realign` holds surges back until the next frame. -/
structure Cad where
  src : Nat
  tracked : Nat
  lens : List Nat
  pidx : Nat
  cand : List (Nat × Bool)
  realign : Bool
  frames : Nat
  viol : Nat
  frameViol : Nat
  loss : Nat
  surr : Nat
  reacq : Nat
  vstat : Nat
  noacq : Bool
  deriving DecidableEq, Repr

/-- A grant that a unit holds (R392, R396): draw in 0.1 W, frames since its last use. -/
structure Grant where
  unit : GUnit
  watts : Nat
  idle : Nat
  deriving DecidableEq, Repr

/-- A surge that waits (R393): class, unit, draw in 0.1 W, time of the request. -/
structure Surge where
  cls : Nat
  unit : GUnit
  watts : Nat
  at_ : Nat
  deriving DecidableEq, Repr

/-- Grants, ceiling, clock, excursions and the thermal loop (R392 to R397, R410 to R413). Temperatures in 0.1 °C by sensor of
PWR_TEMPs, `sensed` once they have been read. `input` is the input voltage in 10 mV, `vin` what was last measured of it. `pin` is the input power in 0.1 W, `perDraw` its average over the last whole period
(R395), `beyond` how long the excursion lasts that is under way, `quiet` how long the 100 µs average has been at or below the ceiling, in
µs (R397). -/
structure Pwr where
  grants : List Grant
  surges : List Surge
  stagMax : Nat
  stagSum : Nat
  reduction : Nat
  trimSteps : Nat
  throtSteps : Nat
  diesHalved : Nat
  input : Nat
  vin : Nat
  pin100 : Nat
  pin1 : Nat
  pin : Nat
  perDraw : Option Nat
  beyond : Nat
  quiet : Nat
  exc : Nat
  trims : Nat
  ploss : Nat
  thrtl : Nat
  tshut : Nat
  sensed : Bool
  temps : List Int
  implausible : List Bool
  crit : List Bool
  throttled : Bool
  pendingPs : Option (Nat × Nat × Nat)
  deriving DecidableEq, Repr

/-- A string of the Cistern (Table 14.8): capacitance in 0.1 mF, resistance in 0.1 mΩ now and at manufacture,
voltage in mV, STATE (0 in service, 1 spare, 2 testing, 3 failed). -/
structure CString where
  cap : Nat
  esr : Nat
  esr0 : Nat
  mv : Nat
  st : Nat
  was : Nat
  deriving DecidableEq, Repr

/-- A Cistern test under way (R403, R406): the string isolated, those that wait, those that failed, the commands
that complete with it, whether CIS_TEST started it. -/
structure CTest where
  current : Option Nat
  left : List Nat
  failed : List Nat
  cmds : List (Nat × Nat)
  byReg : Bool
  full : Bool
  deriving DecidableEq, Repr

/-- The Cistern (R401 to R409). `allow` is A in GiB, `lastEvent` the A of the last event 01h. -/
structure Cis where
  strings : List CString
  switching : Bool
  temp : Int
  testTemp : Int
  lastTest : Nat
  allow : Nat
  lastEvent : Nat
  test : Option CTest
  burst : Option Nat
  dumps : Nat
  dumpInc : Nat
  lastDump : Nat
  dumpJ : Nat
  deriving DecidableEq, Repr

/-- No cadence acquired. -/
def Cad.reset : Cad where
  src := 0
  tracked := 0
  lens := []
  pidx := 0
  cand := []
  realign := false
  frames := 0
  viol := 0
  frameViol := 0
  loss := 0
  surr := 0
  reacq := 0
  vstat := 0
  noacq := false

/-- No grant held, no surge waiting, sensors at 0. -/
def Pwr.reset : Pwr where
  grants := []
  surges := []
  stagMax := 0
  stagSum := 0
  reduction := 0
  trimSteps := 0
  throtSteps := 0
  diesHalved := 0
  input := 0
  vin := 0
  pin100 := 0
  pin1 := 0
  pin := 0
  perDraw := none
  beyond := 0
  quiet := 0
  exc := 0
  trims := 0
  ploss := 0
  thrtl := 0
  tshut := 0
  sensed := false
  temps := [0, 0, 0, 0, 0, 0, 0]
  implausible := [false, false, false, false, false, false, false]
  crit := [false, false, false, false, false, false, false]
  throttled := false
  pendingPs := none

/-- A new bank of 413 J (R407), uncharged: eight strings in service and the spare (DESIGN CHOICE, log 21). -/
def Cis.reset : Cis where
  strings := List.replicate 8 ⟨1681, 1000, 1000, 0, 0, 0⟩ ++ [⟨1681, 1000, 1000, 0, 1, 1⟩]
  switching := false
  temp := 0
  testTemp := 0
  lastTest := 0
  allow := 0
  lastEvent := 0
  test := none
  burst := none
  dumps := 0
  dumpInc := 0
  lastDump := 0
  dumpJ := 0

end Sys2Proof.Machine
end

