-- ==== Sys2Proof/Machine/CluState.lean ====
section
/-! DEFINITION. The state of the compute clusters (07, 08, 09). -/

namespace Sys2Proof.Machine

/-- A sync object (Table 7.14). CTXGEN is held once for a cluster, WAITERS is computed. -/
structure SyncObj where
  value : Nat
  dropped : Nat
  ovf : Bool
  sigcnt : Nat
  lastDev : Nat
  lastClu : Nat
  deriving DecidableEq, Repr

/-- A feeder slot that is VALID (R255): array, slot, TAG, stationary tag, the operand it holds, its poison. A slot that
is not listed is not VALID. -/
structure Slot where
  arr : Nat
  idx : Nat
  tag : Nat
  stag : Nat
  data : List Byte
  pois : Bool
  deriving DecidableEq, Repr

/-- An engine command (Table 8.9). `sticky` is PSTICKY as it was issued (R226); `granted` marks a wait that has been
granted (R220). -/
structure ECmd where
  eop : Nat
  wkind : Nat
  wobj : Nat
  wcnt : Nat
  skind : Nat
  sobj : Nat
  scnt : Nat
  sdev : Nat
  seq : Nat
  opa : BitVec 64
  opb : BitVec 64
  pc : Nat
  desc : List Byte
  sticky : Bool
  granted : Bool
  deriving DecidableEq, Repr

/-- A command that an engine has started (R211, R212): whether it has finished and holds its signal, the remote
operations it waits for, the arrays it holds. -/
structure Act where
  cmd : ECmd
  fin : Bool
  ops : List Nat
  arrays : Nat
  deriving DecidableEq, Repr

/-- An engine's queue, the sequence number of its next command, the commands it has started, oldest first. -/
structure EngQ where
  queue : List ECmd
  seq : Nat
  act : List Act
  deriving DecidableEq, Repr

/-- What a control core does. At a barrier: MODE, the count of BAR END, the size of the barrier in bytes. -/
inductive CoreSt where
  | stopped
  | running
  | waiting (take : Bool) (obj n : Nat) (remote : Bool)
  | barrier (mode : Nat) (count : Nat)
  | ended
  deriving DecidableEq, Repr

/-- An active hardware loop (R238): counter, body, index, count. -/
structure HwLoop where
  lc : Nat
  start : Nat
  last : Nat
  idx : Nat
  n : Nat
  deriving DecidableEq, Repr

/-- The control core (Table 8.1). `loops` are the active loops, innermost first; `dmPois` the poisoned bytes of data
memory; `ready` the cycle at which each register's result is ready (R253); `verds` the verdicts with their poison (R252). -/
structure Core where
  g : List (BitVec 64)
  pois : List Bool
  sticky : Bool
  loops : List HwLoop
  ag : List (List Byte)
  pc : Nat
  dm : Mem
  dmPois : List Nat
  ready : List Nat
  cycles : Nat
  st : CoreSt
  verds : List (Bool × Bool)
  nrec : Nat
  deriving DecidableEq, Repr

/-- The Hamming engine (Table 7.1, R244): query registers with their code length in words, the distance table of M
rows of 256, and what of them is poisoned. -/
structure Ham where
  words : Nat
  qs : List (List Byte)
  qPois : List Bool
  m : Nat
  table : List Byte
  tPois : Bool
  deriving DecidableEq, Repr

/-- The staging ring of a cluster (R245): frames dealt to it, how many are staged, which have been released, the
ring's bytes and its poisoned granules. -/
structure Ring where
  dealt : List Nat
  staged : Nat
  released : List Nat
  mem : Mem
  pois : List Nat
  deriving DecidableEq, Repr

/-- The timing fault report (Table 7.13). -/
structure TFault where
  pc : Nat
  cycle : Nat
  valid : Bool
  stale : Bool
  empty : Bool
  slot : Nat
  arr : Nat
  deriving DecidableEq, Repr

/-- The arithmetic registers (Table 9.10) and the counts of the running context (R287). `astat` holds the three bits of
CLU_ASTAT. -/
structure Arith where
  satpol : Nat
  satevt : Nat
  undevt : Nat
  astat : Nat
  satTile : Nat
  satElem : Nat
  undTile : Nat
  replay : Nat
  qTile : Nat
  accSat : Nat
  resFail : Nat
  tsat : List (Nat × Nat)
  tund : List (Nat × Nat)
  ctxSat : Nat
  ctxUnd : Nat
  satRaised : Bool
  undRaised : Bool
  deriving DecidableEq, Repr

/-- A cluster. `phys` is its physical cluster on die `die`; `afailed` the array that A16 replaces, 31 for none;
`failPend` arrays that failed and await their substitution; `cluFail` a failure of the cluster that awaits it (R231).
`run` says that a job context is active, `gen` is the generation at which it started, `gens` what each cluster's CTXGEN
was then (R222). -/
structure Clu where
  phys : Nat
  die : Nat
  spare : Bool
  afailed : Nat
  failPend : List Nat
  cluFail : Bool
  lost : Bool
  run : Bool
  gen : Nat
  gens : List Nat
  imgen : Nat
  improg : Nat
  im : Mem
  imlen : Nat
  imkind : Nat
  core : Core
  eng : List EngQ
  tile : Mem
  tpois : List Nat
  slots : List Slot
  ham : Ham
  ring : Ring
  ctxgen : Nat
  objs : List SyncObj
  poisOrg : Nat
  poisProp : Nat
  haltReq : Bool
  halted : Bool
  reloadWait : Bool
  tdPend : Bool
  tma : Nat
  tmPois : Bool
  tmRefused : Bool
  tmData : List Byte
  tf : TFault
  ar : Arith
  deriving DecidableEq, Repr

/-- A device signal on its way (R217, R222): object, count, the CTXGEN it carries, cluster and partition of the
sender. -/
structure DevSig where
  obj : Nat
  n : Nat
  ctxgen : Nat
  clu : Nat
  part : Nat
  deriving DecidableEq, Repr

/-- A sync object at reset (Table 7.14). -/
def SyncObj.reset : SyncObj := ⟨0, 0, false, 0, 0x3FFF, 0xFF⟩

/-- An empty queue. -/
def EngQ.reset : EngQ := ⟨[], 0, []⟩

/-- A stopped control core with its registers as at the start of a context (Table 8.1). -/
def Core.reset : Core where
  g := List.replicate 32 0
  pois := List.replicate 32 false
  sticky := false
  loops := []
  ag := List.replicate 8 (zeros 64)
  pc := 0
  dm := []
  dmPois := []
  ready := List.replicate 32 0
  cycles := 0
  st := .stopped
  verds := []
  nrec := 0

/-- No query loaded: NQ and the table are empty (DESIGN CHOICE, log 31: the spec gives no reset value). -/
def Ham.reset : Ham := ⟨0, [], [], 0, [], false⟩

/-- No frame dealt. -/
def Ring.reset : Ring := ⟨[], 0, [], [], []⟩

/-- No fault reported (Table 7.13). -/
def TFault.reset : TFault := ⟨0, 0, false, false, false, 0, 0⟩

/-- Table 9.10 at reset: SATEVT 1, everything else 0. -/
def Arith.reset : Arith where
  satpol := 0
  satevt := 1
  undevt := 0
  astat := 0
  satTile := 0
  satElem := 0
  undTile := 0
  replay := 0
  qTile := 0
  accSat := 0
  resFail := 0
  tsat := []
  tund := []
  ctxSat := 0
  ctxUnd := 0
  satRaised := false
  undRaised := false

/-- Cluster `n` at reset (Tables 7.7 to 7.13): no context, nothing loaded, no array or cluster replaced (log 3). Sixteen
clusters of a die lie on its physical clusters 0 to 15; the spare is number 16. -/
def Clu.reset (n : Nat) : Clu where
  phys := n % 16
  die := n / 16
  spare := false
  afailed := 31
  failPend := []
  cluFail := false
  lost := false
  run := false
  gen := 0
  gens := []
  imgen := 0
  improg := 0
  im := []
  imlen := 0
  imkind := 0
  core := Core.reset
  eng := List.replicate 5 EngQ.reset
  tile := []
  tpois := []
  slots := []
  ham := Ham.reset
  ring := Ring.reset
  ctxgen := 0
  objs := List.replicate 128 SyncObj.reset
  poisOrg := 0
  poisProp := 0
  haltReq := false
  halted := false
  reloadWait := false
  tdPend := false
  tma := 0
  tmPois := false
  tmRefused := false
  tmData := zeros 64
  tf := TFault.reset
  ar := Arith.reset

end Sys2Proof.Machine
end

