-- ==== Sys2Proof/Machine/LnkState.lean ====
section
/-! DEFINITION. The state of the Runnel links (13). -/

namespace Sys2Proof.Machine

/-- A port (Tables 13.1 and 13.10). `mode` is PMODE in force since it last trained, `st` is STATE; `lanes` the lanes that have failed; `elec` tells whether electrical training has
ended, so that the port waits for its peer's HELLO (R368). -/
structure Port where
  mode : Nat
  st : Nat
  elec : Bool
  cause : Nat
  ifup : Nat
  spares : Nat
  width : Nat
  peer : Option Nat
  lanes : List Nat
  swaps : Nat
  trainFail : Nat
  fecCorr : Nat
  fecUnc : Nat
  retry : Nat
  tx : Nat
  rx : Nat
  deriving DecidableEq, Repr

/-- A path to a device (R371): a direct port or an Ethernet interface. -/
inductive Path where
  | direct (port : Nat)
  | eth (x : Nat)
  deriving DecidableEq, Repr

/-- A message sent and not acknowledged (R374): when it was last sent and how often it was resent. -/
structure Unacked where
  msg : Msg
  at_ : Nat
  tries : Nat
  deriving DecidableEq, Repr

/-- A flow to a device (R372): next SEQ, what waits for an acknowledgement, the path it keeps; and the highest SEQ
received in order from it. -/
structure Flow where
  dev : Nat
  flow : Nat
  next : Nat
  unacked : List Unacked
  path : Option Path
  got : Nat
  deriving DecidableEq, Repr

/-- What the sled keeps of a device (R375, R376): whether it is lost, sending rate in GB/s, whether the next message
carries ECE, when each failed path is usable again. -/
structure PeerDev where
  dev : Nat
  lost : Bool
  rate : Nat
  ece : Bool
  failed : List (Path × Nat)
  deriving DecidableEq, Repr

/-- A binding of a partition's job to an instance on a device (R377): INST, region table, CTXGENs once BINDACK came. -/
structure Binding where
  part : Nat
  dev : Nat
  bound : Bool
  inst : Nat
  regions : List (Nat × Nat)
  ctxgens : List Nat
  deriving DecidableEq, Repr

/-- A remote operation (Table 13.5): its kind (0 read, 1 write, 2 signal), who issued it (engine 5 is the control core),
the messages that wait for the binding, how many replies are to come, its timeout (R378), and for a read the pieces asked
still to come: job address on the device, tile address, length; `dest` are the tile addresses and lengths of all of them. -/
structure RemOp where
  opid : Nat
  kind : Nat
  part : Nat
  clu : Nat
  eng : Nat
  seq : Nat
  dev : Nat
  start : Nat
  until_ : Nat
  waiting : List Msg
  left : Nat
  pieces : List (Nat × Nat × Nat)
  dest : List (Nat × Nat)
  deriving DecidableEq, Repr

/-- A fan-out of a Search (R381): the job's partition, the members that have not answered with the end of their
remote timeout, what the members returned (device, payload), the members that are missing. -/
structure Fan where
  part : Nat
  tag : Nat
  waiting : List (Nat × Nat)
  results : List (Nat × List Byte)
  missing : List Nat
  deriving DecidableEq, Repr

/-- A Near Join shuffle (R383) in which the sled takes part: tag, namespace, parameter structure and code length, fetching
device, the members of U, the items it owns (band, side, device, item, code), who has sent SHUFEND, pairs returned to F by
owner, the owners that have sent their last pair, the pairs compared here, the items that arrived poisoned. -/
structure Shuffle where
  tag : Nat
  nsid : Nat
  parms : List Byte
  bits : Nat
  fdev : Nat
  members : List Nat
  items : List (Nat × Nat × Nat × Nat × List Byte)
  ended : List Nat
  pairs : List (Nat × List Byte)
  owners : List Nat
  stat : Nat
  hurt : List Nat
  deriving DecidableEq, Repr

/-- A message of several parts that is not whole yet: device, OPID, TYPE, whole length, parts by offset, poisoned granules
of the body (log 32). -/
structure Parcel where
  dev : Nat
  opid : Nat
  typ : Nat
  len : Nat
  got : List (Nat × List Byte)
  pois : List Nat
  deriving DecidableEq, Repr

/-- The links. `sent` are the messages put on a link, oldest first (the model's own, log 4); `insts` the instances that run
(partition, JOBTAG, INST); `cancelled` contexts (device, JOBTAG, SGEN) whose later messages are dropped; `lostLog` the
lost devices with the time of loss, latest first; `parcels` messages of several parts that are not whole yet; `held` requests that
wait for the exit from PS3 (R369); `bindWait` binds that no instance answers yet (device, JOBTAG; R377). -/
structure Lnk where
  ports : List Port
  flows : List Flow
  peers : List PeerDev
  binds : List Binding
  ops : List RemOp
  nextOp : Nat
  insts : List (Nat × Nat × Nat)
  nextInst : Nat
  cancelled : List (Nat × Nat × Nat)
  fans : List Fan
  shuffles : List Shuffle
  sent : List Msg
  lostLog : List (Nat × Nat)
  parcels : List Parcel
  held : List Msg
  bindWait : List (Nat × Nat)
  retx : Nat
  failover : Nat
  dup : Nat
  drop : Nat
  timeout : Nat
  unreach : Nat
  wake : Nat
  deriving DecidableEq, Repr

/-- A port at reset: down, no lane failed (Table 13.10, log 3). -/
def Port.reset : Port := ⟨0, 0, false, 0, 0, 0, 0, none, [], 0, 0, 0, 0, 0, 0, 0⟩

/-- The links at reset: every port down, nothing sent. INST and OPID count from 1 (DESIGN CHOICE, log 32). -/
def Lnk.reset : Lnk where
  ports := List.replicate 4 Port.reset
  flows := []
  peers := []
  binds := []
  ops := []
  nextOp := 1
  insts := []
  nextInst := 1
  cancelled := []
  fans := []
  shuffles := []
  sent := []
  lostLog := []
  parcels := []
  held := []
  bindWait := []
  retx := 0
  failover := 0
  dup := 0
  drop := 0
  timeout := 0
  unreach := 0
  wake := 0

end Sys2Proof.Machine
end

