-- ==== Sys2Proof/Machine/MediaState.lean ====
section
/-! DEFINITION. The state of flash translation and media (12). -/

namespace Sys2Proof.Machine

/-- A map entry with VALID 1 (Table 12.2): the logical unit, its place, BAD. -/
structure MapE where
  nsid : Nat
  lba : Nat
  bad : Bool
  loc : Loc
  deriving DecidableEq, Repr

/-- What a unit held before the write with number `order`, which `whole` says covered whole frames (R35, R123). -/
structure Alt where
  bytes : List Byte
  place : Option MapE
  order : Nat
  whole : Bool
  deriving DecidableEq, Repr

/-- A unit in the write-back buffer that flash has not confirmed (R337): the write that put it there, and whether
that write's completion has been posted, so that the unit counts against the allowance. While it is not posted, `alts` holds what
the unit may go back to when the write is ended (R35): the latest first. -/
structure WbUnit where
  nsid : Nat
  lba : Nat
  order : Nat
  posted : Bool
  sqid : Nat
  cid : Nat
  alts : List Alt
  deriving DecidableEq, Repr

/-- What a unit held before a change of the map with the journal sequence number `seq`, kept until a checkpoint covers the change
(R350, R433). -/
structure Undo where
  seq : Nat
  nsid : Nat
  lba : Nat
  old : List Byte
  was : Option MapE
  deriving DecidableEq, Repr

/-- A superblock that holds or held data (R336, R351, R353): die set, block, mode, when and at what temperature its first and its last
row were programmed, its equivalent age in microseconds as of its last patrol, page reads, the threshold set of its first read,
marks; the stripe row that is being programmed and what of it has been (member, unit), and the members whose dies had
failed when it was opened (R356). -/
structure Superblock where
  set : Nat
  block : Nat
  slc : Bool
  progAt : Nat
  temp : Int
  lastAt : Nat
  lastTemp : Int
  age : Nat
  reads : Nat
  step : Nat
  refresh : Bool
  reloc : Bool
  scrubbed : Nat
  row : Nat
  used : List (Nat × Nat)
  out : List Nat
  deriving DecidableEq, Repr

/-- A block retired (R355): its channel, die, plane, block and the time. -/
structure RetiredBlock where
  ch : Nat
  die : Nat
  plane : Nat
  block : Nat
  at_ : Nat
  deriving DecidableEq, Repr

/-- Statistics of a channel (Table 12.6). -/
structure ChanStat where
  ch : Nat
  stepSum : Nat
  reads : Nat
  deriving DecidableEq, Repr

/-- The media. `directory` gives the flash location of a map page (R339), `offStamp` the timestamp saved at the last shutdown (R351). `victims` are the superblocks that garbage collection has begun to empty (R346),
`wear` gives the wear units of the blocks of a superblock; `pages` the cached map pages with
their last access, `late` the pages whose updates wait for room among the dirty ones (R340), `floor` and `floorDirty` what a controller reset kept of them in the floor until replay ends (R447); `latency` page reads of the last 24 hours (time, µs); `passed` the thresholds of R361 already
reported. -/
structure Media where
  map : List MapE
  wb : List WbUnit
  writes : Nat
  sbs : List Superblock
  victims : List (Nat × Nat)
  wear : List (Nat × Nat × Nat)
  retired : List RetiredBlock
  spareUsed : Nat
  failed : List (Nat × Nat)
  rebuilding : List (Nat × Nat)
  readOnly : Bool
  journal : Nat
  undo : List Undo
  sinceCkpt : Nat
  directory : List (Nat × Loc)
  pages : List (Nat × Nat)
  dirty : List Nat
  late : List Nat
  floor : List (Nat × Nat)
  floorDirty : List Nat
  mapHit : Nat
  mapMiss : Nat
  hitAll : Nat
  missAll : Nat
  reserve : Bool
  hist : List Nat
  lost : Nat
  latency : List (Nat × Nat)
  chans : List ChanStat
  hostW : Nat
  mediaW : Nat
  waf : List (Nat × Nat × Nat)
  refreshed : Nat
  scrubAt : Nat
  scrubEn : Bool
  ageUnk : Bool
  offStamp : Option Nat
  latThr : Nat
  deepThr : Nat
  passed : List Nat
  deriving DecidableEq, Repr

/-- Media as manufactured: nothing written, no block worn or retired (DESIGN CHOICE, log 3). -/
def Media.reset : Media where
  map := []
  wb := []
  writes := 0
  sbs := []
  victims := []
  wear := []
  retired := []
  spareUsed := 0
  failed := []
  rebuilding := []
  readOnly := false
  journal := 0
  undo := []
  sinceCkpt := 0
  directory := []
  pages := []
  dirty := []
  late := []
  floor := []
  floorDirty := []
  mapHit := 0
  mapMiss := 0
  hitAll := 0
  missAll := 0
  reserve := true
  hist := [0, 0, 0, 0, 0, 0, 0, 0, 0]
  lost := 0
  latency := []
  chans := []
  hostW := 0
  mediaW := 0
  waf := []
  refreshed := 0
  scrubAt := 0
  scrubEn := true
  ageUnk := false
  offStamp := none
  latThr := 2000
  deepThr := 50
  passed := []

end Sys2Proof.Machine
end

