-- ==== Sys2Proof/Machine/RasState.lean ====
section
/-! DEFINITION. The state of error handling (17). -/

namespace Sys2Proof.Machine

/-- An error record (Table 17.3). -/
structure ErrRec where
  seqStart : Nat
  seqCount : Nat
  time : Nat
  tstamp : Nat
  cls : Nat
  nested : Bool
  coalesced : Bool
  persisted : Bool
  promise : Bool
  cmdValid : Bool
  injected : Bool
  slot : Nat
  parent : Nat
  kind : Nat
  action : Nat
  inst : Nat
  pseq : Nat × Nat
  sqid : Nat
  cid : Nat
  part : Nat
  count : Nat
  addr : Nat
  detail : Nat
  deriving DecidableEq, Repr

/-- To what a fault is attributed (R471): a job context, a unit instance of a kind. -/
inductive Attr where
  | none
  | part (p : Nat)
  | unit (kind inst : Nat)
  | handler
  deriving DecidableEq, Repr

/-- The error ring, its counters, promise bits, patrols, injection and alert (17). `opens` are the
handlings that are open, newest first: attribution and slot. `sramAt` and `hbmAt` tell when the location least recently patrolled was read, `sramPass` and `hbmPass` when the
pass that runs began; `repeats` are the locations rewritten after an error, `ucieHalf` the die-to-die
links that run at half width. -/
structure Ras where
  ring : List ErrRec
  head : Nat
  seqStart : Nat
  seqCount : Nat
  persist : List ErrRec
  opens : List (Attr × Nat)
  hdepth : Nat
  cnt : List Nat
  nested : Nat
  escal : Nat
  suppr : Nat
  expired : Nat
  promise : Nat
  sramScrub : Bool
  hbmScrub : Bool
  sramAt : Nat
  hbmAt : Nat
  sramPass : Nat
  hbmPass : Nat
  fmcRst : Nat
  fmcHangs : List (Nat × Nat)
  injMem : Nat
  injInst : Nat
  injArm : Bool
  injType : Nat
  fatal : List ErrRec
  repeats : List (Nat × Nat × Nat)
  alert : Bool
  ucieHalf : List Nat
  ucieSpent : List Nat
  deriving DecidableEq, Repr

/-- No record, no promise bit, the patrols enabled (Table 17.8). -/
def Ras.reset : Ras where
  ring := []
  head := 0
  seqStart := 0
  seqCount := 0
  persist := []
  opens := []
  hdepth := 0
  cnt := [0, 0, 0, 0]
  nested := 0
  escal := 0
  suppr := 0
  expired := 0
  promise := 0
  sramScrub := true
  hbmScrub := true
  sramAt := 0
  hbmAt := 0
  sramPass := 0
  hbmPass := 0
  fmcRst := 0
  fmcHangs := []
  injMem := 0
  injInst := 0
  injArm := false
  injType := 0
  fatal := []
  repeats := []
  alert := false
  ucieHalf := []
  ucieSpent := []

end Sys2Proof.Machine
end

