-- ==== Sys2Proof/Machine/State.lean ====
section
/-! DEFINITION. The state of the sled, its faults and refusals, and the state at reset. Every field is plain data.
A field whose docstring names no log entry is state that the spec gives. -/

namespace Sys2Proof.Machine

/-- Why the machine stops. -/
inductive Fault where
  /-- Raised by the meaning of an event that names a unit which does not exist on the variant (a port, cluster,
  stack, die or object out of range): the spec says that no such unit is there. Safe (log 7). -/
  | absentUnit
  deriving DecidableEq, Repr

/-- Why a command has no meaning. -/
inductive Refusal where
  /-- Raised by an arm of exec for a row not modelled. Safe. -/
  | notModelled (mnemonic : String)
  deriving DecidableEq, Repr

/-- The sled. -/
structure State where
  /-- The ordering variant (R3, R4). -/
  variant : Variant
  /-- The commands that wait, first in, first out. -/
  pending : List Instr
  /-- How many free values have been drawn (the model's own, log 9). -/
  free : Nat
  /-- Microseconds counted by idle steps (the model's own, log 8). -/
  now : Nat
  /-- The time at which the management processor last started (Table 17.3 TIME). -/
  upAt : Nat
  /-- The value of the last BAR2 read (the model's own, log 4). -/
  busReply : Word
  /-- What the sled has written to host memory, oldest first (the model's own, log 4). -/
  hostWrites : List HostWrite
  /-- Host link and NVMe controller (02). -/
  nvm : Nvm
  /-- Power state, self-test, firmware staging, sanitize (02). -/
  mgmt : Mgmt
  /-- The namespaces (R72, R519), none as manufactured (log 3). -/
  nss : List Ns
  /-- How many namespace keys have been generated (R493). -/
  keyGens : Nat
  /-- The result sets (R110). -/
  res : Results
  /-- Error records, promise, patrols (17). -/
  ras : Ras
  /-- A fatal fault of the management processor has been latched and the controller reset of R473 follows. -/
  escalate : Bool
  /-- The configuration and its transaction (15). -/
  cfg : Cfg
  /-- The partitions P0 to P7 (10). -/
  parts : List Part
  /-- Partition resets of all partitions (Table 10.6). -/
  presets : Nat
  /-- Model store and hot set (10). -/
  store : Store
  /-- The Reservoir (11). -/
  resv : Resv
  /-- The Meadow indexes (05). -/
  idx : List Index
  /-- Flash translation and media (12). -/
  media : Media
  /-- The cadence tracker (14). -/
  cad : Cad
  /-- Grants, ceiling and the thermal loop (14). -/
  pwr : Pwr
  /-- The Cistern (14). -/
  cis : Cis
  /-- The clusters C00 to C31 (07, 08, 09). -/
  clus : List Clu
  /-- Device signals on their way, oldest first (R217, R221). -/
  sigs : List DevSig
  /-- The Runnel links (13). -/
  lnk : Lnk
  /-- Start, boot flash and ledger (16). -/
  boot : Boot
  /-- Keys, policy and measurements (18). -/
  sec : Sec
  /-- The contacts and the GEN block (19). -/
  gen : Gen
  deriving DecidableEq, Repr

/-- The sled right after power-on reset: not yet started, as manufactured (logs 1, 2, 3). -/
def State.reset : State where
  variant := .d1024
  pending := []
  free := 0
  now := 0
  upAt := 0
  busReply := 0
  hostWrites := []
  nvm := Nvm.reset
  mgmt := Mgmt.reset
  nss := []
  keyGens := 0
  res := Results.reset
  ras := Ras.reset
  escalate := false
  cfg := Cfg.reset .d1024
  parts := List.replicate 8 Part.reset
  presets := 0
  store := Store.reset
  resv := Resv.reset
  idx := []
  media := Media.reset
  cad := Cad.reset
  pwr := Pwr.reset
  cis := Cis.reset
  clus := (List.range 32).map Clu.reset
  sigs := []
  lnk := Lnk.reset
  boot := Boot.reset
  sec := Sec.reset
  gen := Gen.reset

end Sys2Proof.Machine
end

