-- ==== Sys2Proof/Machine/Update.lean ====
section
/-! DEFINITION. One update for each field of the state: the meanings change the state through these, and
Laws/State.lean says of each what it leaves alone. -/

namespace Sys2Proof.Machine

/-- `variant` changed by a function. -/
def State.modVariant (f : Variant → Variant) (s : State) : State := { s with variant := f s.variant }

/-- `pending` changed by a function. -/
def State.modPending (f : List Instr → List Instr) (s : State) : State := { s with pending := f s.pending }

/-- `free` changed by a function. -/
def State.modFree (f : Nat → Nat) (s : State) : State := { s with free := f s.free }

/-- `now` changed by a function. -/
def State.modNow (f : Nat → Nat) (s : State) : State := { s with now := f s.now }

/-- `upAt` changed by a function. -/
def State.modUpAt (f : Nat → Nat) (s : State) : State := { s with upAt := f s.upAt }

/-- `busReply` changed by a function. -/
def State.modBusReply (f : Word → Word) (s : State) : State := { s with busReply := f s.busReply }

/-- `hostWrites` changed by a function. -/
def State.modHostWrites (f : List HostWrite → List HostWrite) (s : State) : State := { s with hostWrites := f s.hostWrites }

/-- `nvm` changed by a function. -/
def State.modNvm (f : Nvm → Nvm) (s : State) : State := { s with nvm := f s.nvm }

/-- `mgmt` changed by a function. -/
def State.modMgmt (f : Mgmt → Mgmt) (s : State) : State := { s with mgmt := f s.mgmt }

/-- `nss` changed by a function. -/
def State.modNss (f : List Ns → List Ns) (s : State) : State := { s with nss := f s.nss }

/-- `keyGens` changed by a function. -/
def State.modKeyGens (f : Nat → Nat) (s : State) : State := { s with keyGens := f s.keyGens }

/-- `res` changed by a function. -/
def State.modRes (f : Results → Results) (s : State) : State := { s with res := f s.res }

/-- `ras` changed by a function. -/
def State.modRas (f : Ras → Ras) (s : State) : State := { s with ras := f s.ras }

/-- `escalate` changed by a function. -/
def State.modEscalate (f : Bool → Bool) (s : State) : State := { s with escalate := f s.escalate }

/-- `cfg` changed by a function. -/
def State.modCfg (f : Cfg → Cfg) (s : State) : State := { s with cfg := f s.cfg }

/-- `parts` changed by a function. -/
def State.modParts (f : List Part → List Part) (s : State) : State := { s with parts := f s.parts }

/-- `presets` changed by a function. -/
def State.modPresets (f : Nat → Nat) (s : State) : State := { s with presets := f s.presets }

/-- `store` changed by a function. -/
def State.modStore (f : Store → Store) (s : State) : State := { s with store := f s.store }

/-- `resv` changed by a function. -/
def State.modResv (f : Resv → Resv) (s : State) : State := { s with resv := f s.resv }

/-- `idx` changed by a function. -/
def State.modIdx (f : List Index → List Index) (s : State) : State := { s with idx := f s.idx }

/-- `media` changed by a function. -/
def State.modMedia (f : Media → Media) (s : State) : State := { s with media := f s.media }

/-- `cad` changed by a function. -/
def State.modCad (f : Cad → Cad) (s : State) : State := { s with cad := f s.cad }

/-- `pwr` changed by a function. -/
def State.modPwr (f : Pwr → Pwr) (s : State) : State := { s with pwr := f s.pwr }

/-- `cis` changed by a function. -/
def State.modCis (f : Cis → Cis) (s : State) : State := { s with cis := f s.cis }

/-- `clus` changed by a function. -/
def State.modClus (f : List Clu → List Clu) (s : State) : State := { s with clus := f s.clus }

/-- `sigs` changed by a function. -/
def State.modSigs (f : List DevSig → List DevSig) (s : State) : State := { s with sigs := f s.sigs }

/-- `lnk` changed by a function. -/
def State.modLnk (f : Lnk → Lnk) (s : State) : State := { s with lnk := f s.lnk }

/-- `boot` changed by a function. -/
def State.modBoot (f : Boot → Boot) (s : State) : State := { s with boot := f s.boot }

/-- `sec` changed by a function. -/
def State.modSec (f : Sec → Sec) (s : State) : State := { s with sec := f s.sec }

/-- `gen` changed by a function. -/
def State.modGen (f : Gen → Gen) (s : State) : State := { s with gen := f s.gen }

end Sys2Proof.Machine
end

