-- ==== Sys2Proof/Machine/Ops.lean ====
section
/-! DEFINITION. The shared operations: free values, time, host writes, completions and the command audit,
asynchronous events, error records and their nesting (R34, R41, R73 to R75, R465 to R475). -/

namespace Sys2Proof.Machine

/-- A value that the spec leaves open: nothing constrains it (log 9). -/
def draw (s : State) : BitVec 64 × State := (Config.freeWord s.free, s.modFree (· + 1))

/-- The `n` bytes that the free values from number `k` on give (log 9). -/
def freeBytes (k n : Nat) : List Byte := (List.range n).map fun i => (Config.freeWord (k + i)).setWidth 8

/-- Draw `n` bytes that the spec leaves open. -/
def drawBytes (n : Nat) (s : State) : List Byte × State := (freeBytes s.free n, s.modFree (· + n))

/-- Milliseconds since the management processor started (Table 17.3 TIME). -/
def State.ms (s : State) : Nat := (s.now - s.upAt) / 1000

/-- The Timestamp feature's value, 0 when the host has not set it (Table 17.3 TSTAMP). -/
def State.stamp (s : State) : Nat :=
  if s.nvm.tsSet then (s.nvm.tsBase + (s.now - s.nvm.tsAt) / 1000) % 2 ^ 48 else 0

/-- The value of a feature; 0 when it has not been set. -/
def State.feat (s : State) (fid : Nat) : Nat :=
  match s.nvm.feats.find? (fun p => p.1 == fid) with
  | some p => p.2
  | none => 0

/-- Do Not Retry (Tables 2.11 and 2.14): 0 for the statuses that a later attempt can clear. -/
def Status.dnr : Status → Bool
  | .success | .commitPending | .partitionBusy | .notResident | .remoteUnreachable | .remoteTimeout
  | .programBusy | .tierFailed | .poolExhausted => false
  | .abortRequested | .sqDeletion | .abortLimit | .sanitizeInProgress | .selfTestInProgress
  | .internalError => false
  | _ => true

/-- The vendor status codes of Table 3.22 (status code type 7h). -/
def Status.vendorCode : Status → Option Nat
  | .checkFailed => some 0x80
  | .commitPending => some 0x81
  | .partitionBusy => some 0x82
  | .notResident => some 0x83
  | .timingFault => some 0x84
  | .jobWatchdog => some 0x85
  | .poisonedResult => some 0x86
  | .remoteUnreachable => some 0x88
  | .remoteTimeout => some 0x89
  | .programBusy => some 0x8A
  | .epochStale => some 0x8B
  | .tierFailed => some 0x8C
  | .trickle => some 0x8D
  | .saturationLimit => some 0x8E
  | .poolExhausted => some 0x8F
  | _ => none

/-- Whether a flight is the one named. -/
def Flight.is (f : Flight) (sqid cid : Nat) : Bool := f.sqid == sqid && f.cid == cid

/-- The audit entry of a command in flight (R465). -/
def State.flight? (s : State) (sqid cid : Nat) : Option Flight :=
  s.nvm.flights.find? (fun f => f.is sqid cid)

/-- Change the audit entry of a command. -/
def modFlight (sqid cid : Nat) (g : Flight → Flight) (s : State) : State :=
  s.modNvm fun n => { n with flights := n.flights.map fun f => if f.is sqid cid then g f else f }

/-- Set how far a command has come. -/
def setPhase (sqid cid : Nat) (p : Phase) (s : State) : State :=
  modFlight sqid cid (fun f => { f with phase := p }) s

/-- Write data of a command into its data buffer in host memory, with Relaxed Ordering where the host has enabled it (R34, Table 2.2). -/
def hostData (sqid cid off : Nat) (bytes : List Byte) (s : State) : State :=
  if bytes.isEmpty then s else s.modHostWrites (· ++ [.data sqid cid off s.nvm.pci.relaxed bytes])

/-- A completion queue holds at most one entry less than its size. -/
def Cq.full (q : Cq) : Bool := (q.tail + 1) % q.size == q.head

/-- Post an entry to a completion queue that has room: the entry is written, then its MSI-X message (R34), and the
command is no longer in flight (R41). A CID conflict leaves the earlier command in flight (R43). -/
def postNow (q : Cq) (e : Cqe) (s : State) : State :=
  let s := s.modNvm fun n => { n with
    cqs := n.cqs.map fun c => if c.id == q.id then { c with tail := (c.tail + 1) % c.size } else c
    flights := if e.status == .cidConflict then n.flights
      else n.flights.filter fun f => !f.is e.sqid e.cid }
  s.modHostWrites (· ++ .entry q.id e :: (if q.ien then [.msix q.vector] else []))

/-- Post an entry, or keep it until the completion queue has room. -/
def post (cqid : Nat) (e : Cqe) (s : State) : State :=
  match s.nvm.cqs.find? (fun c => c.id == cqid) with
  | none => s.modNvm fun n => { n with flights := n.flights.filter fun f => !f.is e.sqid e.cid }
  | some q =>
    if q.full || !q.backlog.isEmpty then
      let s := s.modNvm fun n => { n with
        cqs := n.cqs.map fun c => if c.id == cqid then { c with backlog := c.backlog ++ [e] } else c }
      if e.status == .cidConflict then s else setPhase e.sqid e.cid .ending s
    else postNow q e s

/-- Add an Error Information entry (R74): the log holds the latest 64. -/
def addErrInfo (sqid cid : Nat) (st : Status) (nsid : Nat) (record : Option Nat) (s : State) : State :=
  s.modNvm fun n => { n with
    errCount := n.errCount + 1
    errLog := ({ count := n.errCount + 1, sqid := sqid, cid := cid, status := st, nsid := nsid,
                 record := record } :: n.errLog).take 64 }

/-- Complete a command that is in flight (R73, R74). -/
def completeFlight (f : Flight) (st : Status) (dw0 dw1 : Nat) (s : State) : State :=
  let sq := s.nvm.sqs.find? (fun q => q.id == f.sqid)
  let cqid := match sq with | some q => q.cqid | none => 0
  let hd := match sq with | some q => q.head | none => 0
  let s := if st == .success then s else addErrInfo f.sqid f.cid st f.cmd.nsid f.errRec s
  post cqid { sqid := f.sqid, cid := f.cid, sqhd := hd, status := st,
              more := st != .success && f.errRec.isSome, dw0 := dw0, dw1 := dw1 } s

/-- The pages whose events wait for their read: the page is masked until it is read. The page that Namespace Attribute Changed names has
none that the sled serves (Table 2.13), so that nothing could unmask it, and it is not masked; see log 109 (DESIGN CHOICE). -/
def maskPage (page : Nat) (l : List Nat) : List Nat := if page = 4 then l else page :: l

/-- Raise an asynchronous event (R75): a vendor event (type 7h) only when feature C0h enables it; a page whose event
awaits its read is masked, and Trickle mode raises none (R442). It completes the oldest outstanding request or waits for one. -/
def raiseEvent (typ info page : Nat) (s : State) : State :=
  let ev : Event := ⟨typ, info, page⟩
  if s.boot.phase == .trickle then s
  else if typ == 7 && !bit (s.feat 0xC0) info then s
  else if s.nvm.masked.contains page || s.nvm.events.contains ev then s
  else match s.nvm.aers with
    | [] => s.modNvm fun n => { n with events := n.events ++ [ev] }
    | k :: ks =>
      match s.flight? k.1 k.2 with
      | none => s.modNvm fun n => { n with aers := ks }
      | some f =>
        let s := s.modNvm fun n => { n with aers := ks, masked := maskPage page n.masked }
        completeFlight f .success (typ + info * 256 + page * 65536) 0 s

/-- Raise a SMART and Health event for a bit of Critical Warning that becomes 1, where feature 0Bh enables the bit (R75, R76): information
code 01h for the temperature, 02h for the spare blocks, 00h for the others; see log 109 (DESIGN CHOICE). -/
def smartEvent (warning : Nat) (s : State) : State :=
  if bit (s.feat 0x0B) warning then raiseEvent 1 (if warning = 1 then 1 else if warning = 0 then 2 else 0) 2 s else s

/-- What a detection says of a fault: the fields of Table 17.3 that it settles, and to what the error is
attributed (R471). `spare` marks a record of spare substitution (R29), `own` one of the loss of a unit (R30, R332): each has a slot of
its own. -/
structure Fault17 where
  kind : Nat
  cls : Nat := 0
  action : Nat := 0
  inst : Nat := 0xFFFF
  part : Nat := 0xFF
  cmd : Option (Nat × Nat) := none
  addr : Nat := 0
  detail : Nat := 0
  promise : Bool := false
  spare : Bool := false
  own : Bool := false
  injected : Bool := false
  attr : Attr := .none
  deriving DecidableEq, Repr

/-- Whether a record of class 0 of this start takes this occurrence as well (R468). Substitutions and losses, which R29, R30 and R332 ask
to be recorded, do not coalesce; see log 107 (DEDUCED). -/
def coalesces (start ms : Nat) (r : Fault17) (e : ErrRec) : Bool :=
  r.cls == 0 && !r.spare && !r.own && e.cls == 0 && e.kind == r.kind && e.inst == r.inst && e.seqStart == start && decide (ms < e.time + 1000)

/-- The open handling that an error falls under (R471): the one opened last among those that qualify. -/
def parentOf (opens : List (Attr × Nat)) (a : Attr) : Option Nat :=
  if a == .none then none
  else match opens.find? (fun o => o.1 == a || (a == .handler && (match o.1 with | .part _ => true | _ => false))) with
    | some o => some o.2
    | none => none

/-- The record that a fault makes, in the slot after HEAD (R467). -/
def mkRecord (r : Fault17) (s : State) : ErrRec :=
  let slot := (s.ras.head + 1) % 256
  let par := parentOf s.ras.opens r.attr
  let pseq := match par with
    | none => (0, 0)
    | some p => match s.ras.ring.find? (fun e => e.slot == p) with
      | some e => (e.seqStart, e.seqCount)
      | none => (0, 0)
  { seqStart := s.ras.seqStart, seqCount := s.ras.seqCount + 1, time := s.ms, tstamp := s.stamp
    cls := r.cls, nested := par.isSome, coalesced := false
    persisted := r.cls ≥ 2 || r.promise || r.spare
    promise := r.promise, cmdValid := r.cmd.isSome, injected := r.injected, slot := slot
    parent := par.getD 0xFF, kind := r.kind, action := r.action, inst := r.inst, pseq := pseq
    sqid := (r.cmd.getD (0, 0)).1, cid := (r.cmd.getD (0, 0)).2, part := r.part, count := 1
    addr := r.addr, detail := r.detail }

/-- A detection becomes an error record (R466 to R469): it coalesces with a class 0 record of the last second, or
takes the slot after HEAD; classes 2 and 3, promise losses and substitutions are persisted; classes 2 and 3
and nested records raise event 02h and the management alert (R475, R476); see log 13 (DESIGN CHOICE). -/
def addRecord (r : Fault17) (s : State) : State :=
  let s := s.modRas fun a => { a with cnt := a.cnt.modify r.cls sat32 }
  match s.ras.ring.reverse.find? (coalesces s.ras.seqStart s.ms r) with
  | some old =>
    s.modRas fun a => { a with
      ring := a.ring.map fun e =>
        if e.slot == old.slot then { e with count := min (e.count + 1) 0xFFFFFF, coalesced := true } else e }
  | none =>
    let e := mkRecord r s
    let loud := decide (2 ≤ r.cls) || r.promise
    let s := s.modRas fun a => { a with
      ring := a.ring.filter (fun x => x.slot != e.slot) ++ [e]
      head := e.slot
      seqCount := a.seqCount + 1
      nested := if e.nested then sat32 a.nested else a.nested
      persist := if e.persisted then (a.persist ++ [e]).drop ((a.persist.length + 1) - 256) else a.persist
      alert := a.alert || loud }
    let s := match r.cmd with
      | none => s
      | some k => modFlight k.1 k.2 (fun f => { f with errRec := some (f.errRec.getD e.slot) }) s
    if loud || e.nested then raiseEvent 7 2 0xC3 s else s

/-- The handlings that the management firmware counts in HDEPTH: those of contexts and partitions; a substitution that waits for its
job boundary is no open handler (DEDUCED, log 50). -/
def depthOf (l : List (Attr × Nat)) : Nat :=
  min 15 (l.filter fun o => match o.1 with | .part _ => true | .handler => true | _ => false).length

/-- Open a handling under the latest record, so that errors attributed to `a` meanwhile are nested (R471); HDEPTH counts the
handlings that are open (R473). -/
def openHandling (a : Attr) (s : State) : State :=
  s.modRas fun r => 
    let l := (a, r.head) :: r.opens
    { r with opens := l, hdepth := depthOf l }

/-- Close the handlings attributed to `a`. -/
def closeHandling (a : Attr) (s : State) : State :=
  s.modRas fun r =>
    let l := r.opens.filter fun o => o.1 != a
    { r with opens := l, hdepth := depthOf l }

/-- Set a bit of RAS_PROMISE: a record of class 2 with PROMISE, event 02h and the SMART event of Critical Warning bit 2 (R454). Nothing when it is set. -/
def losePromise (n kind inst : Nat) (s : State) : State :=
  if bit s.ras.promise n then s
  else smartEvent 2 (addRecord { kind := kind, cls := 2, inst := inst, promise := true }
    (s.modRas fun a => { a with promise := a.promise ||| 2 ^ n }))

/-- Clear a bit of RAS_PROMISE. -/
def keepPromise (n : Nat) (s : State) : State :=
  s.modRas fun a => { a with promise := if bit a.promise n then a.promise - 2 ^ n else a.promise }

/-- A class 3 fault of the management processor (R473): the record and its parent are latched in RAS_FATAL, and a
controller reset follows. -/
def fatalFault (r : Fault17) (s : State) : State :=
  let s := addRecord { r with cls := 3, action := 7 } s
  let latest := s.ras.ring.find? (fun e => e.slot == s.ras.head)
  let parent := match latest with
    | none => none
    | some e => if e.nested then s.ras.ring.find? (fun (p : ErrRec) => p.slot == e.parent) else none
  (s.modRas fun a => { a with fatal := latest.toList ++ parent.toList }).modEscalate (fun _ => true)

/-- Complete a command (R73). A completion that matches no audit entry, or a second one for an entry, is suppressed,
which is fault 19h (R465). -/
def complete (sqid cid : Nat) (st : Status) (dw0 dw1 : Nat) (s : State) : State :=
  match s.flight? sqid cid with
  | some f =>
    if f.phase == .ending then
      fatalFault { kind := 0x19, cmd := some (sqid, cid) }
        (s.modRas fun a => { a with suppr := min (a.suppr + 1) 0xFFFF })
    else completeFlight f st dw0 dw1 s
  | none =>
    fatalFault { kind := 0x19, cmd := some (sqid, cid) }
      (s.modRas fun a => { a with suppr := min (a.suppr + 1) 0xFFFF })

/-- Complete the command `c` (by its queue and identifier). -/
def done (c : Cmd) (st : Status) (s : State) : State := complete c.sqid c.cid st 0 0 s

/-- Complete the command `c` with both result dwords. -/
def doneWith (c : Cmd) (st : Status) (dw0 dw1 : Nat) (s : State) : State := complete c.sqid c.cid st dw0 dw1 s

/-- Complete with success. -/
def ok (c : Cmd) (s : State) : State := done c .success s

/-- Invalid Field in Command that points at a command dword (R84). -/
def badDword (n : Nat) (c : Cmd) (s : State) : State := doneWith c .invalidField n 0 s

/-- Invalid Field in Command of a command that is not a query command and whose rule gives no pointer: dword 0 is 0 (log 54). -/
def badField (c : Cmd) (s : State) : State := doneWith c .invalidField 0 0 s

/-- Invalid Field in Command that points at a byte of the parameter structure (R84). -/
def badParam (off : Nat) (c : Cmd) (s : State) : State := doneWith c .invalidField (0x80000000 + off) 0 s

/-- The key of a command. -/
def keyOf (c : Cmd) : Nat × Nat := (c.sqid, c.cid)

/-- The namespace that a command can name: it exists, is attached, and no delete or detach of it is under way
(R72). -/
def State.ns? (s : State) (id : Nat) : Option Ns :=
  match s.nss.find? (fun n => n.id == id) with
  | some n => if n.attached && n.gone.isNone then some n else none
  | none => none

/-- The order in which a command was fetched. -/
def State.orderOf (s : State) (c : Cmd) : Nat := match s.flight? c.sqid c.cid with | some f => f.order | none => 0

/-- Whether a close of a namespace or an index was fetched after the command with a number. -/
def closedLater (order : Nat) (g : Option Nat) : Bool := match g with | some o => decide (order < o) | none => false
def State.closedAfter (s : State) (order : Nat) : Bool :=
  (s.nss.any fun n => closedLater order n.gone) || s.idx.any fun i => closedLater order i.dropping

/-- Act for a command as of its fetch: a namespace or an index that was closed after it is still open to it (R72, R164). -/
def asFetched (order : Nat) (f : State → State) (s : State) : State :=
  if s.closedAfter order then
    let t := f ((s.modNss (·.map fun n => if closedLater order n.gone then { n with gone := none } else n)).modIdx
      (·.map fun i => if closedLater order i.dropping then { i with dropping := none } else i))
    (t.modNss (·.map fun n => match s.nss.find? fun m => m.id == n.id with
      | some m => if closedLater order m.gone then { n with gone := m.gone } else n
      | none => n)).modIdx (·.map fun i => match s.idx.find? fun j => j.nsid == i.nsid && j.id == i.id with
      | some j => if closedLater order j.dropping then { i with dropping := j.dropping } else i
      | none => i)
  else f s

/-- Change a namespace. -/
def modNs (id : Nat) (f : Ns → Ns) (s : State) : State :=
  s.modNss (·.map fun n => if n.id == id then f n else n)

/-- The arithmetic clock of the power state in force, in units of 0.1 GHz, before trims (Table 2.6). -/
def clockOf (ps : Nat) : Nat := if ps == 0 then 18 else if ps == 1 then 12 else if ps == 2 then 6 else 0

/-- Whether an admin opcode is of serial class (R48). -/
def isSerial (opc : Nat) : Bool :=
  [0x10, 0x80, 0x84, 0x0D, 0x15, 0x14, 0x09].contains opc ||
  [0xC1, 0xC4, 0xC8, 0xCC, 0xD1, 0xD4, 0xD5, 0xDD, 0xE3, 0xE8, 0xED, 0xF0, 0xF4].contains opc

/-- Change a partition. -/
def modPart (p : Nat) (f : Part → Part) (s : State) : State := s.modParts (·.modify p f)

/-- A partition; an absent index reads as an idle one. -/
def State.part (s : State) (p : Nat) : Part := s.parts.getD p Part.reset

/-- Whether a partition is present in the configuration in force (Table 10.1). -/
def State.present (s : State) (p : Nat) : Bool := decide (p < 8) && s.cfg.conf.clusters.getD p 0 != 0

end Sys2Proof.Machine
end

