-- ==== Sys2Proof/Machine/Cadence.lean ====
section
/-! DEFINITION. The cadence tracker, grants, the thermal loop and the Cistern (14): operations that the events and
commands call. -/

namespace Sys2Proof.Machine

/-- The classes of a pulse (Table 14.1). -/
inductive Pulse where
  | glitch | ordinary | ambiguous | marker | stuck
  deriving DecidableEq, Repr

/-- The tracked period, 250 µs until one is tracked (DEDUCED, log 29), in 10 ns. -/
def Cad.period (c : Cad) : Nat := if c.tracked = 0 then 25000 else c.tracked

/-- The class of a pulse by its high time, both in 10 ns (Table 14.1). -/
def pulseClass (tracked high : Nat) : Pulse :=
  if high < 100 then .glitch
  else if high * 100 ≤ 40 * tracked then .ordinary
  else if high * 100 < 60 * tracked then .ambiguous
  else if high * 100 ≤ 90 * tracked then .marker
  else .stuck

/-- The median of lengths: the mean of the middle two when their number is even. -/
def median (l : List Nat) : Nat :=
  let s := sortBy id l
  let n := s.length
  if n = 0 then 0
  else if n % 2 = 1 then s.getD (n / 2) 0
  else (s.getD (n / 2 - 1) 0 + s.getD (n / 2) 0) / 2

/-- The latest `n` elements of a list. -/
def lastN {α : Type} (n : Nat) (l : List α) : List α := l.drop (l.length - n)

/-- The surrogate cadence starts in place of a lost one, with the last tracked period and the frame in progress
(R388, R389): event 00h and a record of kind 13h. -/
def toSurrogate (s : State) : State :=
  let s := s.modCad fun c => { c with
    src := 2, surr := sat32 c.surr, loss := sat32 c.loss, tracked := c.period, cand := [], frameViol := 0
    pidx := c.pidx % 16 }
  raiseEvent 7 0 0xC0 (addRecord { kind := 0x13, cls := 0, action := 0 } s)

/-- A violation: counted, its bit of CAD_VSTAT set (R14: the set prevails), the clean run ended; the 64th of a frame
loses the cadence (R388). -/
def violation (vbit : Nat) (s : State) : State :=
  let s := s.modCad fun c => { c with
    viol := sat32 c.viol, frameViol := c.frameViol + 1, vstat := c.vstat ||| 2 ^ vbit, cand := [] }
  if s.cad.src == 1 && decide (64 ≤ s.cad.frameViol) then toSurrogate s else s

/-- Sixteen clean consecutive periods with exactly one marker (R390). -/
def cleanRun (l : List (Nat × Bool)) : Bool :=
  let m := median (l.map (·.1))
  l.length == 16 && (l.filter (·.2)).length == 1 &&
  l.all fun p => decide (10000 ≤ p.1 ∧ p.1 ≤ 100000 ∧ 9 * m ≤ 10 * p.1 ∧ 10 * p.1 ≤ 11 * m)

/-- What an edge did: nothing, started a period, or started period 0 of a frame. -/
inductive EdgeKind where
  | none | period | frame
  deriving DecidableEq, Repr

/-- An accepted edge while the external cadence is tracked (R387). -/
def acceptExternal (len : Nat) (marker : Bool) (s : State) : State × EdgeKind :=
  let s := s.modCad fun c =>
    let lens := lastN 16 (c.lens ++ [len])
    { c with lens := lens, tracked := median lens }
  if marker then
    let s := if s.cad.pidx == 15 then s else violation 0 s
    if s.cad.src == 1 then
      (s.modCad fun c => { c with
        pidx := 0, frames := c.frames + 1, frameViol := 0, realign := false }, .frame)
    else (s, .none)
  else (s.modCad fun c => { c with pidx := min (c.pidx + 1) 16 }, .period)

/-- An accepted external edge while another cadence, or none, is in force (R390, R391). -/
def acceptCandidate (len : Nat) (marker : Bool) (s : State) : State × EdgeKind :=
  let run := lastN 16 (s.cad.cand ++ [(len, marker)])
  if marker && cleanRun s.cad.cand then
    let again := s.cad.src == 2
    let s := s.modCad fun c => { c with
      src := 1, pidx := 0, frames := c.frames + 1, frameViol := 0, realign := true, cand := []
      lens := lastN 16 (c.cand.map (·.1)), tracked := median (c.cand.map (·.1))
      reacq := if again then sat32 c.reacq else c.reacq }
    (if again then raiseEvent 7 0 0xC0 s else s, .frame)
  else (s.modCad fun c => { c with cand := run }, .none)

/-- A pulse of the pair: `len` since the last accepted edge, `high` its high time (R386, R387). -/
def pulse (len high : Nat) (s : State) : State × EdgeKind :=
  if s.cad.src == 3 then (s, .none)
  else
    let t := s.cad.period
    let k := pulseClass t high
    if k == .glitch || k == .ambiguous then (violation 2 s, .none)
    else if k == .stuck then (violation 3 s, .none)
    else if decide (len * 100 < 40 * t) then (violation 1 s, .none)
    else if s.cad.src == 1 then acceptExternal len (k == .marker) s
    else acceptCandidate len (k == .marker) s

/-- A period of the surrogate begins (R389). -/
def surrogateTick (s : State) : State × EdgeKind :=
  if s.cad.src == 2 || s.cad.src == 3 then
    if s.cad.pidx ≥ 15 then
      (s.modCad fun c => { c with pidx := 0, frames := c.frames + 1, frameViol := 0, realign := false }, .frame)
    else (s.modCad fun c => { c with pidx := c.pidx + 1 }, .period)
  else (s, .none)

/-- CADSRC takes effect (R391, R414): the surrogate at 250 µs, without a look at the input, or again the external cadence;
see log 96 (DEDUCED). -/
def useCadsrc (s : State) : State :=
  if s.cfg.conf.cadsrc == 1 && s.cad.src != 3 then
    raiseEvent 7 0 0xC0 (s.modCad fun c => { c with
      src := 3, tracked := 25000, cand := [], frameViol := 0, pidx := c.pidx % 16, surr := sat32 c.surr })
  else if s.cfg.conf.cadsrc != 1 && s.cad.src == 3 then s.modCad fun c => { c with src := 2 }
  else s

/-- The most power of a state in W (Table 2.6). -/
def psWatts (ps : Nat) : Nat :=
  if ps == 0 then 950 else if ps == 1 then 600 else if ps == 2 then 350 else if ps == 3 then 60 else 25

/-- The power ceiling in W: the lower of the state's limit and the thermal limit, which falls from 950 W (R397, R411,
R413; DEDUCED, log 28). During an exit from PS3 or PS4 the state is the one resumed. -/
def State.ceiling (s : State) : Nat :=
  min (psWatts (if s.mgmt.exiting then s.mgmt.lastOp else s.mgmt.ps)) (950 - s.pwr.reduction)

/-- The arithmetic clock in 0.1 GHz: that of the power state less trims and throttling (Table 2.6, R397, R411). -/
def State.clock (s : State) : Nat :=
  let base := clockOf s.mgmt.ps
  base - min base (s.pwr.trimSteps + s.pwr.throtSteps)

/-- The grant of a cluster in 0.1 W: 9.5 W at 1.8 GHz, in proportion at the clock of a lower state (Table 14.2; DESIGN CHOICE, log 30).
During an exit from PS3 or PS4 the state is the one resumed. -/
def State.clusterWatts (s : State) : Nat := (95 * clockOf (if 3 ≤ s.mgmt.ps then s.mgmt.lastOp else s.mgmt.ps) + 17) / 18

/-- Dies that program or erase at once (Table 2.6, R411). -/
def State.diesAtOnce (s : State) : Nat :=
  let most := if s.mgmt.ps == 0 then 1024 else if s.mgmt.ps == 1 then 512 else if s.mgmt.ps == 2 then 256 else 0
  min most (max 256 (most / 2 ^ s.pwr.diesHalved))

/-- Whether another group of 128 dies may start erasing (R53). -/
def State.erasable (s : State) : Bool :=
  decide (128 * ((s.pwr.grants.filter fun g => match g.unit with | .eraseGroup _ => true | _ => false).length + 1) ≤ s.diesAtOnce)

/-- The most input power averaged over 100 µs, in 0.1 W, with and without an excursion (R397); before the first acquisition 120 W
(R391). -/
def State.mostPower (s : State) (excursion : Bool) : Nat :=
  if s.cad.src = 0 then 1200 else s.ceiling * 10 + (if excursion then 1500 else 0)

/-- What a grant draws: a cluster's share falls with its clock (DESIGN CHOICE, log 30). -/
def grantDraw (s : State) (g : Grant) : Nat :=
  match g.unit with
  | .cluster _ => if clockOf s.mgmt.ps = 0 then g.watts else g.watts * s.clock / clockOf s.mgmt.ps
  | _ => g.watts

/-- The granted draw D in 0.1 W (R392). -/
def State.drawD (s : State) : Nat := sumOf (s.pwr.grants.map (grantDraw s))

/-- The order of surges: class, then the number of the unit (R393). -/
def surgeKey (g : Surge) : Nat :=
  g.cls * 100000 + (match g.unit with | .recharge => 0 | .stack n => n | .cluster n => n | .eraseGroup n => n)

/-- The delay of a grant, in µs, enters STAGMAX and STAGSUM (R393). -/
def countStagger (at_ : Nat) (s : State) : State :=
  s.modPwr fun p => { p with stagMax := max p.stagMax (s.now - at_), stagSum := p.stagSum + (s.now - at_) }

/-- Give a grant, replacing a smaller one of the same unit. -/
def giveGrant (u : GUnit) (w : Nat) (s : State) : State :=
  s.modPwr fun p => { p with grants := (p.grants.filter fun g => g.unit != u) ++ [⟨u, w, 0⟩] }

/-- Trim compute by 0.1 GHz at a time until `w` more fits under the ceiling (R397); `n` bounds the steps. -/
def trimFor (w : Nat) : Nat → State → State
  | 0, s => s
  | n + 1, s =>
    if s.drawD + w ≤ s.ceiling * 10 ∨ s.clock = 0 then s
    else trimFor w n (s.modPwr fun p => { p with trimSteps := p.trimSteps + 1, trims := sat32 p.trims })

/-- The grants of one owned period (R393, R394): pending surges in order, `left` of STEPW in 0.1 W, the classes in
which a surge has been held back. -/
def grantLoop : List Surge → Nat → List Nat → State → State
  | [], _, _, s => s
  | g :: gs, left, held, s =>
    if held.contains g.cls then grantLoop gs left held s
    else
      let part := if g.watts ≤ left then g.watts else if s.cfg.conf.stepw < 60 then left else 0
      let s := if g.cls == 1 then trimFor part 20 s else s
      let room := min left (s.ceiling * 10 - min (s.ceiling * 10) s.drawD)
      let have_ := match s.pwr.grants.find? (fun x => x.unit == g.unit) with
        | some x => x.watts
        | none => 0
      if g.cls == 4 && !s.erasable then grantLoop gs left (g.cls :: held) s
      else if g.watts ≤ room then
        let s := countStagger g.at_ (giveGrant g.unit (have_ + g.watts) s)
        let s := s.modPwr fun p => { p with surges := p.surges.filter fun x => x.unit != g.unit }
        let s := if g.unit == .recharge then s.modCis fun c => { c with burst := some s.now } else s
        grantLoop gs (left - g.watts) held s
      else if g.unit == .recharge && decide (s.cfg.conf.stepw < 60) && decide (0 < room) then
        -- a ramp: the burst takes what is left, and goes on in the next owned period
        let s := countStagger g.at_ (giveGrant .recharge (have_ + room) s)
        let s := s.modPwr fun p => { p with surges := p.surges.map fun x =>
          if x.unit == .recharge then { x with watts := g.watts - room, at_ := s.now } else x }
        let s := s.modCis fun c => { c with burst := some (c.burst.getD s.now) }
        grantLoop gs (left - room) (g.cls :: held) s
      else grantLoop gs left (g.cls :: held) s

/-- Whether a trim can end: no class 1 burst holds a grant (R397). -/
def untrim (s : State) : State :=
  if s.cis.burst.isNone && decide (0 < s.pwr.trimSteps) then s.modPwr fun p => { p with trimSteps := 0 } else s

/-- Whether any sensor is above its throttle threshold, in 0.1 °C by sensor (Table 14.5); an implausible sensor is
taken as at its threshold (Table 17.1 kind 16h). -/
def throttleAt : List Int := [950, 950, 950, 850, 700, 450, 550]
def criticalAt : List Int := [1050, 1050, 1050, 950, 800, 500, 650]
def Pwr.tempsUsed (p : Pwr) : List Int :=
  ((p.temps.zip p.implausible).zip throttleAt).map fun x => if x.1.2 then x.2 else x.1.1
def Pwr.hot (p : Pwr) : Bool := (p.tempsUsed.zip throttleAt).any fun x => decide (x.2 < x.1)
def Pwr.cool (p : Pwr) : Bool := (p.tempsUsed.zip throttleAt).all fun x => decide (x.1 + 30 ≤ x.2)

/-- The owned period (R393): nothing while no cadence is acquired, the frame realigns or a sensor is hot. -/
def ownedPeriod (s : State) : State :=
  if s.cad.pidx == s.cfg.conf.slot && !s.cad.realign && s.cad.src != 0 then
    let s := untrim s
    if s.pwr.hot then s
    else grantLoop (sortBy surgeKey s.pwr.surges) (s.cfg.conf.stepw * 10) [] s
  else s

/-- Ask for a surge, unless the unit holds a grant or waits for one. -/
def askSurge (cls : Nat) (u : GUnit) (watts : Nat) (s : State) : State :=
  if s.pwr.surges.any (fun x => x.unit == u) || s.pwr.grants.any (fun g => g.unit == u) then s
  else s.modPwr fun p => { p with surges := p.surges ++ [⟨cls, u, watts, s.now⟩] }

/-- Whether every cluster of a list holds a grant (R396). -/
def State.granted (s : State) (cs : List Nat) : Bool :=
  cs.all fun c => s.pwr.grants.any fun g => g.unit == .cluster c

/-- Ask for the wake of clusters (class 3). -/
def wakeClusters (cs : List Nat) (s : State) : State :=
  cs.foldl (fun s c => askSurge 3 (.cluster c) s.clusterWatts s) s

/-- An operational power state comes into force (R53, R56): in a lower one the grants of clusters fall with their clock and erase groups
beyond its dies give up theirs; in a higher one clusters ask for the rest of their grants, and ramp up in later frames. -/
def enterState (ps : Nat) (s : State) : State :=
  let s := s.modMgmt fun m => { m with ps := ps, lastOp := ps }
  let w := s.clusterWatts
  let more := s.pwr.grants.filter fun g => (match g.unit with | .cluster _ => true | _ => false) && decide (g.watts < w) &&
    !(s.pwr.surges.any fun x => x.unit == g.unit)
  let erasing := (s.pwr.grants.filter fun g => match g.unit with | .eraseGroup _ => true | _ => false).drop (s.diesAtOnce / 128)
  s.modPwr fun p => { p with
    surges := p.surges ++ more.map fun g => ⟨3, g.unit, w - g.watts, s.now⟩
    grants := (p.grants.filter fun g => !erasing.contains g).map fun g => match g.unit with
      | .cluster _ => { g with watts := min g.watts w }
      | _ => g }

/-- Mark the grants of clusters as used. -/
def useGrants (cs : List Nat) (s : State) : State :=
  s.modPwr fun p => { p with grants := p.grants.map fun g =>
    match g.unit with
    | .cluster c => if cs.contains c then { g with idle := 0 } else g
    | _ => g }

/-- What a frame does to the thermal reduction (R411): 50 W up while a sensor is hot, 50 W down when all are cool; the
reduced ceiling is enforced by releasing idle grants, lowering the clock to 0.6 GHz, halving the dies to 256. -/
def throttleFrame (s : State) : State :=
  let s := s.modPwr fun p => { p with
    reduction := if p.hot then min (p.reduction + 50) 600 else if p.cool then p.reduction - 50 else p.reduction }
  let on := s.pwr.hot || decide (0 < s.pwr.reduction)
  let newly := on && !s.pwr.throttled
  let s := s.modPwr fun p => { p with throttled := on, thrtl := if on then sat32 p.thrtl else p.thrtl }
  let s := if newly then smartEvent 1 s else s
  if !on then s.modPwr fun p => { p with throtSteps := 0, diesHalved := 0 }
  else if s.drawD ≤ s.ceiling * 10 then s
  else
    let s := s.modPwr fun p => { p with grants := p.grants.filter fun g => g.idle == 0 }
    if s.drawD ≤ s.ceiling * 10 then s
    else if 6 < s.clock then s.modPwr fun p => { p with throtSteps := p.throtSteps + 1 }
    else s.modPwr fun p => { p with diesHalved := min (p.diesHalved + 1) 2 }

/-- Grants age by a frame (R396); a cluster whose partition runs a job is in use, and so is a stack that is awake. -/
def ageGrants (busy : List Nat) (s : State) : State :=
  s.modPwr fun p => { p with grants := p.grants.map fun g =>
    match g.unit with
    | .cluster c => if busy.contains c then { g with idle := 0 } else { g with idle := g.idle + 1 }
    | .eraseGroup _ => { g with idle := g.idle + 1 }
    | _ => g }

/-- The clusters whose partition runs a job or a batch. -/
def State.busyClusters (s : State) : List Nat :=
  s.parts.flatMap fun p =>
    (match p.run with | some r => r.clusters | none => []) ++
    (match p.batch with | some b => b.clusters | none => [])

/-- The usable energy of a string at full charge and at its present voltage, in mJ (R401, R402). -/
def CString.full (c : CString) : Nat := 3072 * c.cap / 100
def CString.present (c : CString) : Nat := c.cap * (c.mv * c.mv - min (c.mv * c.mv) (17600 * 17600)) / 20000000

/-- The strings in service. -/
def Cis.inService (c : Cis) : List CString := c.strings.filter fun x => x.st == 0

/-- E_measured, E_present and E_repl in mJ (R402, R407). -/
def Cis.eMeas (c : Cis) : Nat := sumOf (c.inService.map CString.full)
def Cis.ePres (c : Cis) : Nat := sumOf (c.inService.map CString.present)
def Cis.eRepl (c : Cis) : Nat :=
  match c.strings[8]? with
  | some sp => if sp.st == 1 then c.eMeas - maxOf (c.inService.map CString.full) + sp.full else c.eMeas
  | none => c.eMeas

/-- The write-back allowance A in GiB (R407). -/
def Cis.allowance (cap : Nat) (c : Cis) : Nat :=
  min (min cap 32) ((min (min c.eMeas c.ePres) c.eRepl - 60000) / 7000)

/-- Posted data that flash has not confirmed, in bytes (R407). -/
def State.held (s : State) : Nat := 4096 * (s.media.wb.filter (·.posted)).length

/-- Recompute A and raise event 01h when it has moved by 4 GiB, or reaches 0 or its cap (R407, R408). -/
def recompute (s : State) : State :=
  let cap := s.cfg.conf.allowcap
  let a := s.cis.allowance cap
  let old := s.cis.allow
  let s := s.modCis fun c => { c with allow := a }
  let far := decide (s.cis.lastEvent + 4 ≤ a ∨ a + 4 ≤ s.cis.lastEvent)
  if a != old && (far || a == 0 || a == min cap 32) then
    let s := raiseEvent 7 1 0xC1 (s.modCis fun c => { c with lastEvent := a })
    if a == 0 then smartEvent 4 s else s
  else s

/-- A string fails (R405): the spare is switched in when it is unused, be it under test, and no other string waits for it; otherwise A
rests on the strings left (R30). -/
def failString (i : Nat) (s : State) : State :=
  match s.cis.strings[i]? with
  | none => s
  | some x =>
    if x.st == 3 then s
    else
      let inUse := x.st == 0 || x.st == 2 && x.was == 0
      let spare := match s.cis.strings[8]? with | some p => decide (i ≠ 8) && (p.st == 1 || p.st == 2 && p.was == 1) && !s.cis.switching | none => false
      let s := s.modCis fun c => { c with strings := c.strings.modify i fun y => { y with st := 3 } }
      let s := addRecord { kind := 0x14, cls := 0, action := if spare then 3 else 8, inst := i, spare := spare, own := true } s
      let s := if inUse && !spare || i == 8 && s.cis.switching then
          (s.modGen fun g => { g with lost := true }).modCis fun c => { c with switching := c.switching && i != 8 }
        else s
      let s := if inUse && spare then s.modCis fun c => { c with switching := true } else s
      recompute s

/-- The allowance without one string, in bytes (R404). -/
def allowWithout (i : Nat) (s : State) : Nat :=
  let c := { s.cis with strings := s.cis.strings.modify i fun y => { y with st := 2 } }
  c.allowance s.cfg.conf.allowcap * 2 ^ 30

/-- Isolate the next string of a test once the posted data fits the others (R403, R404). -/
def testStep (s : State) : State :=
  match s.cis.test with
  | some t => match t.current, t.left with
    | none, i :: rest => match s.cis.strings[i]? with
      | none => s.modCis fun c => { c with test := some { t with left := rest } }
      | some x =>
        if x.st == 3 then s.modCis fun c => { c with test := some { t with left := rest } }
        else if x.st == 0 && decide (allowWithout i s < s.held) then s
        else recompute (s.modCis fun c => { c with
          test := some { t with current := some i, left := rest }
          strings := c.strings.modify i fun y => { y with st := 2, was := y.st } })
    | _, _ => s
  | none => s

/-- The strings of a mask as bits. -/
def maskOf (l : List Nat) : Nat := sumOf (l.map fun i => 2 ^ i)

/-- The results of a test complete the commands that wait for it (R406). -/
def endTest (t : CTest) (s : State) : State :=
  let s := s.modCis fun c => { c with
    test := none
    lastTest := if t.full then s.now else c.lastTest
    testTemp := if t.full then c.temp else c.testTemp }
  let s := recompute s
  t.cmds.foldl (fun s k => match s.flight? k.1 k.2 with
    | none => s
    | some _ => complete k.1 k.2 .success
        (s.cis.eMeas / 1000 % 65536 + s.cis.allow * 65536) (maskOf t.failed) s) s

/-- Go on with a test: the next string is isolated, or the test ends after its last one; `n` bounds the strings that are skipped. -/
def advanceTest : Nat → State → State
  | 0, s => s
  | n + 1, s => match s.cis.test with
    | some t =>
      if t.current.isSome then s
      else if t.left.isEmpty then endTest t s
      else
        let r := testStep s
        match r.cis.test with
        | some u => if u.left.length = t.left.length then r else advanceTest n r
        | none => r
    | none => s

/-- The spare string enters service (R405): recomputed, event 01h, the spare kind is spent (R454). A test of it ends; see log 106 (DEDUCED). -/
def switchSpare (s : State) : State :=
  if s.cis.switching then
    let s := s.modCis fun c => { c with
      switching := false
      test := c.test.map fun t => if t.current == some 8 then { t with current := none } else t
      strings := c.strings.modify 8 fun y => if y.st == 1 || y.st == 2 && y.was == 1 then { y with st := 0, was := 0 } else y }
    let s := recompute (losePromise 6 0x14 8 s)
    advanceTest 10 (raiseEvent 7 1 0xC1 s)
  else s

/-- Start a test of strings, or join the one that runs (R403, R406). -/
def startTest (strings : List Nat) (full byReg : Bool) (cmd : Option (Nat × Nat)) (s : State) : State :=
  match s.cis.test with
  | some t => s.modCis fun c => { c with
      test := some { t with cmds := t.cmds ++ cmd.toList, byReg := t.byReg || byReg } }
  | none => advanceTest 10 (s.modCis fun c => { c with
      test := some { current := none, left := strings, failed := [], cmds := cmd.toList, byReg := byReg
                     full := full } })

/-- A recharge burst is asked for while a string in service is below 30.4 V and the bank at most 60 °C (R409). -/
def askRecharge (s : State) : State :=
  if s.cis.burst.isSome || decide (600 < s.cis.temp) || s.cis.inService.all (fun x => decide (30400 ≤ x.mv)) then s
  else askSurge (if s.cis.allow < min s.cfg.conf.allowcap 32 then 1 else 5) .recharge 600 s

end Sys2Proof.Machine
end

