-- ==== Sys2Proof/Machine/Pool.lean ====
section
/-! DEFINITION. The Reservoir pool (R320 to R325) and the result sets (R110 to R114). -/

namespace Sys2Proof.Machine

/-- Bytes of the shared remainder: the Reservoir less its floors and what is retired (R320, R331). A retired channel
takes 1.5 GiB, a retired stack 48 GiB. -/
def State.shared (s : State) : Nat :=
  let total := s.variant.reservoirMiB - (65536 + 32768 + s.variant.protFloorMiB)
  let gone := 1536 * (s.resv.chRet.filter fun c => !s.resv.stkLost.contains c.1).length
    + 49152 * s.resv.stkLost.length
  (total - gone) * 2 ^ 20

/-- Bytes in use, and free. -/
def State.poolUsed (s : State) : Nat := sumOf (s.resv.units.map (·.bytes))
def State.poolFree (s : State) : Nat := s.shared - s.poolUsed

/-- Whether a unit may be evicted (R321): not in use, and for a result set its lease has ended (`age` is the time from
which its age runs). Dirty map pages, job regions and intermediate records never are. -/
def State.evictable (s : State) (u : PoolUnit) : Bool :=
  u.users == 0 && u.cls != 4 && u.cls != 5 && decide (u.age ≤ s.now) && !(u.cls == 2 && s.media.dirty.contains u.key)

/-- The home die of a partition: the die that holds more of its clusters, die 0 on a tie (R318). -/
def State.homeDie (s : State) (p : Nat) : Nat :=
  let m := s.cfg.conf.clusters.getD p 0
  let on := fun d => ((List.range 16).filter fun i => bit m (i + 16 * d)).length
  if on 0 < on 1 then 1 else 0

/-- The Reservoir address of a unit of the pool, by its place in the order of allocation; the granules of a unit that a job on some
clusters gets poisoned, counted in the unit, with their bytes as read: those that an error has hit (R224), and those that the next
fetch of a cluster does not get; see log 38 (DESIGN CHOICE). -/
def poolBase (order : Nat) : Nat := 2 ^ 47 + order * 2 ^ 37
def State.unitHurt (s : State) (cs : List Nat) (u : PoolUnit) : List (Nat × List Byte) :=
  let lo := poolBase u.order / 64
  let here := fun (g : Nat) => decide (lo ≤ g ∧ g < lo + u.bytes / 64)
  ((s.resv.poison.filter here).map fun g => (g - lo, Mem.read 0 s.resv.mem (g * 64) 64)) ++
  (s.resv.undelivered.filter fun x => cs.contains x.1 && here x.2.1).map fun x =>
    (x.2.1 - lo, freeBytes x.2.2 64)

/-- The units were read: what they could not deliver has been met. -/
def metUndelivered (cs : List Nat) (us : List PoolUnit) (s : State) : State :=
  s.modResv fun r => { r with undelivered := r.undelivered.filter fun x =>
    !(cs.contains x.1 && us.any fun u => decide (poolBase u.order / 64 ≤ x.2.1 ∧ x.2.1 < (poolBase u.order + u.bytes) / 64)) }

/-- Bytes in whole pages of 4 KiB (R318). -/
def pages4K (n : Nat) : Nat := (n + 4095) / 4096 * 4096

/-- The next unit to evict: the earliest age, then the lower class, then the earlier allocation (R322). -/
def victim (s : State) : Option PoolUnit :=
  (s.resv.units.filter s.evictable).foldl (fun (b : Option PoolUnit) u => match b with
    | none => some u
    | some v =>
      if u.age < v.age ∨ u.age = v.age ∧ (u.cls < v.cls ∨ u.cls = v.cls ∧ u.order < v.order) then some u
      else b) none

/-- What else an evicted unit takes with it: a result set's handle becomes invalid (R112), a model leaves the hot
set (R303), a map page leaves the cache (R340). -/
def dropUnit (u : PoolUnit) (s : State) : State :=
  let s := s.modResv fun r => { r with
    units := r.units.filter (fun x => x.order != u.order), evict := r.evict + 1 }
  if u.cls == 0 then s.modRes fun r => { r with sets := r.sets.filter fun x => x.handle != u.key }
  else if u.cls == 3 then s.modStore fun t => { t with hot := t.hot.filter fun h => h.id != u.key }
  else if u.cls == 2 then s.modMedia fun m => { m with pages := m.pages.filter fun p => p.1 != u.key }
  else s

/-- Evict units one at a time until `n` bytes are free; the number of units bounds the steps. -/
def evictFor (n : Nat) : Nat → State → State
  | 0, s => s
  | k + 1, s =>
    if s.poolUsed + n ≤ s.shared then s
    else match victim s with
      | none => s
      | some u => evictFor n k (dropUnit u s)

/-- Allocate a unit in whole pages (R318, R322, R324): none when every evictable unit together could not make the room, and then
nothing is evicted. Result sets, job regions, scratch and intermediate records lie on the owner's home die. -/
def allocate (cls key owner bytes age users : Nat) (s : State) : Option State :=
  let evictable := sumOf ((s.resv.units.filter s.evictable).map (·.bytes))
  let size := pages4K bytes
  if s.shared + evictable < s.poolUsed + size then none
  else
    let home := if cls == 0 || cls == 4 || cls == 5 then some (s.homeDie owner) else none
    let s := evictFor size (s.resv.units.length + 1) s
    some (s.modResv fun r => { r with
      orders := r.orders + 1
      units := r.units ++ [{ cls := cls, key := key, owner := owner, bytes := size, home := home, age := age
                             users := users, order := r.orders }] })

/-- An allocation that failed counts in MEM_EXHAUST. -/
def exhausted (s : State) : State := s.modResv fun r => { r with exhaust := sat32 r.exhaust }

/-- Free the units of a class with a key. -/
def freeUnit (cls key : Nat) (s : State) : State :=
  s.modResv fun r => { r with units := r.units.filter fun u => !(u.cls == cls && u.key == key) }

/-- Change the units of a class with a key. -/
def modUnit (cls key : Nat) (f : PoolUnit → PoolUnit) (s : State) : State :=
  s.modResv fun r => { r with units := r.units.map fun u => if u.cls == cls && u.key == key then f u else u }

/-- A live result set that a handle names in a namespace (R112, R114). -/
def State.resultSet? (s : State) (nsid handle : Nat) : Option ResultSet :=
  s.res.sets.find? fun r => r.handle == handle && r.nsid == nsid && !r.released

/-- The next handle from `h` on that no live set holds (R111). -/
def freeHandle (s : State) : Nat → Nat → Nat
  | 0, h => h
  | k + 1, h => if s.res.sets.any (fun r => r.handle == h) then freeHandle s k (if h = 0xFFFE then 1 else h + 1) else h

/-- The lease of LEASE seconds in µs (R112). -/
def leaseUs (lease : Nat) : Nat := (if lease = 0 then 60 else min lease 3600) * 1000000

/-- Make a result set (R110 to R112): none beyond 4,096 sets, 16 GiB or what eviction can free. -/
def createSet (nsid part first total fmt nrec lease : Nat) (bytes : List Byte) (recs : List Rec)
    (s : State) : Option (State × Nat) :=
  if 4096 ≤ (s.res.sets.filter fun r => !r.released).length ∨ 2 ^ 34 < bytes.length then none
  else
    let h := freeHandle s 4097 s.res.next
    let end_ := s.now + leaseUs lease
    match allocate 0 h part bytes.length end_ 0 s with
    | none => none
    | some s =>
      some (s.modRes fun r =>
        { next := if h = 0xFFFE then 1 else h + 1
          sets := r.sets ++ [{ handle := h, nsid := nsid, part := part, first := first, total := total
                               bytes := bytes, fmt := fmt, nrec := nrec, recs := recs, until_ := end_, users := []
                               released := false }] }, h)

/-- A command uses a result set from its fetch until it ends (R114). -/
def useSet (handle : Nat) (key : Nat × Nat) (s : State) : State :=
  modUnit 0 handle (fun u => { u with users := u.users + 1 }) (s.modRes fun r => { r with
    sets := r.sets.map fun x => if x.handle == handle then { x with users := x.users ++ [key] } else x })

/-- A command's use of its result sets ends: a released set is freed with its last user; the end of a Result Fetch moves the age on
(R114, Table 11.3). -/
def unuseSets (fetch : Bool) (key : Nat × Nat) (s : State) : State :=
  let used := s.res.sets.filter fun x => x.users.contains key
  let s := used.foldl (fun s x =>
    modUnit 0 x.handle (fun u => { u with users := u.users - 1, age := if fetch then max u.age s.now else u.age }) s) s
  let s := s.modRes fun r => { r with
    sets := r.sets.map fun x => { x with users := x.users.filter fun k => k != key } }
  let dead := s.res.sets.filter fun x => x.released && x.users.isEmpty
  let s := s.modRes fun r => { r with sets := r.sets.filter fun x => !(x.released && x.users.isEmpty) }
  dead.foldl (fun s x => freeUnit 0 x.handle s) s

/-- Release a result set: invalid for every command fetched later, freed with its last user (R114). -/
def releaseSet (handle : Nat) (s : State) : State :=
  let s := s.modRes fun r => { r with
    sets := r.sets.map fun x => if x.handle == handle then { x with released := true } else x }
  unuseSets false (0x10000, 0x10000) s

/-- Drop the result sets that meet a test, at once (R58, R69, R72, R114). -/
def dropSets (p : ResultSet → Bool) (s : State) : State :=
  let dead := s.res.sets.filter p
  let s := s.modRes fun r => { r with sets := r.sets.filter fun x => !p x }
  dead.foldl (fun s x => freeUnit 0 x.handle s) s

end Sys2Proof.Machine
end

