-- ==== Sys2Proof/Machine/Units.lean ====
section
/-! DEFINITION. Logical units: the map and its cache, the journal, deallocation (R338 to R341, R350). -/

namespace Sys2Proof.Machine

/-- The number of the map page of a unit: 2,048 entries of one namespace (R339; the numbering is a DESIGN CHOICE, log 41). -/
def mapPage (nsid lba : Nat) : Nat := nsid * 2 ^ 28 + lba / 2048

/-- The map entry of a unit. -/
def State.entry? (s : State) (nsid lba : Nat) : Option MapE :=
  s.media.map.find? fun e => e.nsid == nsid && e.lba == lba

/-- Map pages that the floor holds, and the most that are cached, in pages of 16 KiB (R340). -/
def floorPages : Nat := 4194304
def State.ceilPages (s : State) : Nat := s.variant.mapCeilMiB * 64

/-- Whether a cached map page lies above the floor: it then has a unit of class 2. -/
def State.aboveFloor (s : State) (page : Nat) : Bool := s.resv.units.any fun u => u.cls == 2 && u.key == page

/-- The clean page in the floor with the earliest access. -/
def stalePage (s : State) : Option Nat :=
  ((s.media.pages.filter fun p => !s.media.dirty.contains p.1 && !s.aboveFloor p.1).foldl (fun (b : Option (Nat × Nat)) p => match b with
    | none => some p
    | some q => if p.2 < q.2 then some p else b) none).map (·.1)

/-- Bring a map page into the cache: into the floor, into the shared remainder, or in place of the clean page accessed
longest ago (R340). -/
def cachePage (page : Nat) (s : State) : State :=
  let add := fun (s : State) => s.modMedia fun m => { m with pages := m.pages ++ [(page, s.now)] }
  if (s.media.pages.filter fun p => !s.aboveFloor p.1).length < floorPages then add s
  else
    match (if s.media.pages.length < s.ceilPages then allocate 2 page 8 16384 s.now 0 s else none) with
    | some s => add s
    | none => match stalePage s with
      | some q => add (s.modMedia fun m => { m with pages := m.pages.filter fun p => p.1 != q })
      | none => s

/-- A lookup of a map page counts as a hit or as a miss, which reads the page (R340). -/
def lookupPage (page : Nat) (s : State) : State :=
  if s.media.pages.any fun p => p.1 == page then
    modUnit 2 page (fun u => { u with age := s.now }) (s.modMedia fun m => { m with
      pages := m.pages.map fun p => if p.1 == page then (page, s.now) else p
      mapHit := m.mapHit + 1, hitAll := m.hitAll + 1 })
  else cachePage page (s.modMedia fun m => { m with mapMiss := m.mapMiss + 1, missAll := m.missAll + 1 })

/-- The map pages of a range of units. -/
def pagesOf (nsid lba n : Nat) : List Nat :=
  if n = 0 then [] else (List.range ((lba + n - 1) / 2048 - lba / 2048 + 1)).map (· + mapPage nsid lba)

/-- Dirty map pages fill at most 8 GiB (R340). -/
def dirtyPages : Nat := 524288

/-- Changes of the map: recorded in the journal, and their pages dirty; beyond 8 GiB of dirty pages an update waits, kept by the journal
(R340, R350); see log 122 (DEDUCED). -/
def journaled (pages : List Nat) (n : Nat) (s : State) : State :=
  s.modMedia fun m =>
    let new := pages.filter fun p => !m.dirty.contains p && !m.late.contains p
    let room := dirtyPages - m.dirty.length
    { m with
      journal := m.journal + n, sinceCkpt := m.sinceCkpt + n
      dirty := m.dirty ++ new.take room, late := m.late ++ new.drop room }

/-- The bytes that a namespace holds for a unit. -/
def State.unitBytes (s : State) (nsid lba : Nat) : List Byte :=
  match s.nss.find? fun n => n.id == nsid with
  | some n => Mem.read 0 n.mem (lba * 4096) 4096
  | none => zeros 4096

/-- Keep what units hold before a change of theirs is recorded in the journal, in its order (R433). -/
def noteUndo (units : List (Nat × Nat)) (s : State) : State :=
  let new := units.zipIdx.map fun x =>
    (⟨s.media.journal + x.2, x.1.1, x.1.2, s.unitBytes x.1.1 x.1.2, s.entry? x.1.1 x.1.2⟩ : Undo)
  s.modMedia fun m => { m with undo := m.undo ++ new }

/-- Set the map entry of a unit: a write clears BAD (R341). -/
def setEntry (e : MapE) (s : State) : State :=
  journaled [mapPage e.nsid e.lba] 1 ((noteUndo [(e.nsid, e.lba)] s).modMedia fun m => { m with
    map := (m.map.filter fun x => !(x.nsid == e.nsid && x.lba == e.lba)) ++ [e] })

/-- Write Zeroes, deallocation, destruction: units read as zero and have no entry (R46, R341). -/
def dropUnits (nsid lba n : Nat) (s : State) : State :=
  let hit := sortDedup ((s.media.map.filter fun e => e.nsid == nsid && decide (lba ≤ e.lba ∧ e.lba < lba + n)).map (·.lba) ++
    (s.media.wb.filter fun u => u.nsid == nsid && decide (lba ≤ u.lba ∧ u.lba < lba + n)).map (·.lba))
  let s := noteUndo (hit.map fun l => (nsid, l)) s
  let s := modNs nsid (fun x => { x with mem := Mem.clear x.mem (lba * 4096) (n * 4096) }) s
  let s := s.modMedia fun m => { m with
    map := m.map.filter fun e => !(e.nsid == nsid && decide (lba ≤ e.lba ∧ e.lba < lba + n))
    wb := m.wb.filter fun u => !(u.nsid == nsid && decide (lba ≤ u.lba ∧ u.lba < lba + n)) }
  if hit.isEmpty then s else journaled (sortDedup (hit.map fun l => mapPage nsid l)) hit.length s

/-- The die set of a place and the number of its member there (R335). -/
def dieSetOf (v : Variant) (l : Loc) : Nat := l.ch / 32 * v.diesPerChannel + l.die

/-- Units that the host has written and units that were programmed count towards the write amplification of 24 hours (Table 12.6). -/
def countUnits (host media : Nat) (s : State) : State :=
  s.modMedia fun m => { m with
    hostW := m.hostW + host, mediaW := m.mediaW + media
    waf := (m.waf.filter fun x => decide (s.now < x.1 + 86400000000)) ++ [(s.now, host, media)] }

/-- The stripe row of a place in its superblock, counted page by page and within a page by plane (R336; see log 105, DESIGN CHOICE). -/
def rowOf (l : Loc) : Nat := l.page * 6 + l.plane

/-- Stripe rows of a superblock. -/
def Superblock.rows (b : Superblock) : Nat := (if b.slc then 768 else 3072) * 6

/-- The superblock that holds a place, if it holds or held data. -/
def State.sbOf (s : State) (l : Loc) : Option Superblock :=
  s.media.sbs.find? fun b => b.set == dieSetOf s.variant l && b.block == l.block

/-- The members of a die set whose dies have failed (R356). -/
def State.outOf (s : State) (set : Nat) : List Nat :=
  (s.media.failed.filter fun d => d.1 / 32 * s.variant.diesPerChannel + d.2 == set).map fun d => d.1 % 32

/-- The member that holds the parity of superblock `block`: member `block` mod 32 (R336), and in a die set that runs with fewer dies the
next one that works; see log 121 (DEDUCED). -/
def parityIn (out : List Nat) (block : Nat) : Nat :=
  (((List.range 32).map fun i => (block + i) % 32).find? fun k => !out.contains k).getD (block % 32)
def Superblock.parity (b : Superblock) : Nat := parityIn b.out b.block

/-- A page at a place has been programmed, `n` units of it: its superblock holds data, with the time and the temperature of its rows
(R351). -/
def noteProgram (l : Loc) (n : Nat) (s : State) : State :=
  let set := dieSetOf s.variant l
  let t := s.pwr.temps.getD 4 0
  let new := (List.range n).map fun i => (l.ch % 32, l.unit + i)
  match s.sbOf l with
  | some _ =>
    s.modMedia fun m => { m with sbs := m.sbs.map fun b =>
      if b.set == set && b.block == l.block then
        { b with lastAt := s.now, lastTemp := t, row := rowOf l, used := (if b.row = rowOf l then b.used else []) ++ new }
      else b }
  | none =>
    let b : Superblock := {
      set := set, block := l.block, slc := l.slc, progAt := s.now, temp := t, lastAt := s.now, lastTemp := t, age := 0, reads := 0
      step := 0, refresh := false, reloc := false, scrubbed := s.now, row := rowOf l, used := new
      out := s.outOf set }
    s.modMedia fun m => { m with sbs := m.sbs ++ [b] }

/-- Whether a page is good: its die has not failed, its block is not retired (R355, R356). -/
def State.goodPage (s : State) (ch die plane block : Nat) : Bool :=
  !s.media.failed.contains (ch, die) &&
  !(s.media.retired.any fun r => r.ch == ch && r.die == die && r.plane == plane && r.block == block)

/-- Superblocks of a die set that retired blocks have used up: each gives one spare block to each plane of each die (R355; see log 105,
DEDUCED). -/
def State.givenUp (s : State) (set : Nat) : Nat :=
  let mine := s.media.retired.filter fun r => r.ch / 32 * s.variant.diesPerChannel + r.die == set
  maxOf (mine.map fun r => (mine.filter fun x => x.ch == r.ch && x.plane == r.plane).length)

/-- Free superblocks of a die set (R346; see log 105, DEDUCED). -/
def State.freeSbs (s : State) (set : Nat) : Nat :=
  1820 - (s.media.sbs.filter fun b => b.set == set).length - s.givenUp set

/-- The places of a row of a superblock that can take a unit: on a data die, on a good page, not yet programmed (R336, R355, R356). -/
def State.roomIn (s : State) (b : Superblock) (row : Nat) : List Loc :=
  let per := s.variant.diesPerChannel
  (List.range 128).filterMap fun i =>
    let k := i / 4
    let ch := b.set / per * 32 + k
    if k != b.parity && s.goodPage ch (b.set % per) (row % 6) b.block && !(b.row == row && b.used.contains (k, i % 4)) then
      some ⟨ch, b.set % per, row % 6, b.block, row / 6, i % 4, b.slc⟩
    else none

/-- The next place of a superblock in row order; none when it is closed (R336). -/
def State.nextIn (s : State) (b : Superblock) : Option Loc :=
  if b.rows ≤ b.row then none
  else match s.roomIn b b.row with
    | l :: _ => some l
    | [] => if b.row + 1 < b.rows then (s.roomIn b (b.row + 1)).head? else none

/-- Whether a superblock is open: it can take units and is not to be emptied. At most 32 are open at once (R337). -/
def State.isOpen (s : State) (b : Superblock) : Bool := !b.refresh && !b.reloc && (s.nextIn b).isSome
def State.mayOpen (s : State) (set : Nat) : Bool :=
  s.freeSbs set != 0 && decide ((s.media.sbs.filter s.isOpen).length < 32)

/-- The first free superblock of a die set from block `n` on. -/
def State.firstFree (s : State) (set n : Nat) : Nat :=
  let at_ := fun i => (n + i) % 1820 + 1
  at_ (((List.range (s.media.sbs.length + 1)).find? fun i => !(s.media.sbs.any fun b => b.set == set && b.block == at_ i)).getD 0)

/-- Whether the flash-management cores run: from step 5 of a start, not in Trickle mode. -/
def State.mediaOn (s : State) : Bool := s.boot.phase == .replay || s.boot.phase == .ready

/-- Whether a unit lies in a superblock. -/
def State.inSb (s : State) (set block : Nat) (l : Loc) : Bool := dieSetOf s.variant l == set && l.block == block

/-- Valid units of a superblock: mapped units, and the four units of each map page (R346). -/
def State.validIn (s : State) (b : Superblock) : Nat :=
  (s.media.map.filter fun e => !e.bad && s.inSb b.set b.block e.loc).length +
  4 * (s.media.directory.filter fun d => s.inSb b.set b.block d.2).length

/-- Superblocks whose valid units have all gone are to be erased (R347). -/
def State.emptied (s : State) (b : Superblock) : Bool :=
  s.validIn b = 0 && (b.refresh || b.reloc || (s.nextIn b).isNone || s.media.victims.contains (b.set, b.block))

/-- The group of 128 dies of a die set: four die sets (Table 14.2; see log 102, DEDUCED). -/
def eraseGroupOf (set : Nat) : GUnit := .eraseGroup (set / 4)

/-- Groups with superblocks to erase ask for their erase pulses (class 4, 16 W), while the media work. -/
def askErases (s : State) : State :=
  if s.mediaOn && decide (s.mgmt.ps < 3) then
    (s.media.sbs.filter s.emptied).foldl (fun s b => askSurge 4 (eraseGroupOf b.set) 160 s) s
  else s

/-- A place on flash that the spec leaves to the sled (a free value, log 9), outside die set `avoid`: the next place of an open
superblock, or the first of a superblock that is opened (R336, R337). -/
def drawLoc (slc : Bool) (avoid : Option Nat) (s : State) : Loc × State :=
  let r := draw s
  let n := r.1.toNat
  let opened := s.media.sbs.filter fun b => b.slc == slc && some b.set != avoid && s.isOpen b
  let sets := (List.range s.variant.dieSets).filter fun d => some d != avoid && s.mayOpen d
  let k := n % (opened.length + sets.length)
  let fresh := fun (d : Nat) =>
    let b : Superblock := {
      set := d, block := s.firstFree d (n / 2 ^ 8), slc := slc, progAt := 0, temp := 0, lastAt := 0, lastTemp := 0, age := 0, reads := 0
      step := 0, refresh := false, reloc := false, scrubbed := 0, row := 0, used := [], out := s.outOf d }
    ((s.nextIn b).getD ⟨0, 0, 0, 1, 0, 0, slc⟩, r.2)
  match opened[k]? with
  | some b => ((s.nextIn b).getD ⟨0, 0, 0, 1, 0, 0, slc⟩, r.2)
  | none => fresh (sets.getD (k - opened.length) 0)

end Sys2Proof.Machine
end

