-- ==== Sys2Proof/Machine/Query.lean ====
section
/-! DEFINITION. The checks of a query command (R77 to R98, R118, R119): its dwords, its parameter structure, the objects
it names; and the views of its stages that the jobs use. -/

namespace Sys2Proof.Machine

/-- Units of a namespace that were lost (R352). -/
def State.lost (s : State) (nsid : Nat) : List Nat :=
  (s.media.map.filter fun e => e.bad && e.nsid == nsid).map (·.lba)

/-- The contents of a namespace. -/
def State.nsMem (s : State) (nsid : Nat) : Mem :=
  match s.nss.find? (fun n => n.id == nsid) with
  | some n => n.mem
  | none => []

/-- The size of a namespace in frames. -/
def State.nsFrames (s : State) (nsid : Nat) : Nat :=
  match s.nss.find? (fun n => n.id == nsid) with
  | some n => n.size / 16
  | none => 0

/-- The indexes of a namespace. -/
def State.idxOf (s : State) (nsid : Nat) : List Index := s.idx.filter fun i => i.nsid == nsid

/-- The valid collections of a namespace: R126, and no overlap with an index extent (R152). -/
def State.colls (s : State) (nsid : Nat) : List Coll :=
  (collections (s.nsMem nsid) (s.lost nsid) (s.nsFrames nsid)).filter fun c =>
    (s.idxOf nsid).all fun i => !overlap c.first c.nframes i.first i.nframes

/-- A valid collection by its identifier. -/
def State.coll? (s : State) (nsid id : Nat) : Option Coll := (s.colls nsid).find? fun c => c.id == id

/-- A frame of a namespace as a job reads it. -/
def State.frame (s : State) (nsid no : Nat) : Frame := frameAt (s.nsMem nsid) (s.lost nsid) no

/-- Whether an index exists for commands: it has been created, and is not being dropped (R161, R164). -/
def Index.here (i : Index) : Bool := i.dropping.isNone && (match i.work with | .training _ _ => false | _ => true)

/-- An index by its identifier as a job that names it uses it: a Drop that waits for the job has not removed it (R164). -/
def State.held? (s : State) (nsid id : Nat) : Option Index :=
  s.idx.find? fun i => i.nsid == nsid && i.id == id && (match i.work with | .training _ _ => false | _ => true)

/-- An index of a namespace by its identifier. -/
def State.index? (s : State) (nsid id : Nat) : Option Index :=
  s.idx.find? fun i => i.nsid == nsid && i.id == id && i.here

/-- Change an index. -/
def modIndex (nsid id : Nat) (f : Index → Index) (s : State) : State :=
  s.modIdx (·.map fun i => if i.nsid == nsid && i.id == id then f i else i)

/-- An object of the model store. -/
def State.stored? (s : State) (id : Nat) : Option Stored := s.store.objs.find? fun o => o.id == id

/-- The direction of a command, bits 1:0 of its opcode (R77). -/
def dirOf (opc : Nat) : Nat := opc % 4

/-- The query commands (Table 3.1): those with a parameter structure, and those that run as jobs. -/
def hasParams (opc : Nat) : Bool := [0x82, 0x87, 0x8A, 0x8F, 0x93, 0x95, 0xA7, 0xB2].contains opc
def isJobOpc (opc : Nat) : Bool := [0x82, 0x87, 0x8A, 0x8F, 0x93, 0x95, 0xA0, 0xA7, 0xB2].contains opc
def isQuery (opc : Nat) : Bool := hasParams opc || [0x99, 0x9C, 0xA0, 0xAA, 0xAC].contains opc

/-- Fields of the command dwords (Tables 3.2 and 3.3). -/
def plenOf (c : Cmd) : Nat := bits c.cdw10.toNat 31 16
def dlOf (c : Cmd) : Bool := bit c.cdw10.toNat 11
def partokOf (c : Cmd) : Bool := bit c.cdw10.toNat 10
def poistrictOf (c : Cmd) : Bool := bit c.cdw10.toNat 9
def rsoOf (c : Cmd) : Bool := bit c.cdw10.toNat 8
def jqOf (c : Cmd) : Nat := bits c.cdw10.toNat 7 4
def partOf (c : Cmd) : Nat := bits c.cdw10.toNat 2 0
def inlenOf (c : Cmd) : Nat := c.cdw11.toNat
def outlenOf (c : Cmd) : Nat := c.cdw12.toNat
def leaseOf (c : Cmd) : Nat := bits c.cdw13.toNat 15 0
def outoffOf (c : Cmd) : Nat := roundUp (inlenOf c) 4096
def psdtOf (c : Cmd) : Nat := bits c.flags.toNat 7 6

/-- The required buffer length (R81). -/
def requiredLen (c : Cmd) : Nat := if outlenOf c = 0 then inlenOf c else outoffOf c + outlenOf c * 4096

/-- The first failing check of a list: each is a condition and what it answers when it fails. -/
def firstBad {α : Type} : List (Bool × α) → Option α
  | [] => none
  | (ok, x) :: l => if ok then firstBad l else some x

/-- How a check fails: at a dword, at a byte of the parameter structure, or with another status. -/
inductive Bad where
  | dword (n : Nat)
  | param (off : Nat)
  | status (st : Status)
  deriving DecidableEq, Repr

/-- Complete a command that failed a check (R84). -/
def failWith (b : Bad) (c : Cmd) (s : State) : State :=
  match b with
  | .dword n => badDword n c s
  | .param off => badParam off c s
  | .status st => done c st s

/-- Step 3 of Table 3.23: the command dwords, the direction and the buffer length (R78 to R81, R98); see log 56 (DEDUCED);
see log 75 (DEDUCED); see log 76 (DEDUCED). -/
def checkDwords (opc : Nat) (c : Cmd) (s : State) : Option Bad :=
  let d := dirOf opc
  let w10 := c.cdw10.toNat
  let params := hasParams opc
  let job := isJobOpc opc
  firstBad [
    (bits c.flags.toNat 5 0 == 0 && decide (psdtOf c < 2), .dword 0),
    (c.nsid != 0xFFFFFFFF, .dword 1),
    ((s.ns? c.nsid).isSome, .status .invalidNamespace),
    (c.cdw2 == 0, .dword 2),
    (c.cdw3 == 0, .dword 3),
    (plenOf c == 0 || c.pptr.toNat % 8 == 0, .dword 4),
    (bits w10 15 12 == 0 && !bit w10 3 && decide (plenOf c ≤ 16384) && (plenOf c != 0) == params &&
      (job || bits w10 7 4 == 0 && bits w10 2 0 == 0 && !dlOf c) &&
      (decide (2 ≤ d) || !rsoOf c), .dword 10),
    (if d == 0 || d == 2 then inlenOf c == 0 else decide (inlenOf c ≤ 2 ^ 26) && (d != 1 || inlenOf c != 0),
      .dword 11),
    (if d < 2 then outlenOf c == 0
      else decide (outlenOf c ≤ 262144) && (rsoOf c != (outlenOf c != 0)), .dword 12),
    (opc != 0xAA || decide (1 ≤ outlenOf c ∧ outlenOf c ≤ 512) && !rsoOf c, .dword 12),
    (opc != 0x99 || inlenOf c % 8 == 0 && decide (inlenOf c / 8 ≤ 1048576), .dword 11),
    (!(params || opc == 0xAA || opc == 0xAC) || bits c.cdw13.toNat 31 16 == 0, .dword 13),
    (opc == 0xA0 || opc == 0xAA || job && dlOf c || c.cdw14 == 0, .dword 14),
    (opc == 0xA0 || opc == 0xA7 || c.cdw15 == 0, .dword 15),
    (d == 0 || psdtOf c == 0 || decide (requiredLen c ≤ c.bufLen), .status .sglLength)]

/-- The descriptor length of a stage (R88 to R97); 0 for a stage that no descriptor may carry. -/
def stageLen (sopc : Nat) : Nat :=
  if sopc == 0x82 then 64
  else if sopc == 0x8A || sopc == 0x87 || sopc == 0x95 || sopc == 0xA7 then 32
  else if sopc == 0x8F || sopc == 0x93 || sopc == 0xB2 then 48
  else 0

/-- Whether a stage may follow another (Table 3.6). -/
def mayFollow (prev next : Nat) : Bool :=
  if prev == 0x82 then [0x8A, 0x87, 0x95, 0xA7].contains next
  else if prev == 0x8A then [0x87, 0x95, 0xA7].contains next
  else if prev == 0x87 then [0x8A, 0x95, 0xA7].contains next
  else if prev == 0xA7 then [0x8A, 0x87, 0x95, 0xA7].contains next
  else false

/-- The sources a first stage accepts (Table 3.6). -/
def firstSrc (sopc src : Nat) : Bool :=
  if sopc == 0x82 || sopc == 0x8A then src == 1 || src == 2
  else if sopc == 0x87 || sopc == 0xA7 then src == 1 || src == 2 || src == 3
  else if sopc == 0x95 || sopc == 0x8F then src == 3
  else if sopc == 0x93 then src == 1
  else src == 0

/-- A stage descriptor: its offset and its header (Table 3.5). -/
structure StageD where
  off : Nat
  sopc : Nat
  src : Nat
  handle : Nat
  objid : Nat
  deriving DecidableEq, Repr

/-- The descriptor at an offset. -/
def stageAt (p : List Byte) (off : Nat) : StageD :=
  ⟨off, field p off 1, field p (off + 4) 1, field p (off + 6) 2, field p (off + 8) 4⟩

/-- The descriptors of a structure, from an offset, `n` of them. -/
def stagesFrom (p : List Byte) : Nat → Nat → List StageD
  | 0, _ => []
  | n + 1, off =>
    let d := stageAt p off
    d :: stagesFrom p n (off + stageLen d.sopc)

/-- The stages of a command. -/
def stagesOf (c : Cmd) : List StageD := stagesFrom c.params (field c.params 1 1) 16

/-- Where the descriptors end. -/
def stagesEnd (l : List StageD) : Nat := 16 + sumOf (l.map fun d => stageLen d.sopc)

/-- A field of a stage body. -/
def StageD.num (d : StageD) (p : List Byte) (off n : Nat) : Nat := field p (d.off + off) n

/-- The inline areas that a stage names: offset and length fields (R83). -/
def areaOf (p : List Byte) (d : StageD) : Option (Nat × Nat × Nat) :=
  let mk (o : Nat) : Option (Nat × Nat × Nat) :=
    if d.num p o 4 == 0 then none else some (d.num p o 4, d.num p (o + 4) 4, d.off + o)
  if d.sopc == 0x82 then mk 0x10 else if d.sopc == 0x8F then mk 0x24 else if d.sopc == 0xA7 then mk 0x18 else none

/-- The predicate list of a Scan or the filter of a Search. -/
def listOf (p : List Byte) (d : StageD) : List Byte :=
  match areaOf p d with
  | some a => (p.drop a.1).take a.2.1
  | none => []

/-- The ranges of Table 6.1 that need no index, for the fields at K, NPROBE, BEAM, CQ, RERANK of a descriptor. -/
def searchRanges (p : List Byte) (d : StageD) : List (Bool × Nat) :=
  let k := d.num p 0x18 2
  let beam := d.num p 0x1C 2
  let cq := d.num p 0x1E 2
  let rr := d.num p 0x20 2
  [(decide (1 ≤ k ∧ k ≤ 1024), d.off + 0x18),
   (decide (1 ≤ d.num p 0x1A 2 ∧ d.num p 0x1A 2 ≤ 1024), d.off + 0x1A),
   (decide (1 ≤ beam ∧ beam ≤ 16 ∧ beam ≤ cq), d.off + 0x1C),
   (decide (16 ≤ cq ∧ cq ≤ 4096), d.off + 0x1E),
   (rr == 0 || decide (k ≤ rr ∧ rr ≤ 16384), d.off + 0x20)]

/-- A schema field number: 0 to 63, or FFFFh where the previous stage produces a vector or code. -/
def fieldNo (n : Nat) (ffff : Bool) : Bool := decide (n < 64) || n == 0xFFFF && ffff

/-- The body of a stage, in ascending byte order (R88 to R97). `prev` is the stage before it; see log 58 (DEDUCED). -/
def checkBody (p : List Byte) (prev : Option StageD) (d : StageD) : List (Bool × Nat) :=
  let b := d.off
  let inOk := fieldNo (d.num p 0x14 2) (prev.isSome || d.src == 3) && (d.src != 3 || d.num p 0x14 2 == 0xFFFF)
  if d.sopc == 0x82 then
    [(d.num p 0x10 4 == 0 || d.num p 0x18 4 == 0, b + 0x18),
     (decide (d.num p 0x1C 1 ≤ 2), b + 0x1C), (zeroAt p (b + 0x1D) 3, b + 0x1D)]
  else if d.sopc == 0x8A then
    [(inOk, b + 0x14), (decide (d.num p 0x16 1 ≤ 15), b + 0x16),
     (bits (d.num p 0x17 1) 7 4 == 0 && bits (d.num p 0x17 1) 3 2 != 3, b + 0x17), (zeroAt p (b + 0x1C) 4, b + 0x1C)]
  else if d.sopc == 0x87 then
    let fl := d.num p 0x17 1
    let dims := d.num p 0x18 2
    [(inOk, b + 0x14), (decide (d.num p 0x16 1 ≤ 3), b + 0x16),
     (bits fl 7 4 == 0 && !bit fl 1 && bits fl 3 2 != 3, b + 0x17),
     (d.num p 0x16 1 != 3 || dims == 0 || dims % 64 == 0 && decide (dims ≤ 2048), b + 0x18),
     (zeroAt p (b + 0x1A) 6, b + 0x1A)]
  else if d.sopc == 0x8F then
    [(d.num p 0x22 1 != 1 || d.num p 0x10 4 == 0, b + 0x10),
     (decide (1 ≤ d.num p 0x14 4 ∧ d.num p 0x14 4 ≤ 4096), b + 0x14)] ++ searchRanges p d ++
    [(decide (d.num p 0x22 1 ≤ 1), b + 0x22), (zeroAt p (b + 0x23) 1, b + 0x23),
     (d.num p 0x24 4 != 0 || d.num p 0x28 4 == 0, b + 0x28), (zeroAt p (b + 0x2C) 4, b + 0x2C)]
  else if d.sopc == 0x93 then
    [(decide (d.num p 0x10 2 < 64), b + 0x10), (d.num p 0x14 4 == 0 || decide (d.num p 0x18 2 < 64), b + 0x18),
     (decide (d.num p 0x1A 1 ≤ 1), b + 0x1A),
     (decide (d.num p 0x1B 1 ≤ 1), b + 0x1B), (zeroAt p (b + 0x1C) 4, b + 0x1C), (zeroAt p (b + 0x28) 8, b + 0x28)]
  else if d.sopc == 0x95 then
    let n := d.num p 0x10 4
    let codePrev := match prev with
      | some e => e.sopc == 0x87 && e.num p 0x16 1 == 3
      | none => false
    [(if d.src == 3 then decide (1 ≤ n ∧ n ≤ 1048576) else n == 0, b + 0x10),
     (if d.src == 3 then d.num p 0x14 2 == 0xFFFF else fieldNo (d.num p 0x14 2) codePrev, b + 0x14),
     (decide (d.num p 0x16 1 ≤ 1), b + 0x16), (zeroAt p (b + 0x17) 9, b + 0x17)]
  else if d.sopc == 0xA7 then
    let fl := d.num p 0x14 1
    [(fl % 4 == 0 && bits fl 7 4 == 0 && bits fl 3 2 != 3, b + 0x14), (zeroAt p (b + 0x15) 3, b + 0x15),
     (decide (d.num p 0x1C 4 ≤ 256) && (d.num p 0x18 4 != 0 || d.num p 0x1C 4 == 0), b + 0x1C)]
  else
    [(decide (1 ≤ d.num p 0x14 4 ∧ d.num p 0x14 4 ≤ 10000), b + 0x14)] ++ searchRanges p d ++
    [(zeroAt p (b + 0x22) 2, b + 0x22), (zeroAt p (b + 0x28) 8, b + 0x28)]

/-- The header of a stage descriptor, in ascending byte order (R83, R85, R86). -/
def checkHead (opc : Nat) (p : List Byte) (prev : Option StageD) (hostText : Bool) (d : StageD) :
    List (Bool × Nat) :=
  let b := d.off
  let needsObj := d.src == 1 || [0x82, 0x93, 0x8F, 0x95, 0xB2].contains d.sopc
  [((match prev with
      | none => d.sopc == opc
      | some e => mayFollow e.sopc d.sopc && !(d.sopc == 0x95 && hostText)), b),
   (zeroAt p (b + 1) 1, b + 1),
   (stageLen d.sopc != 0 && field p (b + 2) 2 == stageLen d.sopc, b + 2),
   (if prev.isSome then d.src == 0 else firstSrc d.sopc d.src && (d.src != 3 || dirOf opc % 2 == 1), b + 4),
   (zeroAt p (b + 5) 1, b + 5),
   (d.src == 2 || d.handle == 0, b + 6),
   (needsObj || d.objid == 0, b + 8),
   (zeroAt p (b + 0xC) 4, b + 0xC)]

/-- The check of the inline area that a stage names: after the last descriptor, within TOTAL, apart from the areas named before it
(R83). -/
def areaCheck (p : List Byte) (ds : List StageD) (d : StageD) : List (Bool × Nat) :=
  match areaOf p d with
  | none => []
  | some a =>
    [(decide (stagesEnd ds ≤ a.1 ∧ a.1 + a.2.1 ≤ p.length) && ds.all fun e => match areaOf p e with
        | some b => !(decide (b.2.2 < a.2.2) && overlap a.1 a.2.1 b.1 b.2.1)
        | none => true, a.2.2)]

/-- The first failure in the stages, in ascending byte order (R84); each stage comes with the one before it, `all` are the stages
of the command. -/
def checkStages (opc : Nat) (p : List Byte) (hostText : Bool) (all : List StageD) : Option StageD → List StageD → Option Nat
  | _, [] => none
  | prev, d :: ds =>
    match firstBad (sortBy (·.2) (checkHead opc p prev hostText d ++ checkBody p prev d ++ areaCheck p all d)) with
    | some off => some off
    | none => checkStages opc p hostText all (some d) ds

/-- The first offence in a predicate list at offset `base` whose length field lies at `lenAt`, offsets in the
parameter structure (R135, R137). -/
def checkList (fs : Option (List FieldD)) (filter : Bool) (l : List Byte) (base lenAt : Nat) : Option Nat :=
  let n := field l 1 1
  if l.length < 8 ∨ l.length < 8 + 16 * n then some lenAt
  else match firstBad [(field l 0 1 == 1, base), (decide (1 ≤ n ∧ n ≤ 64), base + 1), (zeroAt l 2 6, base + 2)] with
    | some off => some off
    | none => (badTerm fs filter l.length n 0 0 (termsOf l)).map (base + ·)

/-- The predicate lists, in ascending offset (R137, R185). `schema` is the schema of a Scan where it is known. -/
def checkLists (p : List Byte) (ds : List StageD) (schema : Option (List FieldD)) : Option Nat :=
  let lists := ds.filter fun d => (d.sopc == 0x82 || d.sopc == 0x8F) && (areaOf p d).isSome
  (sortBy (fun d => match areaOf p d with | some a => a.1 | none => 0) lists).findSome? fun d =>
    match areaOf p d with
    | some a => checkList (if d.sopc == 0x82 then schema else none) (d.sopc == 0x8F) (listOf p d) a.1 (a.2.2 + 4)
    | none => none

/-- The schema that reaches a stage: that of the collection from which the chain's records come; records of a
result set or of host input have none. -/
def chainSchema (s : State) (c : Cmd) (ds : List StageD) : Option (List FieldD) :=
  match ds.head? with
  | some d => if d.src == 1 || d.sopc == 0x82 then (s.coll? c.nsid d.objid).map (·.fields) else none
  | none => none

/-- Step 4 of Table 3.23: the parameter structure in ascending byte order (R82 to R97). A list that fails here is reported at its first
offending term, fields and types included (R137); see log 74 (DEDUCED). -/
def checkParams (opc : Nat) (c : Cmd) (s : State) : Option Bad :=
  let p := c.params
  let n := field p 1 1
  let single := opc == 0x8F || opc == 0x93 || opc == 0xB2
  let ds := stagesOf c
  match firstBad [
      (field p 0 1 == 1, 0), (decide (1 ≤ n ∧ n ≤ 8) && (!single || n == 1), 1), (zeroAt p 2 2, 2),
      (field p 4 4 == plenOf c * 4 && p.length == plenOf c * 4 && decide (stagesEnd ds ≤ p.length) &&
        ds.all fun d => decide (d.off + 16 ≤ p.length), 4), (zeroAt p 8 8, 8)] with
  | some off => some (.param off)
  | none =>
    let hostText := match ds.head? with | some d => d.sopc == 0x87 && d.src == 3 | none => false
    match checkStages opc p hostText ds none ds with
    | some off => some (.param off)
    | none => (checkLists p ds none).map fun off => .param ((checkLists p ds (chainSchema s c ds)).getD off)

/-- Fields of a model package header (Table 10.3) and of an image header (Table 8.18). -/
def pkgKind (o : Stored) : Nat := field o.bytes 5 1
def pkgNout (o : Stored) : Nat := field o.bytes 7 1
def pkgDim (o : Stored) : Nat := field o.bytes 8 2
def imgKind (b : List Byte) : Nat := field b 5 1
def imgRemote (b : List Byte) : Bool := bit (field b 7 1) 0

/-- Whether a stored object is a model of a kind; a program of a kind. -/
def isModel (o : Option Stored) (kind : Nat) : Bool := match o with | some x => x.model && pkgKind x == kind | none => false
def isProgram (o : Option Stored) (kind : Nat) : Bool :=
  match o with | some x => !x.model && imgKind x.bytes == kind | none => false

/-- Whether the input field of a model stage is text or tokens of the schema. -/
def inputField (schema : Option (List FieldD)) (n : Nat) : Bool :=
  n == 0xFFFF || (match schema with
    | some fs => match fs[n]? with | some d => d.isText || d.isTok || d.isVec || d.isCode | none => false
    | none => true)

/-- The dimensions an Embed stage delivers. -/
def embedDims (s : State) (p : List Byte) (d : StageD) : Nat :=
  if d.num p 0x18 2 != 0 then d.num p 0x18 2
  else match s.stored? (d.num p 0x10 4) with | some o => pkgDim o | none => 0

/-- The group entry that a command with SCOPE 1 uses (R380): it matches NSID, kind and OBJID and has the sled as a member. -/
def State.groupOf (s : State) (nsid kind objid : Nat) : Option ObjGroup :=
  (s.cfg.conf.groups.filterMap id).find? fun g =>
    g.nsid == nsid && g.kind == kind && g.objid == objid && bit g.members s.cfg.conf.devnum

/-- The devices of a bitmap of members, ascending. -/
def membersOf (bitmap : Nat) : List Nat := (List.range 16384).filter (bit bitmap)

/-- The command dwords that depend on a stage's object: INLEN of a Search, an Index Insert and a Near Join, and CDW15 of a Job Run. They
are checked as soon as the object is known to exist, before the fields that depend on it (R84, R119); see log 74 (DEDUCED). -/
def stageDwords (s : State) (c : Cmd) (d : StageD) : List (Bool × Bad) :=
  let p := c.params
  let fits := fun (want : Index → Nat) => match s.index? c.nsid d.objid with
    | some i => inlenOf c == want i
    | none => true
  if d.sopc == 0x8F then [(fits fun i => d.num p 0x14 4 * i.codeBytes, .dword 11)]
  else if d.sopc == 0x95 && d.src == 3 then [(fits fun i => d.num p 0x10 4 * (8 + i.codeBytes), .dword 11)]
  else if d.sopc == 0x93 then
    let collB := d.num p 0x14 4
    let f := (s.coll? c.nsid (if collB == 0 then d.objid else collB)).bind fun k =>
      k.fields[if collB == 0 then d.num p 0x10 2 else d.num p 0x18 2]?
    [(if d.num p 0x1B 1 == 1 then (match f with
        | some x => !x.isCode || inlenOf c % (x.len / 8) == 0
        | none => true) else inlenOf c == 0, .dword 11)]
  else if d.sopc == 0xA7 then
    [((match s.stored? (d.num p 0x10 4) with
      | some x => x.model || imgRemote x.bytes == (c.cdw15 != 0) | none => true), .dword 15)]
  else []

/-- Step 5 of Table 3.23 for one stage: named objects and what depends on them (R118, R139, R140, R141, R178, R196). -/
def checkStageObj (s : State) (c : Cmd) (schema : Option (List FieldD)) (prev : Option StageD) (d : StageD) :
    Option Bad :=
  let p := c.params
  let b := d.off
  let coll := s.coll? c.nsid d.objid
  let ix := s.index? c.nsid d.objid
  let setOk := d.src != 2 || (match s.resultSet? c.nsid d.handle with
    | some r => d.sopc != 0x82 || r.fmt == 2
    | none => false)
  let collOk := !(d.src == 1 || d.sopc == 0x82 || d.sopc == 0x93 && (d.num p 0x1B 1 == 0 || d.num p 0x14 4 == 0)) ||
    coll.isSome
  firstBad ([(setOk, Bad.param (b + 6)), (collOk, Bad.param (b + 8))] ++
    (if d.sopc == 0x82 then
      let first := d.num p 0x28 8
      [(d.num p 0x18 4 == 0 || isProgram (s.stored? (d.num p 0x18 4)) 1, Bad.param (b + 0x18)),
       (d.num p 0x1C 1 != 0 || (match coll with
          | some k => decide (d.num p 0x20 8 < 2 ^ k.fields.length) | none => true), Bad.param (b + 0x20)),
       (first == 0 || (match coll with
          | some k => decide (k.first ≤ first ∧ first < k.first + k.nframes) | none => true), Bad.param (b + 0x28))]
    else if d.sopc == 0x8A then
      let o := s.stored? (d.num p 0x10 4)
      [(isModel o 1, Bad.param (b + 0x10)), (inputField schema (d.num p 0x14 2), Bad.param (b + 0x14)),
       ((match o with | some x => decide (d.num p 0x16 1 < pkgNout x) | none => false), Bad.param (b + 0x16))]
    else if d.sopc == 0x87 then
      let o := s.stored? (d.num p 0x10 4)
      [(isModel o 0, Bad.param (b + 0x10)), (inputField schema (d.num p 0x14 2), Bad.param (b + 0x14)),
       ((match o with | some x => decide (d.num p 0x18 2 ≤ pkgDim x) | none => false), Bad.param (b + 0x18))]
    else if d.sopc == 0xA7 then
      let o := s.stored? (d.num p 0x10 4)
      [(isProgram o 0, Bad.param (b + 0x10))]
    else if d.sopc == 0x8F then
      match ix with
      | none => [(false, Bad.param (b + 8))]
      | some i =>
        [(decide (d.num p 0x1A 2 ≤ i.nplots), Bad.param (b + 0x1A)),
         (i.product || d.num p 0x20 2 == 0, Bad.param (b + 0x20)),
         (d.num p 0x22 1 != 1 || (s.groupOf c.nsid 0 d.objid).isSome, Bad.param (b + 0x22))]
    else if d.sopc == 0xB2 then
      match ix with
      | none => [(false, Bad.param (b + 8))]
      | some i =>
        [(decide (d.num p 0x1A 2 ≤ i.nplots), Bad.param (b + 0x1A)),
         (i.product || d.num p 0x20 2 == 0, Bad.param (b + 0x20))]
    else if d.sopc == 0x95 then
      match ix with
      | none => [(false, Bad.param (b + 8))]
      | some i =>
        let n := d.num p 0x14 2
        [(d.src == 3 || (if n == 0xFFFF then (match prev with
              | some e => embedDims s p e == i.codeBits | none => false)
            else (match schema with
              | some fs => match fs[n]? with | some f => f.isCode && f.len == i.codeBits | none => false
              | none => false)), Bad.param (b + 0x14))]
    else
      let probe := d.num p 0x1B 1 == 1
      let collB := d.num p 0x14 4
      let kb := s.coll? c.nsid collB
      let fa := coll.bind fun k => k.fields[d.num p 0x10 2]?
      let fb := kb.bind fun k => k.fields[d.num p 0x18 2]?
      let useA := !probe || collB == 0
      let code := fun (f : Option FieldD) => match f with | some x => x.isCode | none => false
      let len := if useA then (match fa with | some x => x.len | none => 0)
        else (match fb with | some x => x.len | none => 0)
      [(!useA || code fa, Bad.param (b + 0x10)),
       (decide (d.num p 0x12 2 + 1 ≤ len / 16) || !(if useA then code fa else code fb), Bad.param (b + 0x12)),
       (collB == 0 || kb.isSome, Bad.param (b + 0x14)),
       (collB == 0 || code fb && (!useA || (match fb with | some x => x.len == len | none => false)),
         Bad.param (b + 0x18)),
       (d.num p 0x1A 1 != 1 || (s.groupOf c.nsid 1 d.objid).isSome, Bad.param (b + 0x1A))]))

/-- Step 5 for the stages in order. -/
def checkStageObjs (s : State) (c : Cmd) (schema : Option (List FieldD)) : Option StageD → List StageD → Option Bad
  | _, [] => none
  | prev, d :: ds =>
    match checkStageObj s c schema prev d with
    | some b => some b
    | none => checkStageObjs s c schema (some d) ds

/-- The entries of host input text (R134): none when their lengths do not add up to INLEN or a reserved byte is set. -/
def hostEntries : Nat → List Byte → Option (List (Nat × List Byte))
  | 0, l => if l.isEmpty then some [] else none
  | fuel + 1, l =>
    if l.isEmpty then some []
    else
      let n := field l 0 4
      let k := field l 4 1
      let len := 8 + roundUp n 8
      if l.length < len ∨ 2 < k ∨ !zeroAt l 5 3 then none
      else match hostEntries fuel (l.drop len) with
        | some es => some ((k, (l.drop 8).take n) :: es)
        | none => none

/-- The input bytes of a command. -/
def inputOf (c : Cmd) : List Byte := slice c.data 0 (inlenOf c)

/-- The number of a command's SCOPE 1 stage, or whether it names a REMOTE image (R296, R298). -/
def scopeOne (c : Cmd) : Bool :=
  (stagesOf c).any fun d => (d.sopc == 0x8F && d.num c.params 0x22 1 == 1) ||
    (d.sopc == 0x93 && d.num c.params 0x1A 1 == 1)
def usesRemote (s : State) (c : Cmd) : Bool :=
  (stagesOf c).any fun d => d.sopc == 0xA7 && (match s.stored? (d.num c.params 0x10 4) with
    | some o => imgRemote o.bytes | none => false)

/-- Step 5 of Table 3.23 for a command: partition and queue, host input, the deadline rule of R296 and the command dwords that depend on
the objects of its stages; then these objects, and the predicate list of a Scan against the schema (R84, R119; log 74). -/
def checkObjects (opc : Nat) (c : Cmd) (s : State) : Option Bad :=
  let ds := if hasParams opc then stagesOf c else []
  let schema := chainSchema s c ds
  let pj := firstBad [
    (!isJobOpc opc || s.present (partOf c) &&
      (s.cfg.conf.queues.getD (16 * partOf c + jqOf c) (false, 0)).1, Bad.dword 10),
    (!(hasParams opc && dlOf c && (scopeOne c || usesRemote s c)), Bad.dword 10),
    ((match ds.head? with
      | some d => d.src != 3 || !(d.sopc == 0x87 || d.sopc == 0xA7) || (hostEntries (inlenOf c) (inputOf c)).isSome
      | none => true), Bad.dword 11)] <|> firstBad (ds.flatMap (stageDwords s c))
  match pj with
  | some b => some b
  | none => match checkStageObjs s c schema none ds with
    | some b => some b
    | none => (checkLists c.params ds schema).map .param

/-- Steps 3 to 5 of Table 3.23 at fetch (R119). Media in the read-only state takes no index command (R359): checked after order 5, a place
that the table does not give; see log 116 (DESIGN CHOICE). -/
def checkQuery (opc : Nat) (c : Cmd) (s : State) : Option Bad :=
  match checkDwords opc c s with
  | some b => some b
  | none =>
    match if hasParams opc then checkParams opc c s else none with
    | some b => some b
    | none => match checkObjects opc c s with
      | some b => some b
      | none =>
        let writes := [0x95, 0x99, 0x9C, 0xA0].contains opc || (stagesOf c).any fun d => hasParams opc && d.sopc == 0x95
        if writes && s.media.readOnly then some (.status .writeProtected) else none

end Sys2Proof.Machine
end

