-- ==== Sys2Proof/Machine/IndexLayout.lean ====
section
/-! DEFINITION. The on-media layout of an index extent, as a Read returns it (R152 to R157). -/

namespace Sys2Proof.Machine

/-- Bytes `off` to `off + n` of an index extent's region that holds `b`; zero beyond. -/
def regionSlice (b : List Byte) (f : Nat) : List Byte := slice b (65536 * f) 65536

/-- The header frame (Table 5.3). -/
def Index.header (ix : Index) : List Byte :=
  let offs := (List.range 8).flatMap fun i => leBytes 8 (ix.regionOff (i + 1))
  let b := leBytes 4 0x57444D4B ++ leBytes 1 1 ++ leBytes 1 (b2n ix.product) ++ leBytes 2 ix.codeBits ++ leBytes 4 ix.id ++
    leBytes 1 ix.deg ++ leBytes 1 ix.alpha16 ++ leBytes 2 ix.buildcq ++ leBytes 8 ix.first ++ leBytes 8 ix.nframes ++
    leBytes 8 ix.maxItems ++ leBytes 4 ix.nplots ++ leBytes 2 ix.nodeSz ++ leBytes 2 ix.npp ++ leBytes 4 ix.epoch ++
    leBytes 1 ix.retain ++ leBytes 1 ix.part ++ zeros 10 ++ offs ++ leBytes 8 ix.live ++ leBytes 8 ix.tombs ++
    leBytes 8 ix.nPendIns ++ leBytes 8 ix.nPendDel ++ leBytes 8 ix.stale ++ leBytes 8 ix.rejDup ++ leBytes 8 ix.rejPois ++
    leBytes 8 ix.rejFull ++ leBytes 8 ix.rejPend ++ leBytes 8 ix.reclaimed ++ leBytes 8 ix.sweeps
  let b := slice b 0 65532
  b ++ leBytes 4 (crc32c (b ++ zeros 4))

/-- A slot number or page number, FFFF_FFFFh for none. -/
def orNone (o : Option Nat) : List Byte := leBytes 4 (o.getD 0xFFFFFFFF)

/-- A plot entry (Table 5.4). NPGCH and RPGCH of a plot without pages read FFFF_FFFFh, as ENTRY does; see log 117 (DESIGN CHOICE). -/
def plotEntry (p : Plot) : List Byte :=
  let unused := p.nodes.filter fun n => !n.used
  leBytes 4 p.nodes.length ++ leBytes 4 p.live ++ leBytes 4 p.tombs ++ orNone p.entry ++
    leBytes 4 (unused.filter fun n => !n.retired).length ++ leBytes 4 (unused.filter (·.retired)).length ++
    orNone p.nchunks.head? ++ orNone p.rchunks.head? ++ leBytes 4 p.npages.length ++ leBytes 4 p.rpages.length ++
    leBytes 4 p.chEpoch ++ zeros 20

/-- A page-list chunk of a chain: its pages, and the next chunk. Places without a page are zero (DESIGN CHOICE, log 44). -/
def chunkOf (chunks pages : List Nat) (i : Nat) : List Byte :=
  slice (((pages.drop (1023 * i)).take 1023).flatMap (leBytes 4)) 0 4092 ++ orNone chunks[i + 1]?

/-- Page-list chunk `c` of the chunk area. -/
def Index.chunk (ix : Index) (c : Nat) : List Byte :=
  let own := fun (p : Plot) => match p.nchunks.idxOf? c with
    | some i => some (chunkOf p.nchunks p.npages i)
    | none => match p.rchunks.idxOf? c with
      | some i => some (chunkOf p.rchunks p.rpages i)
      | none => none
  (ix.plots.findSome? own).getD (zeros 4096)

/-- Frame `f` of the plot table. -/
def Index.plotFrame (ix : Index) (f : Nat) : List Byte :=
  let n := ceilDiv ix.nplots 1024
  if f < n then slice (((ix.plots.drop (1024 * f)).take 1024).flatMap plotEntry) 0 65536
  else (List.range 16).flatMap fun i => ix.chunk (16 * (f - n) + i)

/-- A node record (Table 5.5); an unused slot keeps its GEN. -/
def Index.nodeRec (ix : Index) (n : Node) : List Byte :=
  if !n.used then slice (zeros 16 ++ leBytes 1 n.gen) 0 ix.nodeSz
  else
    let code := if ix.product then n.code.flatMap (leBytes 1) else n.raw
    let edges := (n.edges.map fun e => leBytes 1 e.2 ++ leBytes 3 e.1) ++ List.replicate (ix.deg - n.edges.length) (leBytes 4 0xFFFFFFFF)
    slice (leBytes 8 n.item ++ leBytes 4 n.birth ++ leBytes 4 n.death ++ leBytes 1 n.gen ++ leBytes 1 (1 + 2 * b2n n.tomb) ++
      leBytes 2 n.edges.length ++ zeros 4 ++ code ++ edges.flatten) 0 ix.nodeSz

/-- Page `j` of the node pages and of the raw pages. -/
def Index.nodePage (ix : Index) (j : Nat) : List Byte :=
  let own := fun (p : Plot) => (p.npages.idxOf? j).map fun i =>
    slice (((p.nodes.drop (ix.npp * i)).take ix.npp).flatMap ix.nodeRec) 0 65536
  (ix.plots.findSome? own).getD (zeros 65536)
def Index.rawPage (ix : Index) (j : Nat) : List Byte :=
  let own := fun (p : Plot) => (p.rpages.idxOf? j).map fun i =>
    slice (((p.nodes.drop (ix.rpp * i)).take ix.rpp).flatMap fun n => if n.used then n.raw else zeros ix.codeBytes) 0 65536
  (ix.plots.findSome? own).getD (zeros 65536)

/-- Frame `f` of the directory (R157). -/
def Index.dirFrame (ix : Index) (f : Nat) : List Byte :=
  (List.range 4096).flatMap fun i => match ix.dir.find? fun d => d.pos == 4096 * f + i with
    | some d => leBytes 8 d.item ++ leBytes 2 d.plot ++ leBytes 3 d.slot ++ leBytes 1 d.st ++ zeros 2
    | none => zeros 16

/-- Frame `f` of the extent, counted from FIRST. The regions that the spec calls internal hold bytes that nothing
interprets (R152); frames beyond REQ read as zero (DESIGN CHOICE, log 44). -/
def Index.frame (ix : Index) (f : Nat) : List Byte :=
  match (List.range 9).find? fun r => decide (ix.regionOff r ≤ f ∧ f < ix.regionOff (r + 1)) with
  | none => zeros 65536
  | some r =>
    let k := f - ix.regionOff r
    match r with
    | 0 => ix.header
    | 1 => regionSlice ix.centroids.flatten k
    | 2 => regionSlice ix.codebooks.flatten.flatten k
    | 3 => ix.plotFrame k
    | 4 => ix.nodePage k
    | 5 => ix.rawPage k
    | 6 => ix.dirFrame k
    | _ => (List.range 65536).map fun i => Config.internalByte r (65536 * k + i)

/-- Whether an index still waits for its centroids: its extent holds nothing of it yet (R152, R161). -/
def Index.blank (i : Index) : Bool := (match i.work with | .training _ _ => true | _ => false) && i.next.isNone

/-- The index whose extent holds a block of a namespace. -/
def State.extentAt (s : State) (nsid lba : Nat) : Option Index :=
  (s.idxOf nsid).find? fun i => !i.blank && decide (i.first * 16 ≤ lba ∧ lba < (i.first + i.nframes) * 16)

/-- A block of a namespace as a Read returns it. -/
def State.block (s : State) (nsid lba : Nat) : List Byte :=
  match s.extentAt nsid lba with
  | some ix => slice (ix.frame (lba / 16 - ix.first)) (lba % 16 * 4096) 4096
  | none => Mem.read 0 (s.nsMem nsid) (lba * 4096) 4096

end Sys2Proof.Machine
end

