-- ==== Sys2Proof/Machine/BlockIo.lean ====
section
/-! DEFINITION. The commands of the NVM command set (R44 to R47, R152, R340, R341, R352, R359, R407). -/

namespace Sys2Proof.Machine

/-- Starting block and number of blocks of a Read, Write or Write Zeroes. -/
def slbaOf (c : Cmd) : Nat := c.cdw10.toNat + c.cdw11.toNat * 2 ^ 32
def nlbOf (c : Cmd) : Nat := c.cdw12.toNat % 65536 + 1

/-- What makes a block command fail before it acts: its data pointer, its namespace, its length (MDTS, R38), its range. -/
def blockCheck (c : Cmd) (bytes : Nat) (ranges : List (Nat × Nat)) (s : State) : Option Status :=
  match s.ns? c.nsid with
  | none => some .invalidNamespace
  | some n => firstBad [
      (decide (psdtOf c < 2) && bits c.flags.toNat 1 0 == 0 && decide (bytes ≤ 2 ^ 21), .invalidField),
      (psdtOf c == 0 || decide (bytes ≤ c.bufLen), .sglLength),
      (ranges.all fun r => decide (r.1 + r.2 ≤ n.size), .lbaOutOfRange)]

/-- Whether a range touches an index extent (R152). -/
def State.hitsExtent (s : State) (nsid lba n : Nat) : Bool :=
  (s.idxOf nsid).any fun i => overlap lba n (i.first * 16) (i.nframes * 16)

/-- Look up the map pages of a range (R340). -/
def lookupRange (nsid lba n : Nat) (s : State) : State := (pagesOf nsid lba n).foldl (fun s p => lookupPage p s) s

/-- The record of the loss of a unit, while the ring holds it (R74, R352). -/
def State.lossRecord (s : State) (lba : Nat) : Option Nat :=
  (s.ras.ring.reverse.find? fun (e : ErrRec) => e.kind == 0x10 && e.cls == 2 && e.addr == lba).map (·.slot)

/-- The blocks of a Read whose map entries have been found: a read of a lost unit fails, with the record of the loss (R352). -/
def readBlocks (c : Cmd) (a n : Nat) (s : State) : State :=
  match (s.lost c.nsid).find? fun l => decide (a ≤ l ∧ l < a + n) with
  | some l => done c .unrecoveredRead (modFlight c.sqid c.cid (fun f => { f with errRec := f.errRec.orElse fun _ => s.lossRecord l }) s)
  | none => ok c (hostData c.sqid c.cid 0 ((List.range n).flatMap fun i => s.block c.nsid (a + i)) s)

/-- Read (R46, R352). -/
def effRead (c : Cmd) (s : State) : State :=
  let a := slbaOf c
  let n := nlbOf c
  match blockCheck c (n * 4096) [(a, n)] s with
  | some st => done c st s
  | none => readBlocks c a n (lookupRange c.nsid a n s)

/-- The bytes of the allowance (R407). -/
def State.allowed (s : State) : Nat := s.cis.allow * 2 ^ 30

/-- What a unit may go back to when the write that now covers it is ended (R35). -/
def State.alternatives (s : State) (nsid lba : Nat) (whole : Bool) : List Alt :=
  ⟨s.unitBytes nsid lba, s.entry? nsid lba, s.media.writes, whole⟩ ::
    (match s.media.wb.find? fun u => u.nsid == nsid && u.lba == lba with
      | some u => u.alts
      | none => [])

/-- Write data enters the write-back buffer in place of what it held for its units; their entries no longer name a place on flash
(R337, R341). -/
def bufferUnits (c : Cmd) (a n : Nat) (posted : Bool) (s : State) : State :=
  let whole := decide (a % 16 = 0 ∧ n % 16 = 0)
  let new := (List.range n).map fun i =>
    (⟨c.nsid, a + i, s.media.writes, posted, c.sqid, c.cid, if posted then [] else s.alternatives c.nsid (a + i) whole⟩ : WbUnit)
  let s := noteUndo ((List.range n).map fun i => (c.nsid, a + i)) s
  let s := modNs c.nsid (fun x => { x with mem := Mem.write 0 x.mem (a * 4096) (slice c.data 0 (n * 4096)) }) s
  journaled (pagesOf c.nsid a n) n ((countUnits n 0 s).modMedia fun m => { m with
    map := m.map.filter fun e => !(e.nsid == c.nsid && decide (a ≤ e.lba ∧ e.lba < a + n))
    wb := (m.wb.filter fun u => !(u.nsid == c.nsid && decide (a ≤ u.lba ∧ u.lba < a + n))) ++ new
    writes := m.writes + 1 })

/-- A clean-stop record is voided by the first write accepted after it (R431). -/
def voidClean (s : State) : State := s.modBoot fun b => { b with clean := false }

/-- Write (R46, R47, R337, R407): posted at once while the allowance holds its data, else when flash has confirmed it. -/
def effWrite (c : Cmd) (s : State) : State :=
  let a := slbaOf c
  let n := nlbOf c
  match blockCheck c (n * 4096) [(a, n)] s with
  | some st => done c st s
  | none =>
    if s.media.readOnly then done c .writeProtected s
    else if s.hitsExtent c.nsid a n then done c .accessDenied s
    else
      let now := decide (s.held + n * 4096 ≤ s.allowed)
      let s := lookupRange c.nsid a n (voidClean s)
      let s := bufferUnits c a n now s
      if now then ok c s else setPhase c.sqid c.cid .executing s

/-- Write Zeroes (R46, R341). -/
def effWriteZeroes (c : Cmd) (s : State) : State :=
  let a := slbaOf c
  let n := nlbOf c
  match blockCheck c 0 [(a, n)] s with
  | some st => done c st s
  | none =>
    if s.media.readOnly then done c .writeProtected s
    else if s.hitsExtent c.nsid a n then done c .accessDenied s
    else ok c (dropUnits c.nsid a n (lookupRange c.nsid a n (voidClean s)))

/-- The ranges of a Dataset Management: first block and length. -/
def dsmRanges (c : Cmd) : List (Nat × Nat) :=
  (List.range (c.cdw10.toNat % 256 + 1)).map fun i => (field c.data (16 * i + 8) 8, field c.data (16 * i + 4) 4)

/-- Dataset Management (R46, R341): it acts only with the Deallocate attribute. -/
def effDatasetManagement (c : Cmd) (s : State) : State :=
  let l := dsmRanges c
  match blockCheck c (16 * l.length) l s with
  | some st => done c st s
  | none =>
    if !bit c.cdw11.toNat 2 then ok c s
    else if s.media.readOnly then done c .writeProtected s
    else if l.any fun r => s.hitsExtent c.nsid r.1 r.2 then done c .accessDenied s
    else ok c (l.foldl (fun s r => dropUnits c.nsid r.1 r.2 (lookupRange c.nsid r.1 r.2 s)) (voidClean s))

/-- Flush (R47): it completes as soon as it is fetched; see log 60 (DEDUCED). -/
def effFlush (c : Cmd) (s : State) : State :=
  if c.nsid != 0xFFFFFFFF && (s.ns? c.nsid).isNone then done c .invalidNamespace s else ok c s

/-- Writes whose data is all confirmed or overwritten complete; others do while the allowance holds their data (R47, R407). -/
def postWrites (s : State) : State :=
  (s.nvm.flights.filter fun f => f.opc == 0x01 && f.sqid != 0 && f.phase == .executing).foldl (fun s f =>
    let mine := s.media.wb.filter fun u => !u.posted && u.sqid == f.sqid && u.cid == f.cid
    if mine.isEmpty then complete f.sqid f.cid .success 0 0 s
    else if s.held + mine.length * 4096 ≤ s.allowed then
      complete f.sqid f.cid .success 0 0 (s.modMedia fun m => { m with
        wb := m.wb.map fun u => if u.sqid == f.sqid && u.cid == f.cid then { u with posted := true, alts := [] } else u })
    else s) s

end Sys2Proof.Machine
end

