-- ==== Sys2Proof/Machine/MediaStats.lean ====
section
/-! DEFINITION. What the media reports of itself: fill, SLC buffer, wear, spare blocks, latency, SMART critical warnings (R342, R357,
R358, R361, R410). -/

namespace Sys2Proof.Machine

/-- Spare blocks at manufacture: the good blocks beyond the exported capacity, the floors and the reserve (R358, log 26). -/
def Variant.spareInit : Variant → Nat
  | .d1024 => 1922389
  | .d512 => 961194

/-- Spare blocks now, and Available Spare in per cent (R358). -/
def State.spareLeft (s : State) : Nat := Variant.spareInit s.variant - s.media.spareUsed
def State.avSpare (s : State) : Nat := s.spareLeft * 100 / Variant.spareInit s.variant

/-- Superblocks of the sled: 1,820 of each die set (R336). -/
def State.superblocks (s : State) : Nat := s.variant.dieSets * 1820

/-- Mean and largest wear units of a block (R357). -/
def State.wearSum (s : State) : Nat := sumOf (s.media.wear.map (·.2.2))
def State.wearMean (s : State) : Nat := s.wearSum / s.superblocks
def State.wearMax (s : State) : Nat := maxOf (s.media.wear.map (·.2.2))

/-- Percentage Used (R357). -/
def State.pctUsed (s : State) : Nat := min 255 (s.wearSum * 100 / (60000 * s.superblocks))

/-- FILL: the mapped fraction f of the exported capacity in 65,536ths (R342). -/
def State.fill (s : State) : Nat := (s.media.map.length + s.media.wb.length) * 65536 / s.variant.exportedBlocks

/-- TGT in MiB: recomputed at each 1,024th of f, in whole SLC-mode superblocks of 2,232 MiB (R342). -/
def State.slcTarget (s : State) : Nat :=
  let n := (s.media.map.length + s.media.wb.length) * 1024 / s.variant.exportedBlocks
  let t := match s.variant with
    | .d1024 => 50331648 - 48128 * n
    | .d512 => 25165824 - 24064 * n
  t / 2232 * 2232

/-- HELD of the SLC buffer: the data that it holds, in MiB (R343). -/
def State.slcHeld (s : State) : Nat := (s.media.map.filter fun e => e.loc.slc).length / 256

/-- Units with BAD set. -/
def State.badUnits (s : State) : Nat := (s.media.map.filter (·.bad)).length

/-- Hours since the least recently patrolled superblock was read. -/
def State.scrubAge (s : State) : Nat :=
  (s.now - minOf s.now (s.media.sbs.map fun b => max b.scrubbed s.media.scrubAt)) / 3600000000

/-- A percentile of the page reads of the last 24 hours, in parts of 10,000: the latency that at most the given part of them exceeds. -/
def State.latencyAt (s : State) (part : Nat) : Nat :=
  let l := sortBy id ((s.media.latency.filter fun x => decide (s.now < x.1 + 86400000000)).map (·.2))
  if l.isEmpty then 0 else l.getD ((l.length * part + 9999) / 10000 - 1) 0

/-- Page reads and reads beyond step 3, from the step histogram. -/
def State.readsAll (s : State) : Nat := sumOf s.media.hist + s.media.lost
def State.readsDeep (s : State) : Nat := sumOf (s.media.hist.drop 4) + s.media.lost

/-- Composite Temperature in kelvin (R410): 85 °C less the smallest margin to a throttle threshold. -/
def State.composite (s : State) : Nat :=
  let margins := (s.pwr.tempsUsed.zip throttleAt).map fun x => x.2 - x.1
  let m := margins.foldl min (margins.headD 0)
  ((850 - m) / 10 + 273).toNat

/-- A Temperature Threshold of the Composite Temperature that the host has set (feature 04h): over, under (log 27). -/
def State.threshold (s : State) (under : Bool) : Option Nat :=
  (s.nvm.feats.find? fun p => p.1 == 4 + 256 * (if under then 16 else 0)).map fun p => p.2 % 65536

/-- Whether the Composite Temperature is at or beyond a threshold that the host has set (R76). -/
def State.tempOut (s : State) : Bool :=
  (match s.threshold false with | some t => decide (t ≤ s.composite) | none => false) ||
  (match s.threshold true with | some t => decide (s.composite ≤ t) | none => false)

/-- SMART Critical Warning: spare low, throttled or beyond a threshold, promise or journal gap, read-only, allowance 0 (R358, R408, R411, R433, R454). -/
def State.criticalWarning (s : State) : Nat :=
  b2n (decide (s.avSpare < 10)) + 2 * b2n (s.pwr.throttled || s.tempOut) + 4 * b2n (s.ras.promise != 0 || s.boot.jgap != 0) +
    8 * b2n s.media.readOnly + 16 * b2n (s.cis.allow == 0)

/-- The largest number below `r + 2 ^ n` of the form `r` plus n bits whose 100th power times 2 ^ a is at most the given bound. -/
def root100 (a bound : Nat) : Nat → Nat → Nat
  | 0, r => r
  | n + 1, r => if (r + 2 ^ n) ^ 100 * 2 ^ a ≤ bound then root100 a bound n (r + 2 ^ n) else root100 a bound n r

/-- Equivalent age: time at a temperature in 0.1 °C counts 2 ^ ((T - 40) / 10) times (R351), rounded down to a microsecond. -/
def aged (t : Int) (us : Nat) : Nat := root100 (400 - t).toNat (us ^ 100 * 2 ^ (t - 400).toNat) 80 0

/-- Time without power counts as spent at 40 °C: from the timestamp saved at the shutdown to the one that the host sets, less the
time since the start (R351). -/
def countOff (new : Nat) (s : State) : State :=
  match s.media.offStamp with
  | none => s
  | some t => s.modMedia fun m => { m with
      offStamp := none, sbs := m.sbs.map fun b => { b with age := b.age + (new - t - s.ms) * 1000 } }

/-- Raise event 03h for a condition that occurs first (R361). `n` numbers the conditions. -/
def firstTime (n : Nat) (p : Bool) (s : State) : State :=
  if p && !s.media.passed.contains n then raiseEvent 7 3 0xC4 (s.modMedia fun m => { m with passed := n :: m.passed }) else s

/-- The thresholds of R361 that are states: latency, deep reads, Percentage Used, Available Spare, the read-only state. Available Spare
below 10 and the read-only state also raise their SMART events (R75). -/
def checkHealth (s : State) : State :=
  let s := firstTime 1 (decide (s.media.latThr < s.latencyAt 9900)) s
  let s := firstTime 2 (s.readsAll != 0 && decide (s.media.deepThr * s.readsAll < 1000 * s.readsDeep)) s
  let s := firstTime 80 (decide (80 < s.pctUsed)) s
  let s := firstTime 90 (decide (90 < s.pctUsed)) s
  let s := firstTime 100 (decide (100 < s.pctUsed)) s
  let low := decide (s.avSpare < 10) && !s.media.passed.contains 200
  let shut := s.media.readOnly && !s.media.passed.contains 3
  let s := (List.range 10).foldl (fun s k => firstTime (200 + k) (decide (s.avSpare < 10 * (k + 1))) s) s
  let s := firstTime 3 s.media.readOnly s
  let s := if low then smartEvent 0 s else s
  if shut then smartEvent 3 s else s

end Sys2Proof.Machine
end

