-- ==== Sys2Proof/Machine/Link.lean ====
section
/-! DEFINITION. Runnel transport: paths, flows and sending (R370 to R376). -/

namespace Sys2Proof.Machine

/-- The mode of a port in force (Table 13.1). -/
def State.pmode (s : State) (n : Nat) : Nat := s.cfg.conf.pmode.getD n 0

/-- A port; an absent one reads as at reset. -/
def State.port (s : State) (n : Nat) : Port := s.lnk.ports.getD n Port.reset

/-- Change a port. -/
def modPort (n : Nat) (f : Port → Port) (s : State) : State :=
  s.modLnk fun l => { l with ports := l.ports.modify n f }

/-- What the sled keeps of a device; a device it has not met is reachable at the full rate. -/
def State.peerDev (s : State) (d : Nat) : PeerDev :=
  match s.lnk.peers.find? (fun p => p.dev == d) with
  | some p => p
  | none => ⟨d, false, 1000, false, []⟩

/-- Change what is kept of a device, which is KNOWN from then on. -/
def modPeer (d : Nat) (f : PeerDev → PeerDev) (s : State) : State :=
  let p := f (s.peerDev d)
  s.modLnk fun l => { l with
    peers := if l.peers.any (fun x => x.dev == d) then l.peers.map fun x => if x.dev == d then p else x
      else l.peers ++ [p] }

/-- The path set of a device (R371): the direct ports that are up to it, ascending, then the Ethernet interfaces that are
up, ascending. A port that narrows has not gone down: its traffic waits (R363, DEDUCED, log 32). -/
def State.pathSet (s : State) (d : Nat) : List Path :=
  let ps := (List.range s.variant.ports)
  let direct := ps.filter fun n => s.pmode n == 1 && ((s.port n).st == 2 || (s.port n).st == 4) && (s.port n).peer == some d
  let eths := ps.flatMap fun n =>
    if s.pmode n == 2 && (s.port n).st == 2 then
      (List.range 5).filterMap fun i => if bit (s.port n).ifup i then some (5 * n + i) else none
    else []
  direct.map Path.direct ++ eths.map Path.eth

/-- The paths that have not failed for the device (R374). -/
def State.goodPaths (s : State) (d : Nat) : List Path :=
  (s.pathSet d).filter fun p => !((s.peerDev d).failed.any fun x => x.1 == p && decide (s.now < x.2))

/-- Whether a message can be sent to a device: it is not lost and has a path (R376). -/
def State.reachable (s : State) (d : Nat) : Bool :=
  !(s.peerDev d).lost && !(s.goodPaths d).isEmpty

/-- A flow; a new one starts with SEQ 1 (DESIGN CHOICE, log 32), so that ACK 0 acknowledges nothing. -/
def State.flowOf (s : State) (d f : Nat) : Flow :=
  match s.lnk.flows.find? (fun x => x.dev == d && x.flow == f) with
  | some x => x
  | none => ⟨d, f, 1, [], none, 0⟩

/-- Replace a flow. -/
def setFlow (x : Flow) (s : State) : State :=
  s.modLnk fun l => { l with
    flows := if l.flows.any (fun y => y.dev == x.dev && y.flow == x.flow) then
        l.flows.map fun y => if y.dev == x.dev && y.flow == x.flow then x else y
      else l.flows ++ [x] }

/-- The path of a flow (R372): the one it keeps while that is good, otherwise entry f mod s of the set. -/
def State.pathFor (s : State) (d f : Nat) : Option Path :=
  let ps := s.goodPaths d
  match (s.flowOf d f).path with
  | some p => if ps.contains p then some p else ps[f % ps.length]?
  | none => ps[f % ps.length]?

/-- The port that a path uses. -/
def Path.port : Path → Nat
  | .direct n => n
  | .eth x => x / 5

/-- What carries a message on interface x of a port in Ethernet mode (R364, R370): a UDP datagram between the addresses of interface x of
the two sleds, tagged when VLAN is set. It follows from the settings in force and is held nowhere. -/
structure Datagram where
  srcAddr : Nat
  dstAddr : Nat
  srcPort : Nat
  dstPort : Nat
  vlan : Option Nat
  deriving DecidableEq, Repr

/-- The IPv6 address of interface x of a device (R370). -/
def State.ifAddress (s : State) (dev x : Nat) : Nat :=
  s.cfg.conf.pfx * 2 ^ 64 + 0x4B52 * 2 ^ 48 + dev % 2 ^ 14 * 2 ^ 5 + x

/-- The datagram of a message on a path: none in direct mode, where it fills whole flits (R370, R373). -/
def State.datagram (s : State) (p : Path) (m : Msg) : Option Datagram :=
  match p with
  | .direct _ => none
  | .eth x =>
    let c := s.cfg.conf
    some ⟨s.ifAddress c.devnum x, s.ifAddress m.dst x, 49152 + m.flow, c.udpport, if c.vlan = 0 then none else some c.vlan⟩

/-- Put a message on a link. -/
def putOnLink (p : Option Path) (m : Msg) (s : State) : State :=
  let s := s.modLnk fun l => { l with sent := l.sent ++ [m] }
  match p with
  | some q => modPort q.port (fun x => { x with tx := x.tx + m.payload.length }) s
  | none => s

/-- A blank message of a type to a device on a flow, from this sled (Table 13.4). -/
def State.msg (s : State) (typ dst flow : Nat) : Msg where
  typ := typ
  retx := false
  ece := (s.peerDev dst).ece
  ce := false
  src := s.cfg.conf.devnum
  dst := dst
  flow := flow
  sgen := 0
  seq := 0
  ack := 0
  sysid := BitVec.ofNat 64 s.cfg.conf.sysid
  inst := 0
  jobtag := 0
  sclu := 0xFF
  opid := 0
  addr := 0
  poison := []
  payload := []

/-- Messages outside the sequence of their flow: HELLO, PROBE, PROBEACK and ACK (DEDUCED, log 32). -/
def unsequenced (typ : Nat) : Bool := [1, 2, 3, 4].contains typ

/-- Send a message on its flow (R372 to R375): it takes the flow's next SEQ, acknowledges the reverse flow, carries ECE
when one is due, and waits for its acknowledgement. Nothing is sent to a device without a path. -/
def emit (m : Msg) (s : State) : State :=
  let s := modPeer m.dst id s
  let x := s.flowOf m.dst m.flow
  let p := s.pathFor m.dst m.flow
  let due := (s.peerDev m.dst).ece
  if unsequenced m.typ then
    putOnLink p { m with ack := x.got, ece := due } (modPeer m.dst (fun d => { d with ece := false }) s)
  else
    match p with
    | none => s
    | some q =>
      let m := { m with seq := x.next, ack := x.got, ece := due }
      let s := modPeer m.dst (fun d => { d with ece := false }) s
      let s := setFlow { x with next := (x.next + 1) % 2 ^ 32, unacked := x.unacked ++ [⟨m, s.now, 0⟩]
                                path := some q } s
      putOnLink (some q) m s

/-- RTMO in µs (Table 13.2). -/
def State.rtmo (s : State) : Nat := s.cfg.conf.rtmo

/-- Remote operations of a cluster that are pending (CLU_XFER.REMOTE). -/
def State.remoteOf (s : State) (c : Nat) : List RemOp := s.lnk.ops.filter fun o => o.clu == c

end Sys2Proof.Machine
end

