-- ==== Sys2Proof/Machine/Context.lean ====
section
/-! DEFINITION. Job contexts on clusters: starting, faulting and tearing one down; poison; sync objects (R205, R207,
R216 to R228, R257, R310 to R312). -/

namespace Sys2Proof.Machine

/-- Whether a cluster number exists on the variant. -/
def State.hasClu (s : State) (c : Nat) : Bool := decide (c < s.variant.clusters)

/-- A cluster; an absent number reads as one at reset. -/
def State.clu (s : State) (c : Nat) : Clu := s.clus.getD c (Clu.reset c)

/-- Change a cluster. -/
def modClu (c : Nat) (f : Clu → Clu) (s : State) : State := s.modClus (·.modify c f)

/-- The partition that a cluster belongs to (Table 10.1). -/
def State.partOfClu (s : State) (c : Nat) : Option Nat :=
  (List.range 8).find? fun p => bit (s.cfg.conf.clusters.getD p 0) c

/-- The clusters of a partition that are not lost, ascending (R232). -/
def State.clustersOf (s : State) (p : Nat) : List Nat :=
  (List.range s.variant.clusters).filter fun c => bit (s.cfg.conf.clusters.getD p 0) c && !(s.clu c).lost

/-- The partition whose job or batch runs on a cluster. -/
def State.jobPart (s : State) (c : Nat) : Option Nat :=
  (List.range 8).find? fun p =>
    (match (s.part p).run with | some r => r.clusters.contains c | none => false) ||
    (match (s.part p).batch with | some b => b.clusters.contains c | none => false)

/-- The running job of the partition whose job runs on a cluster. -/
def State.runOf (s : State) (c : Nat) : Option Run :=
  match s.jobPart c with
  | some p => (s.part p).run
  | none => none

/-- Change the running job of a partition. -/
def modRun (p : Nat) (f : Run → Run) (s : State) : State :=
  modPart p (fun x => { x with run := x.run.map f }) s

/-- The engines in the order of ENG of Table 8.9. -/
def engIdx : Engine → Nat
  | .fetch => 0
  | .matrix => 1
  | .vector => 2
  | .hamming => 3
  | .store => 4

/-- An engine's queue, and changing it. -/
def Clu.q (x : Clu) (e : Nat) : EngQ := x.eng.getD e EngQ.reset
def Clu.modQ (e : Nat) (f : EngQ → EngQ) (x : Clu) : Clu := { x with eng := x.eng.modify e f }

/-- Change the control core. -/
def Clu.modCore (f : Core → Core) (x : Clu) : Clu := { x with core := f x.core }

/-- A sync object of a cluster, and changing it. -/
def Clu.obj (x : Clu) (o : Nat) : SyncObj := x.objs.getD o SyncObj.reset
def Clu.modObj (o : Nat) (f : SyncObj → SyncObj) (x : Clu) : Clu := { x with objs := x.objs.modify o f }

/-- Transfers outstanding of an engine. -/
def EngQ.out (q : EngQ) : Nat := (q.act.filter fun a => !a.fin).length

/-- Whether every engine of a cluster is empty and idle: no command queued, started or holding its signal (R251). -/
def Clu.idle (x : Clu) : Bool := x.eng.all fun q => q.queue.isEmpty && q.act.isEmpty

/-- Quiescence (R207). -/
def State.quiescent (s : State) (c : Nat) : Bool :=
  let x := s.clu c
  (match x.core.st with | .running => false | .waiting _ _ _ _ => false | _ => true) &&
  (x.eng.all fun q => q.queue.isEmpty) && (x.q 0).out == 0 && (x.q 4).out == 0 && (s.remoteOf c).isEmpty && !x.tdPend

/-- A kind that Table 17.1 does not list: the spec states no code for it (log 33). -/
def openKind (s : State) : Nat × State :=
  let d := draw s
  (d.1.toNat % 256, d.2)

/-- The command of a job, when it has one of its own. -/
def Job.key? (j : Job) : Option (Nat × Nat) :=
  match j.kind with
  | .fan _ _ => none
  | _ => if j.sqid = 0xFFFF then none else some (j.sqid, j.cid)

/-- The command that a partition's job runs for. -/
def State.jobKey (s : State) (p : Nat) : Option (Nat × Nat) :=
  match (s.part p).run with
  | some r => r.job.key?
  | none => none

/-- Stop a cluster's core and flush its queues, so that no further command starts (R228 step 1). Started transfers and
commands end without a signal. -/
def Clu.stop (x : Clu) : Clu :=
  { x with
    core := { x.core with st := .stopped }
    eng := x.eng.map fun q => { q with queue := [] } }

/-- The context generations of the clusters of a partition's job, as bytes (R379, log 32). -/
def contextGens (p : Nat) (s : State) : List Byte :=
  match (s.part p).run with
  | some r => (sortDedup (r.clusters.map fun c => (s.clu c).ctxgen)).map (BitVec.ofNat 8)
  | none => []

/-- Send CANCEL to every device that a partition's job has operations, bindings or a fan-out with (R311, R379, R381); OPID names the
fan-out, the payload the context generations of its clusters (log 32). -/
def sendCancels (p : Nat) (s : State) : State :=
  let devs := sortDedup ((s.lnk.ops.filter fun o => o.part == p).map (·.dev) ++
    (s.lnk.binds.filter fun b => b.part == p).map (·.dev) ++
    (s.lnk.fans.filter fun f => f.part == p).flatMap fun f => f.waiting.map (·.1))
  let tag := match (s.part p).run with
    | some r => (r.job.cmd.cdw15.toNat, r.inst, r.gen)
    | none => (0, 0, 0)
  devs.foldl (fun s d =>
    let fan := match s.lnk.fans.find? fun f => f.part == p with | some f => f.tag | none => 0
    emit { s.msg 0x18 d 128 with
      opid := fan
      jobtag := tag.1
      inst := tag.2.1
      sgen := tag.2.2 % 256
      payload := contextGens p s } s) s

/-- Begin the teardown of the job or batch of a partition, on every cluster of it (R228, R310, R311): cores stopped, queues
flushed, cancels sent; a cluster with remote operations pending shows TDPEND. The first cause decides the status. -/
def tearJob (p : Nat) (st : Status) (s : State) : State :=
  let x := s.part p
  let cs := (match x.run with | some r => if r.teardown.isSome then [] else r.clusters | none => []) ++
    (match x.batch with | some b => if b.teardown.isSome then [] else b.clusters | none => [])
  if cs.isEmpty then s
  else
    let s := sendCancels p s
    let s := cs.foldl (fun s c => modClu c (fun y => { y.stop with tdPend := !(s.remoteOf c).isEmpty }) s) s
    let deferred := cs.any fun c => !(s.remoteOf c).isEmpty
    modPart p (fun x => { x with
      deferAt := if deferred then some s.now else none
      run := x.run.map fun r => if r.teardown.isSome then r else { r with teardown := some st, tdAt := s.now }
      batch := x.batch.map fun b => if b.teardown.isSome then b else { b with teardown := some st }
      cnt := { x.cnt with
        teardowns := x.cnt.teardowns + cs.length
        watchdog := if st == .jobWatchdog then x.cnt.watchdog + 1 else x.cnt.watchdog
        deferred := if deferred then x.cnt.deferred + 1 else x.cnt.deferred } }) s

/-- Whether a partition's job is being torn down. -/
def State.tearing (s : State) (p : Nat) : Bool :=
  (match (s.part p).run with | some r => r.teardown.isSome | none => false) ||
  (match (s.part p).batch with | some b => b.teardown.isSome | none => false)

/-- Clear a context from a cluster (R205, R216, R228): tile memory zero, sync objects 0, CTXGEN advanced once. -/
def Clu.endContext (x : Clu) : Clu :=
  { x with
    run := false
    core := { x.core with st := .stopped }
    eng := List.replicate 5 EngQ.reset
    tile := []
    tpois := []
    ring := Ring.reset
    ctxgen := (x.ctxgen + 1) % 256
    objs := x.objs.map fun o => { o with value := 0 }
    tdPend := false }

/-- Begin a partition reset (R312 steps 1 and 2): every cluster stopped, cancels sent, tile memory and feeder slots cleared,
IMGEN and CTXGEN advanced, sync objects 0; see log 78 (DEDUCED). -/
def startPartReset (p : Nat) (s : State) : State :=
  let s := sendCancels p s
  let s := s.modLnk fun l => { l with
    ops := l.ops.filter fun o => o.part != p, binds := l.binds.filter fun b => b.part != p }
  let s := (s.clustersOf p).foldl (fun s c => modClu c (fun x =>
    { x.endContext with slots := [], imgen := (x.imgen + 1) % 65536 }) s) s
  modPart p (fun x => { x with
    resetting := true, cnt := { x.cnt with presets := x.cnt.presets + 1 } }) (s.modPresets (· + 1))

/-- A fault of class 2 attributed to a job context (Table 17.6): recorded, and the context is torn down with a status; while it
is being torn down already, an uncorrectable error escalates to a partition reset (R312); during that reset it is absorbed. -/
def contextError (p : Nat) (r : Fault17) (st : Status) (s : State) : State :=
  let r := { r with part := p, cmd := s.jobKey p, attr := .part p }
  if (s.part p).resetting then addRecord { r with cls := 2, action := 5 } s
  else if s.tearing p then startPartReset p (addRecord { r with cls := 3, action := 6 } s)
  else openHandling (.part p) (tearJob p st (addRecord { r with cls := 2, action := 5 } s))

/-- A cluster fails (R231): it is substituted at its partition's next job boundary; see log 98 (DEDUCED). -/
def failCluster (c : Nat) (s : State) : State :=
  if (s.clu c).cluFail || (s.clu c).lost then s
  else
    let spent := s.clus.any fun y => (y.spare || y.cluFail) && y.die == (s.clu c).die
    let s := addRecord { kind := 0xB, cls := 2, action := if spent then 8 else 3, inst := c, attr := .unit 0xB c } s
    openHandling (.unit 0xB c) (modClu c (fun x => { x with cluFail := true }) s)

/-- An array fails (R229, R230): A16 takes its place at the next job boundary; a second array of the cluster fails the cluster. -/
def failArray (c a : Nat) (s : State) : State :=
  let second := (s.clu c).afailed != 31 || decide (0 < ((s.clu c).failPend.filter (· != a)).length)
  let s := modClu c (fun y => { y with failPend := if y.failPend.contains a then y.failPend else y.failPend ++ [a] }) s
  if second then failCluster c s else s

/-- A fault of the program itself (R219, R257, R279): recorded with the context, which is torn down. A context already being
torn down takes no further fault of this kind. -/
def programFault (c : Nat) (addr detail : Nat) (st : Status) (s : State) : State :=
  match s.jobPart c with
  | none => s
  | some p =>
    if s.tearing p || (s.part p).resetting then s
    else
      let k := openKind s
      contextError p { kind := k.1, inst := c, addr := addr, detail := detail } st k.2

/-- A context fault (R257): the core stops at the instruction, or at the ISSUE of the command; the record carries the PC and the cause of
Table 8.17. -/
def contextFault (c pc cause code : Nat) (s : State) : State :=
  match s.jobPart c with
  | none => s
  | some p =>
    if s.tearing p || (s.part p).resetting then s
    else programFault c pc (cause + code * 65536) .internalError (modClu c (Clu.modCore fun k => { k with pc := pc }) s)

/-- Set `n` granules from a tile address poisoned, or clear them, keeping the list sorted. -/
def Clu.setPois (g n : Nat) (on : Bool) (x : Clu) : Clu :=
  let rest := x.tpois.filter fun k => !decide (g ≤ k ∧ k < g + n)
  { x with tpois := if on then sortDedup (rest ++ (List.range n).map (· + g)) else rest }

/-- Whether a byte range of tile memory meets a poisoned granule. -/
def Clu.poisIn (a n : Nat) (x : Clu) : Bool :=
  x.tpois.any fun g => decide (g * 64 < a + n ∧ a < (g + 1) * 64)

/-- Read bytes of tile memory. -/
def Clu.tileRead (x : Clu) (a n : Nat) : List Byte := Mem.read 0 x.tile a n

/-- Write whole granules of tile memory (R203): a clean write clears poison, unless `pois`. -/
def Clu.tileWrite (a : Nat) (bs : List Byte) (pois : Bool) (x : Clu) : Clu :=
  Clu.setPois (a / 64) ((bs.length + 63) / 64) pois { x with tile := Mem.write 0 x.tile a (padTo 64 bs) }

/-- A bump of a counter that saturates at `top`, and of the tensor counters. -/
def bump (top n k : Nat) : Nat := min (n + k) top
def bumpAt (t k : Nat) (l : List (Nat × Nat)) : List (Nat × Nat) :=
  if k = 0 then l
  else if l.any (fun p => p.1 == t) then l.map fun p => if p.1 == t then (t, min (p.2 + k) 0xFFFFFFFF) else p
  else insBy (·.1) (t, k) l

/-- Accumulations that saturated in float operations (R273). -/
def countAcc (c n : Nat) (s : State) : State :=
  modClu c (fun x => { x with ar := { x.ar with accSat := bump 0xFFFFFFFF x.ar.accSat n } }) s

/-- Count a tile with a tensor counter, `chk` one that is quantised and checked (R279, R282, R286, R287): saturated elements, an event,
rows replayed, underuse; event 06h once in a context for each threshold reached. -/
def countTile (c : Nat) (chk : Bool) (ctr sats replays : Nat) (event under : Bool) (s : State) : State :=
  let big := 2 ^ 64 - 1
  let a := (s.clu c).ar
  let b := { a with
    satElem := bump big a.satElem sats
    satTile := bump big a.satTile (b2n event), tsat := bumpAt ctr (b2n event) a.tsat
    undTile := bump big a.undTile (b2n under), tund := bumpAt ctr (b2n under) a.tund
    replay := bump big a.replay replays
    qTile := bump big a.qTile (b2n chk)
    ctxSat := a.ctxSat + b2n event, ctxUnd := a.ctxUnd + b2n under }
  let hitS := event && b.satevt != 0 && decide (b.satevt ≤ b.ctxSat) && !a.satRaised
  let hitU := under && b.undevt != 0 && decide (b.undevt ≤ b.ctxUnd) && !a.undRaised
  let b := { b with
    astat := b.astat ||| (b2n hitS + 2 * b2n hitU), satRaised := b.satRaised || hitS, undRaised := b.undRaised || hitU }
  let s := modClu c (fun x => { x with ar := b }) s
  let s := if event then (match s.jobPart c with
    | some p => modRun p (fun r => { r with flags := r.flags ||| 4 }) s
    | none => s) else s
  if hitS || hitU then raiseEvent 7 6 0xC7 s else s

/-- Granules poisoned at their origin (R224): counted and recorded. -/
def poisonOrigin (c n : Nat) (r : Fault17) (s : State) : State :=
  if n = 0 then s
  else addRecord { r with cls := 1, action := 2 }
    (modClu c (fun x => { x with poisOrg := satAdd32 x.poisOrg n }) s)

/-- Add `n` to a sync object of a cluster, from a local or device signaller (R217, R219): refused above FFFF_FFFFh, which tears
the context down. -/
def applySignal (o n dev clu : Nat) (s : State) : State :=
  let c := o / 128
  let v := (s.clu c).obj (o % 128)
  if 0xFFFFFFFF < v.value + n then
    programFault c o 0 .internalError (modClu c (Clu.modObj (o % 128) fun y => { y with ovf := true }) s)
  else
    modClu c (Clu.modObj (o % 128) fun y => { y with
      value := y.value + n, sigcnt := (y.sigcnt + 1) % 2 ^ 32, lastDev := dev
      lastClu := if dev == 0x3FFF then clu else 0xFF }) s

/-- A signal dropped under R222. -/
def dropSignal (o : Nat) (s : State) : State :=
  modClu (o / 128) (Clu.modObj (o % 128) fun y => { y with dropped := min (y.dropped + 1) 255 }) s

/-- A device signal (R217, R219, R222): it carries the CTXGEN that its target had when the context started; a target outside
the job's partition tears the context down. -/
def sendDevice (c o n : Nat) (s : State) : State :=
  let t := o / 128
  match s.jobPart c with
  | none => s
  | some p =>
    if s.hasClu t && bit (s.cfg.conf.clusters.getD p 0) t then
      s.modSigs (· ++ [⟨o, n, (s.clu c).gens.getD t 0, c, p⟩])
    else programFault c o 0 .internalError s

end Sys2Proof.Machine
end

