-- ==== Sys2Proof/Machine/Arith.lean ====
section
/-! DEFINITION. Number formats, exact arithmetic and rounding (R265 to R273, R277, R280, R284). -/

namespace Sys2Proof.Machine

namespace Fl

/-- Zero. -/
def zero : Fl := .fin false 0 0

/-- The exact product. An infinity times zero is no number. -/
def mul : Fl → Fl → Fl
  | .nan, _ => .nan
  | _, .nan => .nan
  | .inf a, .inf b => .inf (a != b)
  | .inf a, .fin b m _ => if m = 0 then .nan else .inf (a != b)
  | .fin a m _, .inf b => if m = 0 then .nan else .inf (a != b)
  | .fin a m e, .fin b n g => .fin (a != b) (m * n) (e + g)

/-- The exact sum. Infinities of both signs give no number; an exact zero is −0 only from two −0. -/
def add : Fl → Fl → Fl
  | .nan, _ => .nan
  | _, .nan => .nan
  | .inf a, .inf b => if a = b then .inf a else .nan
  | .inf a, .fin _ _ _ => .inf a
  | .fin _ _ _, .inf b => .inf b
  | .fin a m e, .fin b n g =>
    let lo := min e g
    let v := scaled a m e lo + scaled b n g lo
    if v = 0 then .fin (a && b) 0 lo else .fin (decide (v < 0)) v.natAbs lo

/-- The negated number and its magnitude. -/
def neg : Fl → Fl
  | .nan => .nan
  | .inf a => .inf (!a)
  | .fin a m e => .fin (!a) m e
def abs : Fl → Fl
  | .nan => .nan
  | .inf _ => .inf false
  | .fin _ m e => .fin false m e

/-- An integer. -/
def ofInt (v : Int) : Fl := .fin (decide (v < 0)) v.natAbs 0

/-- Whether it is a zero. -/
def isZero : Fl → Bool
  | .fin _ m _ => m == 0
  | _ => false

/-- Whether it is finite. -/
def isFin : Fl → Bool
  | .fin _ _ _ => true
  | _ => false

end Fl

/-- m / 2^k rounded to nearest, ties to even. -/
def shrEven (m k : Nat) : Nat :=
  let q := m >>> k
  let r := m % 2 ^ k
  let h := 2 ^ k
  if 2 * r < h then q else if h < 2 * r then q + 1 else q + q % 2

/-- Round m × 2^e to `p` significant bits, no finer than 2^emin, to nearest even: the magnitude in units and their
exponent. -/
def roundTo (p : Nat) (emin : Int) (m : Nat) (e : Int) : Nat × Int :=
  if m = 0 then (0, emin)
  else
    let q := max (e + Nat.log2 m + 1 - p) emin
    if q ≤ e then (m * 2 ^ (e - q).toNat, q)
    else
      let r := shrEven m (q - e).toNat
      if r = 2 ^ p then (2 ^ (p - 1), q + 1) else (r, q)

/-- The code, without sign, of r × 2^q for `mw` fraction bits and a bias, with r below 2^(mw+1) as `roundTo` leaves it. -/
def codeOf (mw : Nat) (bias : Int) (r : Nat) (q : Int) : Nat :=
  if r < 2 ^ mw then r else ((q + bias + mw).toNat) * 2 ^ mw + (r - 2 ^ mw)

/-- An IEEE-style rounding of an exact number to `ew` exponent and `mw` fraction bits: overflow gives an infinity, and a
number that is none the canonical NaN (R266). -/
def encode (ew mw : Nat) (x : Fl) : Nat :=
  let top := (2 ^ ew - 1) * 2 ^ mw
  let bias : Int := 2 ^ (ew - 1) - 1
  match x with
  | .nan => top + 2 ^ (mw - 1)
  | .inf n => b2n n * 2 ^ (ew + mw) + top
  | .fin n m e =>
    let r := roundTo (mw + 1) (1 - bias - mw) m e
    b2n n * 2 ^ (ew + mw) + min (codeOf mw bias r.1 r.2) top

/-- Rounding to FP32 and BF16 as R284 has them. -/
def toF32 (x : Fl) : Nat := encode 8 23 x
def toBf16 (x : Fl) : Nat := encode 8 7 x

/-- The magnitude of the largest finite FP32. -/
def maxF32 : Nat := 0x7F7FFFFF

/-- Rounding to FP32 of the matrix engine: a finite number that rounds beyond the largest saturates, which is the
second component (R273). -/
def satF32 (x : Fl) : Nat × Bool :=
  match x with
  | .fin n _ _ =>
    let w := toF32 x
    if maxF32 < w % 2 ^ 31 then (b2n n * 2 ^ 31 + maxF32, true) else (w, false)
  | _ => (toF32 x, false)

/-- A number rounded to an integer, ties to even. -/
def roundInt (neg : Bool) (m : Nat) (e : Int) : Int :=
  let a : Nat := if 0 ≤ e then m * 2 ^ e.toNat else shrEven m (-e).toNat
  if neg then -(a : Int) else a

/-- Two's complement of `n` bits. -/
def signedN (n w : Nat) : Int := if w % 2 ^ n < 2 ^ (n - 1) then ((w % 2 ^ n : Nat) : Int) else ((w % 2 ^ n : Nat) : Int) - 2 ^ n
def unsignedN (n : Nat) (v : Int) : Nat := (v % 2 ^ n).toNat

/-- A value clamped between limits, and whether it was. -/
def clampInt (lo hi v : Int) : Int × Bool := if v < lo then (lo, true) else if hi < v then (hi, true) else (v, false)

/-- FP8 E4M3 (Table 9.5): no infinity, S.1111.111 is no number. -/
def ofE4M3 (w : Nat) : Fl :=
  if w % 128 = 127 then .nan
  else
    let x := w / 8 % 16
    if x = 0 then .fin (w.testBit 7) (w % 8) (-9) else .fin (w.testBit 7) (8 + w % 8) (x - 10)

/-- FP8 E5M2 and E2M1. -/
def ofE5M2 (w : Nat) : Fl := Fl.decode 5 2 w
def ofE2M1 (w : Nat) : Fl :=
  let x := w / 2 % 4
  if x = 0 then .fin (w.testBit 3) (w % 2) (-1) else .fin (w.testBit 3) (2 + w % 2) (x - 2)

/-- A block scale E8M0. -/
def ofE8M0 (w : Nat) : Fl := if w = 255 then .nan else .fin false 1 (w - 127)

/-- Product kinds (Table 9.7) of a format code; codebooks take that of their entries. -/
inductive PKind where
  | int | float | bit | bad
  deriving DecidableEq, Repr

def kindOf (fmt cbfmt : Nat) : PKind :=
  if fmt ≤ 3 then .int
  else if fmt ≤ 0xA then .float
  else if fmt == 0xD || fmt == 0xE then
    (if cbfmt == 0 then .int else if cbfmt == 4 || cbfmt == 5 || cbfmt == 0xA then .float else .bad)
  else if fmt == 0xF then .bit
  else .bad

/-- Whether an operand's elements have 4 bits; whether it is MX; whether it is a codebook. -/
def is4 (fmt : Nat) : Bool := [2, 3, 9, 0xD].contains fmt
def isMx (fmt : Nat) : Bool := [6, 7, 8, 9].contains fmt
def isCb (fmt : Nat) : Bool := fmt == 0xD || fmt == 0xE

/-- Bytes that `n` elements of an operand format fill, and of an output element. -/
def elemBytes (fmt n : Nat) : Nat :=
  if is4 fmt then (n + 1) / 2 else if fmt == 0xA then 2 * n else if fmt == 0xF then n / 8 else n
def outBytes (fmt : Nat) : Nat := if fmt == 0xA || fmt == 0x10 then 2 else if fmt == 0xB || fmt == 0xC then 4 else 1

/-- The code of element `i` of packed elements. -/
def elemCode (fmt : Nat) (l : List Byte) (i : Nat) : Nat :=
  if is4 fmt then ((l.getD (i / 2) 0).toNat >>> (4 * (i % 2))) % 16
  else if fmt == 0xA then field l (2 * i) 2
  else (l.getD i 0).toNat

/-- The integer of an integer code. -/
def intOf (fmt w : Nat) : Int :=
  if fmt == 0 then signedN 8 w else if fmt == 2 then signedN 4 w else w

/-- The exact number of a float code, block scale apart. -/
def floatOf (fmt w : Nat) : Fl :=
  if fmt == 4 || fmt == 6 then ofE4M3 w
  else if fmt == 5 || fmt == 7 then ofE5M2 w
  else if fmt == 8 then (match Fl.ofInt (signedN 8 w) with | .fin n m e => .fin n m (e - 6) | x => x)
  else if fmt == 9 then ofE2M1 w
  else Fl.ofBf16 w

/-- The canonical NaN codes (R266). -/
def nanCode (fmt : Nat) : Nat := if fmt == 4 then 0x7F else if fmt == 5 then 0x7E else if fmt == 0xA then 0x7FC0 else 0x7FC00000

/-- An FP8 rounding: code and whether it was clamped (Table 9.8). -/
def toFp8 (fmt : Nat) (x : Fl) : Nat × Bool :=
  let mw := if fmt == 4 then 3 else 2
  let bias : Int := if fmt == 4 then 7 else 15
  let top := if fmt == 4 then 0x7E else 0x7B
  match x with
  | .nan => (nanCode fmt, false)
  | .inf n => (b2n n * 128 + top, true)
  | .fin n m e =>
    let r := roundTo (mw + 1) (1 - bias - mw) m e
    let c := codeOf mw bias r.1 r.2
    if top < c then (b2n n * 128 + top, true) else (b2n n * 128 + c, false)

/-- The largest magnitude of a quantised format (R280), as a number. -/
def qmax (fmt : Nat) : Nat := if fmt == 0 then 127 else if fmt == 4 then 448 else 57344

/-- Whether an output format is quantised. -/
def isQuant (fmt : Nat) : Bool := fmt == 0 || fmt == 4 || fmt == 5

/-- A quotient of positive numbers rounded to FP32: n / d × 2^e by 60 further bits and a sticky bit. -/
def divF32 (n : Nat) (m : Nat) (e : Int) : Nat :=
  let sh := Nat.log2 m + 64
  let q := (n * 2 ^ sh) / m
  let st := if (n * 2 ^ sh) % m = 0 then 0 else 1
  toF32 (.fin false (2 * q + st) (-(sh : Int) - 1 - e))

/-- A number of the accumulator converted to FMTC without replay: its code and whether it saturated (Table 9.8). `s` is the
output scale. -/
def convert (fmtc : Nat) (s : Fl) (v : Fl) : Nat × Bool :=
  if isQuant fmtc then
    let x := Fl.ofF32 (toF32 (Fl.mul (Fl.ofF32 (toF32 v)) s))
    if fmtc == 0 then
      match x with
      | .nan => (0, true)
      | .inf n => (if n then 0x80 else 0x7F, true)
      | .fin n m e =>
        let c := clampInt (-128) 127 (roundInt n m e)
        (unsignedN 8 c.1, c.2)
    else toFp8 fmtc x
  else if fmtc == 0xC then
    match v with
    | .nan => (0, true)
    | .inf n => (if n then 0x80000000 else 0x7FFFFFFF, true)
    | .fin n m e =>
      let c := clampInt (-(2 ^ 31)) (2 ^ 31 - 1) (roundInt n m e)
      (unsignedN 32 c.1, c.2)
  else if fmtc == 0xB then (toF32 v, false)
  else
    match Fl.ofF32 (toF32 v) with
    | .inf n => (b2n n * 0x8000 + 0x7F7F, true)
    | x =>
      let w := toBf16 x
      if x.isFin && decide (0x7F7F < w % 0x8000) then (w / 0x8000 * 0x8000 + 0x7F7F, true) else (w, false)

end Sys2Proof.Machine
end

