-- ==== Sys2Proof/Machine/Records.lean ====
section
/-! DEFINITION. Record streams: how records are laid out (R104 to R106, R141, R142), and where the records of a first stage
come from (R85, R87, R134, R139, R140). -/

namespace Sys2Proof.Machine

/-- A projected field as R141 lays it out. -/
def encField (r : Rec) (f : Nat × Nat) : List Byte :=
  match r.field f.1 with
  | some b => leBytes 2 f.1 ++ leBytes 1 f.2 ++ leBytes 1 1 ++ leBytes 4 b.length ++ padTo 8 b
  | none => leBytes 2 f.1 ++ leBytes 1 f.2 ++ leBytes 1 0 ++ leBytes 4 0

/-- The fields that a record carries. -/
def Rec.carried (r : Rec) : List Byte := r.proj.flatMap (encField r)

/-- A record in a format of Table 3.17; see log 80 (DEDUCED). -/
def Rec.enc (fmt : Nat) (r : Rec) : List Byte :=
  if fmt == 1 then
    let body := leBytes 8 r.id ++ r.carried
    leBytes 4 (8 + body.length) ++ zeros 4 ++ body
  else if fmt == 2 then leBytes 8 r.id
  else if fmt == 3 then leBytes 8 r.id ++ r.raw
  else if fmt == 4 then leBytes 8 r.id ++ padTo 8 (r.outs.flatMap fun w => leBytes 4 w.toNat) ++ r.carried
  else if fmt == 5 then leBytes 8 r.id ++ padTo 8 r.vec
  else r.raw

/-- A record with its projection: the fields of `mask` in a schema (R141); see log 57 (DEDUCED); see log 81 (DEDUCED). -/
def Rec.project (fs : List FieldD) (mask : Nat) (r : Rec) : Rec :=
  let ps := (fs.zipIdx.filter fun x => bit mask x.2).map fun x => (x.2, x.1.typ)
  { r with proj := ps, fields := r.fields.filter fun f => ps.any fun p => p.1 == f.1 }

/-- A record without fields. -/
def Rec.bare (r : Rec) : Rec := { r with proj := [], fields := [] }

/-- The frames from `lo` to `hi - 1` that do not read as whole zero, ascending. -/
def usedFrames (mem : Mem) (lost : List Nat) (lo hi : Nat) : List Nat :=
  let a := squeeze ((mem.filter fun c => decide (lo * 65536 ≤ c.1 ∧ c.1 < hi * 65536)).map fun c => c.1 / 65536)
  let b := (lost.map (· / 16)).filter fun f => decide (lo ≤ f ∧ f < hi)
  sortDedup (a ++ b)

/-- What a frame of a collection shows. -/
def seeFrame (c : Coll) (f : Frame) : List Seen :=
  match classify c f with
  | .empty => []
  | .invalid => [.bad (f.no * 65536 + 0xFFFF)]
  | .records => (recordsOf c f).map fun r => .item r (f.num 6 2)

/-- What frames `lo` to `hi - 1` of a collection show, in frame and slot order (R139). -/
def State.seeRange (s : State) (nsid : Nat) (c : Coll) (lo hi : Nat) : List Seen :=
  (usedFrames (s.nsMem nsid) (s.lost nsid) lo hi).flatMap fun f => seeFrame c (s.frame nsid f)

/-- What an item ID of a collection shows (R140): nothing for a frame outside the range or a vacant slot. -/
def State.seeItem (s : State) (nsid : Nat) (c : Coll) (lo hi id : Nat) : List Seen :=
  let no := id / 65536
  if !decide (lo ≤ no ∧ no < hi) then []
  else
    let f := s.frame nsid no
    match classify c f with
    | .empty => []
    | .invalid => [.bad (no * 65536 + 0xFFFF)]
    | .records =>
      if f.num 6 2 ≤ id % 65536 then []
      else match recordAt c f (id % 65536) with
        | some r => [.item r (f.num 6 2)]
        | none => []

/-- The range of a Scan, first frame and end (R139). -/
def scanRange (c : Coll) (p : List Byte) (d : StageD) : Nat × Nat :=
  let first := if d.num p 0x28 8 = 0 then c.first else d.num p 0x28 8
  let n := d.num p 0x30 8
  let e := c.first + c.nframes
  (first, if n = 0 then e else min (first + n) e)

/-- A record of host input (R87, R134). -/
def hostRec (k : Nat) (e : Nat × List Byte) : Rec :=
  { id := 2 ^ 63 + k, fields := [], proj := [], vec := [], outs := [], raw := e.2, kind := e.1, poison := false }

/-- A result set that a source stage holds: its handle may have been released since (R114). -/
def State.heldSet? (s : State) (nsid handle : Nat) (key : Nat × Nat) : Option ResultSet :=
  s.res.sets.find? fun r => r.handle == handle && r.nsid == nsid && (!r.released || r.users.contains key)

/-- What a first stage other than a Scan reads (Table 3.6). -/
def State.source (s : State) (c : Cmd) (d : StageD) : List Seen :=
  if d.src == 1 then
    match s.coll? c.nsid d.objid with
    | some k => s.seeRange c.nsid k k.first (k.first + k.nframes)
    | none => []
  else if d.src == 2 then
    match s.heldSet? c.nsid d.handle (keyOf c) with
    | some r => r.recs.map fun x => .item x 0
    | none => []
  else if d.src == 3 then
    match hostEntries (inlenOf c) (inputOf c) with
    | some es => es.zipIdx.map fun e => .item (hostRec e.2 e.1) 0
    | none => []
  else []

/-- The records among what is seen, and the item IDs reported for invalid frames. -/
def seenRecs (l : List Seen) : List Rec := l.filterMap fun x => match x with | .item r _ => some r | .bad _ => none
def seenBad (l : List Seen) : List Nat := l.filterMap fun x => match x with | .bad i => some i | .item _ _ => none

/-- The records that a program appended (R246): the item ID at byte 0, or at byte 8 of a VAPPEND record. -/
def markedRecs (out : List Byte) (marks : List (Nat × Nat × Bool)) (poison : List Nat) : List Rec :=
  (sortBy (·.1) marks).map fun m =>
    let o := if m.2.2 then 8 else 0
    let id := field out (m.1 + o) 8
    { id := id, fields := [], proj := [], vec := [], outs := []
      raw := (out.drop (m.1 + o + 8)).take (m.2.1 - o - 8), kind := 0, poison := poison.contains id }

/-- What a stage delivers: its records with format and RECSZ, NREC, STAT, the item IDs for the poison list, its reply
flags (bits 31:24 of completion dword 0), the status that ends the command at it, and the frames of an index that it read. -/
structure StageOut where
  recs : List Rec := []
  fmt : Nat := 0
  recsz : Nat := 0
  nrec : Nat := 0
  stat : Nat := 0
  poison : List Nat := []
  flags : Nat := 0
  fail : Option Status := none
  touch : List Nat := []
  deriving DecidableEq, Repr

/-- Reply flags (Table 3.20) in bits 7:0. -/
def fSHORT : Nat := 0x80
def fPARTIAL : Nat := 0x40
def fPOISON : Nat := 0x20
def fRSV : Nat := 0x10
def fOVF : Nat := 0x08
def fSATEV : Nat := 0x04
def fLIMIT : Nat := 0x02

/-- What a scan has gathered: what passed (with NREC of its frame), records examined, the poison list. -/
structure ScanSt where
  kept : List (Rec × Nat) := []
  stat : Nat := 0
  poison : List Nat := []
  limit : Bool := false
  deriving DecidableEq, Repr

/-- Examine in order until MAXREC records have passed (R105, R139); `max` 0 is no limit. Each record comes with its verdict and
whether that verdict rests on damaged data. -/
def scanLoop (max : Nat) : List (Seen × Bool × Bool) → ScanSt → ScanSt
  | [], st => st
  | (.bad i, _) :: l, st => scanLoop max l { st with poison := st.poison ++ [i] }
  | (.item r n, pass, hurt) :: l, st =>
    let st := { st with stat := st.stat + 1, poison := if r.poison || hurt then st.poison ++ [r.id] else st.poison }
    if pass then
      let st := { st with kept := st.kept ++ [({ r with poison := r.poison || hurt }, n)] }
      if max != 0 && st.kept.length == max then { st with limit := true } else scanLoop max l st
    else scanLoop max l st

/-- A frame bitmap record (R142). Its count is of the records that passed, each occurrence of an item ID; see log 117 (DESIGN CHOICE). -/
def bitmapRec (frame : Nat) (l : List (Rec × Nat)) : Rec :=
  let mine := l.filter fun x => x.1.id / 65536 == frame
  let slots := mine.map fun x => x.1.id % 65536
  let map := sumOf ((sortDedup slots).map fun k => 2 ^ k)
  { id := frame * 65536, fields := [], proj := [], vec := [], outs := []
    raw := leBytes 2 (match mine.head? with | some x => x.2 | none => 0) ++ leBytes 2 mine.length ++ zeros 4 ++ leBytes 512 map
    kind := 0, poison := false }

/-- The records of a Scan in its OMODE (R141, R142). -/
def scanOut (fs : List FieldD) (p : List Byte) (d : StageD) (st : ScanSt) : StageOut :=
  let mode := d.num p 0x1C 1
  let recs :=
    if mode == 0 then st.kept.map fun x => x.1.project fs (d.num p 0x20 8)
    else if mode == 1 then st.kept.map fun x => x.1.bare
    else (distinct (st.kept.map fun x => x.1.id / 65536)).map fun f => bitmapRec f st.kept
  { recs := recs, fmt := mode + 1, recsz := if mode == 0 then 0 else if mode == 1 then 8 else 528
    nrec := recs.length, stat := st.stat, poison := st.poison, flags := if st.limit then fLIMIT else 0 }

/-- What a Scan reads, in order. -/
def State.scanSeen (s : State) (c : Cmd) (d : StageD) (k : Coll) : List Seen :=
  let r := scanRange k c.params d
  if d.src == 2 then
    match s.heldSet? c.nsid d.handle (keyOf c) with
    | some t => t.recs.flatMap fun x => s.seeItem c.nsid k r.1 r.2 x.id
    | none => []
  else s.seeRange c.nsid k r.1 r.2

/-- A Scan with a predicate list, or with neither list nor program (R88, R133 to R142). -/
def stageScan (s : State) (c : Cmd) (d : StageD) : StageOut :=
  match s.coll? c.nsid d.objid with
  | none => {}
  | some k =>
    let terms := termsOf (listOf c.params d)
    let test := fun (r : Rec) => d.num c.params 0x10 4 == 0 || passes k.fields terms r
    let seen := (s.scanSeen c d k).map fun x => match x with
      | .item r n => (Seen.item r n, test r, false)
      | .bad i => (Seen.bad i, false, false)
    scanOut k.fields c.params d (scanLoop (d.num c.params 0x38 8) seen {})

/-- What an item ID shows in frames that have been read. -/
def seenItem (all : List Seen) (id : Nat) : List Seen :=
  all.filter fun x => match x with
    | .item r _ => r.id == id
    | .bad i => i == id / 65536 * 65536 + 0xFFFF

/-- What the frames of a range show: each frame once, those already read as they were then (R139). -/
def State.seeOnce (s : State) (nsid : Nat) (k : Coll) (lo hi : Nat) (read : List (Nat × List Seen)) : List Seen :=
  let more := (usedFrames (s.nsMem nsid) (s.lost nsid) lo hi).filter fun f => !(read.any fun x => x.1 == f)
  (sortBy (·.1) (read ++ more.map fun f => (f, seeFrame k (s.frame nsid f)))).flatMap (·.2)

/-- A Scan with a scan program over the collection as the job read it (R127, R138, R252): the k-th verdict of a cluster is that of the k-th
record of the frames dealt to it; a record without a verdict is rejected; see log 115 (DESIGN CHOICE). -/
def stageVerdicts (s : State) (c : Cmd) (d : StageD) (k : Coll) (read : List (Nat × List Seen)) (verds : List (List (Bool × Bool))) :
    StageOut :=
  let r := scanRange k c.params d
  let n := verds.length
  let all := s.seeOnce c.nsid k r.1 r.2 read
  -- records dealt to each cluster in order, with their verdicts
  let judged := (List.range n).flatMap fun i =>
    let mine := (seenRecs all).filter fun x => (x.id / 65536 - r.1) % n == i
    mine.zipIdx.map fun x => (x.1.id, (verds.getD i []).getD x.2 (false, false))
  let verdict := fun (id : Nat) => match judged.find? (fun j => j.1 == id) with
    | some j => j.2
    | none => (false, false)
  let wanted := if d.src == 2 then
      match s.heldSet? c.nsid d.handle (keyOf c) with
      | some t => t.recs.flatMap fun x => seenItem all x.id
      | none => []
    else all
  let seen := wanted.map fun x => match x with
    | .item q m => (Seen.item q m, (verdict q.id).1, (verdict q.id).2)
    | .bad i => (Seen.bad i, false, false)
  scanOut k.fields c.params d (scanLoop (d.num c.params 0x38 8) seen {})

/-- The bytes a model stage gives its model: a field of the record, or what the previous stage or the host gave (R89, R90). A record
without the field gives none (DESIGN CHOICE, log 11). -/
def Rec.modelInput (infield : Nat) (r : Rec) : List Byte :=
  if infield == 0xFFFF then (if r.vec.isEmpty then r.raw else r.vec)
  else (r.field infield).getD []

/-- The TYPE of a model's input in a record: of the projected field, of the schema's, or as host input tells it. -/
def inputType (schema : Option (List FieldD)) (infield : Nat) (r : Rec) : Nat :=
  if infield == 0xFFFF then (if r.kind == 1 then 0x11 else if r.kind == 2 then 0x12 else 0x10)
  else match r.proj.find? fun p => p.1 == infield with
    | some p => p.2
    | none => match schema.bind fun fs => fs[infield]? with
      | some f => f.typ
      | none => 0x10

/-- The tokens of a model's input: the elements of a token array, or what the model's tokenizer gives (R138). -/
def Rec.modelTokens (o : Stored) (schema : Option (List FieldD)) (infield : Nat) (r : Rec) : List Nat :=
  let b := r.modelInput infield
  let t := inputType schema infield r
  let elems := fun (w : Nat) => (List.range (b.length / w)).map fun i => leNat (slice b (w * i) w)
  if t == 0x11 then elems 2 else if t == 0x12 then elems 4 else (Config.tokens o.id o.bytes b).map (·.toNat)

/-- MAXTOK of a model package (Table 10.3). -/
def pkgMaxTok (o : Stored) : Nat := field o.bytes 0xC 4

/-- What a model processes of a record: its first MAXTOK tokens, four bytes each (R306). -/
def Rec.modelText (o : Stored) (schema : Option (List FieldD)) (infield : Nat) (r : Rec) : List Byte :=
  ((r.modelTokens o schema infield).take (pkgMaxTok o)).flatMap (leBytes 4)

/-- Whether an FP32 is at least another; a NaN never is (R89). -/
def geF32 (a b : Word) : Bool :=
  match Fl.cmp (Fl.ofF32 a.toNat) (Fl.ofF32 b.toNat) with
  | some .lt => false
  | some _ => true
  | none => false

/-- The `n` outputs of a model for an input. -/
def outputsOf (o : Stored) (pol n : Nat) (input : List Byte) : List Word :=
  let l := Config.modelOut o.id o.bytes pol input
  (l.take n) ++ List.replicate (n - l.length) 0

/-- Whether what a stage reads of a record is poisoned: a field, or what the stage before it gave. -/
def Rec.fieldHurt (infield : Nat) (r : Rec) : Bool := r.hurt.contains infield

/-- SATPOL and INFIELD of a model stage. -/
def StageD.pol (p : List Byte) (d : StageD) : Nat := bits (d.num p 0x17 1) 3 2
def StageD.infield (p : List Byte) (d : StageD) : Nat := d.num p 0x14 2

/-- The tiles that a record makes a model stage drain. -/
def tilesOf (o : Stored) (schema : Option (List FieldD)) (p : List Byte) (d : StageD) (r : Rec) : List Config.Tile :=
  Config.modelTiles o.id o.bytes (d.pol p) (r.modelText o schema (d.infield p))

/-- What the tiles of the records of a stage say: SATEV, and the end of the command under SATPOL 10b (R91). -/
def satOf (o : Stored) (schema : Option (List FieldD)) (p : List Byte) (d : StageD) (recs : List Rec) : Nat × Option Status :=
  let hit := recs.any fun r => (tilesOf o schema p d r).any (·.event)
  (if hit then fSATEV else 0, if hit && d.pol p == 2 then some .saturationLimit else none)

/-- A record after a Score stage: its outputs, the carried fields with KEEP. -/
def scoreRec (o : Stored) (schema : Option (List FieldD)) (p : List Byte) (d : StageD) (r : Rec) : Rec :=
  let r := { r with outs := outputsOf o (d.pol p) (pkgNout o) (r.modelText o schema (d.infield p)) }
  if bit (d.num p 0x17 1) 1 then r else r.bare

/-- Whether a scored record passes the stage. -/
def scorePass (p : List Byte) (d : StageD) (r : Rec) : Bool :=
  !bit (d.num p 0x17 1) 0 ||
    geF32 (r.outs.getD (d.num p 0x16 1) 0) (BitVec.ofNat 32 (d.num p 0x18 4))

/-- A Score stage over records (R89). -/
def stageScore (o : Stored) (schema : Option (List FieldD)) (p : List Byte) (d : StageD) (recs : List Rec) : StageOut :=
  let sat := satOf o schema p d recs
  let out := (recs.map (scoreRec o schema p d)).filter (scorePass p d)
  { recs := out.map fun r => { r with vec := [], raw := [] }, fmt := 4
    recsz := if bit (d.num p 0x17 1) 1 then 0 else 8 + roundUp (4 * pkgNout o) 8
    nrec := out.length, poison := (recs.filter (·.poison)).map (·.id), flags := sat.1, fail := sat.2 }

/-- The bytes of a vector in an OFMT (R90): FP32, BF16, INT8 after its FP32 scale 127 / max (as R280 quantises; log 11), or one sign
bit for each dimension, 1 for a negative one; see log 114 (DESIGN CHOICE). -/
def vectorBytes (ofmt : Nat) (v : List Word) : List Byte :=
  if ofmt == 0 then v.flatMap fun w => leBytes 4 w.toNat
  else if ofmt == 1 then v.flatMap fun w => leBytes 2 (toBf16 (Fl.ofF32 w.toNat))
  else if ofmt == 2 then
    let mags := v.map fun w => w.toNat % 2 ^ 31
    let top := maxOf (mags.filter fun m => decide (m ≤ maxF32))
    let s := match Fl.ofF32 top with
      | .fin _ m e => if m = 0 then 0x3F800000 else divF32 127 m e
      | _ => 0x3F800000
    leBytes 4 s ++ v.flatMap fun w => leBytes 1 (convert 0 (Fl.ofF32 s) (Fl.ofF32 w.toNat)).1
  else leBytes ((v.length + 7) / 8) (sumOf (v.zipIdx.map fun x => if bit x.1.toNat 31 then 2 ^ x.2 else 0))

/-- The dimensions that an Embed stage keeps. -/
def keptDims (o : Stored) (p : List Byte) (d : StageD) : Nat :=
  if d.num p 0x18 2 = 0 then pkgDim o else d.num p 0x18 2

/-- The bytes of a vector of `n` dimensions. -/
def vectorLen (ofmt n : Nat) : Nat := if ofmt == 0 then 4 * n else if ofmt == 1 then 2 * n else if ofmt == 2 then 4 + n else (n + 7) / 8

/-- A record after an Embed stage (R90): the vector is cut to DIMS before it is normalised; see log 114 (DESIGN CHOICE). -/
def embedRec (o : Stored) (schema : Option (List FieldD)) (p : List Byte) (d : StageD) (r : Rec) : Rec :=
  let v := outputsOf o (d.pol p) (pkgDim o) (r.modelText o schema (d.infield p))
  let v := v.take (keptDims o p d)
  let v := if bit (d.num p 0x17 1) 0 then Config.normalised v else v
  let v := v.take (keptDims o p d) ++ List.replicate (keptDims o p d - v.length) 0
  { r.bare with vec := vectorBytes (d.num p 0x16 1) v, raw := [], outs := [], kind := 3
                hurt := if r.fieldHurt (d.infield p) then [0xFFFF] else [] }

/-- An Embed stage over records (R90). -/
def stageEmbed (o : Stored) (schema : Option (List FieldD)) (p : List Byte) (d : StageD) (recs : List Rec) : StageOut :=
  let sat := satOf o schema p d recs
  { recs := recs.map (embedRec o schema p d), fmt := 5
    recsz := 8 + roundUp (vectorLen (d.num p 0x16 1) (keptDims o p d)) 8
    nrec := recs.length, poison := (recs.filter (·.poison)).map (·.id), flags := sat.1, fail := sat.2 }

/-- The entries of an Index Insert with host input (R94): item ID and raw code. -/
def insertInput (cb n : Nat) (l : List Byte) : List (Nat × Option (List Byte) × Bool) :=
  (List.range n).map fun i => (field l (i * (8 + cb)) 8, some (slice l (i * (8 + cb) + 8) cb), false)

/-- The entries that records bring (R94): the code named, and whether that is poisoned; see log 111 (DEDUCED). -/
def insertRecs (infield : Nat) (recs : List Rec) : List (Nat × Option (List Byte) × Bool) :=
  recs.map fun r => (r.id, if infield == 0xFFFF then some r.vec else r.field infield, r.fieldHurt infield)

/-- Apply entries to an index one at a time (R165, R166): the index, entries appended, entries rejected. -/
def insertAll (key : Nat × Nat) (order : Nat) (replace : Bool) (l : List (Nat × Option (List Byte) × Bool)) (ix : Index) :
    Index × Nat × Nat :=
  l.foldl (fun (a : Index × Nat × Nat) e => match e.2.1 with
    | none => (a.1, a.2.1, a.2.2 + 1)
    | some code =>
      let r := insertEntry a.1 key order replace e.2.2 e.1 code
      if r.2 then (r.1, a.2.1 + 1, a.2.2) else (r.1, a.2.1, a.2.2 + 1)) (ix, 0, 0)

/-- An Index Insert stage (R94, R95, R165). -/
def stageInsert (c : Cmd) (order : Nat) (d : StageD) (recs : List Rec) (s : State) : State × StageOut :=
  match s.held? c.nsid d.objid with
  | none => (s, {})
  | some ix =>
    let l := if d.src == 3 then insertInput ix.codeBytes (d.num c.params 0x10 4) (inputOf c)
      else insertRecs (d.num c.params 0x14 2) recs
    let r := insertAll (keyOf c) order (bit (d.num c.params 0x16 1) 0) l ix
    (modIndex c.nsid d.objid (fun _ => r.1) s,
     { fmt := 0xA, nrec := r.2.1, stat := r.2.2
       poison := (recs.filter (·.poison)).map (·.id) ++ (l.filter fun e => e.2.2 && e.2.1.isSome).map (·.1) })

/-- The parameters of a Search or Recall Estimate stage. -/
def searchParm (p : List Byte) (d : StageD) : SearchParm :=
  ⟨d.num p 0x18 2, d.num p 0x1A 2, d.num p 0x1C 2, d.num p 0x1E 2, d.num p 0x20 2⟩

/-- What a filter finds at an item ID (R185). -/
def State.look (s : State) (nsid : Nat) (item : Nat) : Found :=
  let no := item / 65536
  match (s.colls nsid).find? fun k => decide (k.first ≤ no ∧ no < k.first + k.nframes) with
  | none => ⟨[], none, false⟩
  | some k =>
    let f := s.frame nsid no
    match classify k f with
    | .empty => ⟨k.fields, none, false⟩
    | .invalid => ⟨k.fields, none, true⟩
    | .records => ⟨k.fields, if f.num 6 2 ≤ item % 65536 then none else recordAt k f (item % 65536), false⟩

/-- A record that is a block of bytes. -/
def blockRec (id : Nat) (b : List Byte) : Rec :=
  { id := id, fields := [], proj := [], vec := [], outs := [], raw := b, kind := 0, poison := false }

/-- The key of an index part in the pool; the parts of an index that the Reservoir holds. -/
def Index.partKey (ix : Index) (f : Nat) : Nat := ix.nsid * 2 ^ 48 + ix.first + f
def State.partsHeld (s : State) (ix : Index) : List PoolUnit :=
  s.resv.units.filter fun u => u.cls == 1 && decide (ix.partKey 0 ≤ u.key ∧ u.key < ix.partKey ix.nframes)

/-- What of an index arrives poisoned on some clusters (R190, R224, R317). -/
def State.indexHurt (s : State) (cs : List Nat) (ix : Index) : Hurt where
  lost := s.lost ix.nsid
  grans := (s.partsHeld ix).flatMap fun u => (s.unitHurt cs u).map fun g => ((u.key - ix.partKey 0) * 1024 + g.1, g.2)

/-- Index parts that the Reservoir holds are read (R194, R321). -/
def readParts (ix : Index) (frames : List Nat) (s : State) : State :=
  (sortDedup frames).foldl (fun s f => modUnit 1 (ix.partKey f) (fun u => { u with age := s.now }) s) s

/-- Index parts that a walk or a link step touches come into the Reservoir and are read (R158, R321); a part for which no room
can be made is fetched and not kept. -/
def touchParts (ix : Index) (frames : List Nat) (s : State) : State :=
  (sortDedup frames).foldl (fun s f =>
    if s.resv.units.any fun u => u.cls == 1 && u.key == ix.partKey f then readParts ix [f] s
    else (allocate 1 (ix.partKey f) ix.part 65536 s.now 0 s).getD s) s

/-- The frames of the centroid table and of the codebooks. -/
def Index.tableFrames (ix : Index) : List Nat := (List.range (ix.regions.getD 1 0 + ix.regions.getD 2 0)).map (· + 1)

/-- The frames of the raw pages of plots. -/
def Index.rawPages (ix : Index) (plots : List Plot) : List Nat := plots.flatMap fun p => p.rpages.map (ix.regionOff 5 + ·)

/-- A Search over this sled's index at an epoch (R179 to R190) on some clusters: one block for each query. `hurt` are the parts of the
input that arrived poisoned. -/
def stageSearch (c : Cmd) (hurt : List (Nat × Nat)) (cs : List Nat) (epoch : Nat) (d : StageD) (s : State) : State × StageOut :=
  match s.held? c.nsid d.objid with
  | none => (s, {})
  | some ix =>
    let p := c.params
    let m := searchParm p d
    let nq := d.num p 0x14 4
    let cb := ix.codeBytes
    let filter := if d.num p 0x24 4 = 0 then none else some (s.look c.nsid, termsOf (listOf p d))
    let bad := s.indexHurt cs ix
    let rs := (List.range nq).map fun i =>
      if hurt.any fun h => decide (h.1 < (i + 1) * cb ∧ i * cb < h.2) then poisonedQuery (2 ^ 63 + i)
      else runQuery ix (ix.plotsAt epoch) bad m filter (2 ^ 63 + i) (slice (inputOf c) (i * cb) cb)
    let recs := rs.zipIdx.map fun x => blockRec (2 ^ 63 + x.2) (searchBlock x.2 m.k false x.1)
    let touch := ix.tableFrames ++ rs.flatMap (·.touch)
    (touchParts ix touch (metUndelivered cs (s.partsHeld ix)
      (modIndex c.nsid d.objid (fun i => { i with stale := i.stale + sumOf (rs.map (·.stale)) }) s)),
     { recs := recs, fmt := 6, recsz := 16 + 16 * m.k, nrec := nq, stat := sumOf (rs.map (·.removed))
       poison := rs.flatMap (·.poison), touch := (sortDedup touch).map (· + ix.first)
       flags := if rs.any (fun r => decide (r.res.length < m.k)) then fSHORT else 0 })

/-- A Recall Estimate (R192 to R194): its walks touch the index as a Search does, its exact search reads every raw page. The cycle counts
are free values (log 9). -/
def stageRecall (c : Cmd) (cs : List Nat) (epoch : Nat) (d : StageD) (s : State) : State × StageOut :=
  match s.held? c.nsid d.objid with
  | none => (s, {})
  | some ix =>
    let p := c.params
    let m := searchParm p d
    let n := d.num p 0x14 4
    let plots := ix.plotsAt epoch
    let bad := s.indexHurt cs ix
    let rs := recallRuns ix plots bad m (d.num p 0x24 4) n
    let counts := rs.map (·.matched)
    let total := sumOf counts
    let hurt := rs.flatMap (·.poison) ++ ((liveItems ix bad plots).filter (·.poison)).map (·.item)
    let touch := ix.tableFrames ++ rs.flatMap (·.touch)
    let s := readParts ix (ix.rawPages plots) (touchParts ix touch (metUndelivered cs (s.partsHeld ix)
      (modIndex c.nsid d.objid (fun i => { i with stale := i.stale + sumOf (rs.map (·.stale)) }) s)))
    let a := draw s
    let b := draw a.2
    let rep := leBytes 4 n ++ leBytes 2 m.k ++ zeros 2 ++ leBytes 8 total ++ leBytes 4 (divF32 total (n * m.k) 0) ++
      leBytes 4 (divF32 (minOf 0 counts) m.k 0) ++ leBytes 8 a.1.toNat ++ leBytes 8 b.1.toNat ++ zeros 24
    (b.2, { recs := [blockRec 0 rep], fmt := 9, recsz := 64, nrec := 1, poison := hurt
            touch := (sortDedup (touch ++ ix.rawPages plots)).map (· + ix.first) })

/-- The items of a collection whose field is present and not poisoned (R160, R195), and what its reading puts on the poison list (R107). -/
def State.eligible (s : State) (nsid : Nat) (k : Coll) (fld : Nat) : List (Nat × List Byte) × List Nat :=
  let seen := s.seeRange nsid k k.first (k.first + k.nframes)
  let recs := (seenRecs seen).filter fun r => (r.field fld).isSome
  (recs.filterMap fun r => if r.fieldHurt fld then none else (r.field fld).map fun b => (r.id, b),
   seenBad seen ++ (recs.filter (·.poison)).map (·.id))

/-- One side of a join read from a collection (R195). -/
def State.joinSide (s : State) (nsid collid fld : Nat) : List (Nat × List Byte) × List Nat :=
  match s.coll? nsid collid with
  | none => ([], [])
  | some k => s.eligible nsid k fld

/-- The code length of a join's field in bits. -/
def State.joinBits (s : State) (c : Cmd) (d : StageD) : Nat :=
  let p := c.params
  let useB := d.num p 0x1B 1 == 1 && d.num p 0x14 4 != 0
  let k := if useB then s.coll? c.nsid (d.num p 0x14 4) else s.coll? c.nsid d.objid
  let f := k.bind fun k => k.fields[if useB then d.num p 0x18 2 else d.num p 0x10 2]?
  match f with
  | some x => x.len
  | none => 64

/-- The probes of a join. -/
def probesOf (c : Cmd) (cb : Nat) : List (Nat × List Byte) :=
  if cb = 0 then [] else (List.range (inlenOf c / cb)).map fun i => (2 ^ 63 + i, slice (inputOf c) (i * cb) cb)

/-- Both sides of a Near Join and the poison list of their reading (Table 6.5). -/
def State.joinSides (s : State) (c : Cmd) (d : StageD) : List (Nat × List Byte) × List (Nat × List Byte) × List Nat :=
  let p := c.params
  let collB := d.num p 0x14 4
  let b := if collB == 0 then s.joinSide c.nsid d.objid (d.num p 0x10 2) else s.joinSide c.nsid collB (d.num p 0x18 2)
  if d.num p 0x1B 1 == 1 then (probesOf c (s.joinBits c d / 8), b.1, b.2)
  else if collB == 0 then (b.1, b.1, b.2)
  else
    let a := s.joinSide c.nsid d.objid (d.num p 0x10 2)
    (a.1, b.1, a.2 ++ b.2)

/-- The scratch of a Near Join in bytes (R199). -/
def joinScratch (cb items pairs : Nat) : Nat := items * (8 + cb) + items * 8 + 24 * pairs

/-- Whether the join is a self join. -/
def selfJoin (p : List Byte) (d : StageD) : Bool := d.num p 0x14 4 == 0 && d.num p 0x1B 1 == 0

/-- A Near Join on this sled alone (R195 to R199). At MAXPAIRS the first pairs in order are delivered (log 18). -/
def stageJoin (c : Cmd) (d : StageD) (s : State) : StageOut × Nat :=
  let p := c.params
  let sides := s.joinSides c d
  let l := s.joinBits c d
  let r := nearPairs (selfJoin p d) l (d.num p 0x12 2) sides.1 sides.2.1
  let max := d.num p 0x20 8
  let hit := max != 0 && decide (max ≤ r.1.length)
  let kept := if hit then r.1.take max else r.1
  let items := sides.1.length + (if selfJoin p d then 0 else sides.2.1.length)
  ({ recs := kept.map fun x => blockRec x.1 (pairRec x), fmt := 7, recsz := 24, nrec := kept.length, stat := r.2
     poison := sides.2.2, flags := if hit then fLIMIT else 0 },
   joinScratch (l / 8) items kept.length)

end Sys2Proof.Machine
end

