-- ==== Sys2Proof/Machine/Output.lean ====
section
/-! DEFINITION. The output of a query command: its stream, where it goes, and what its completion says (R103 to R116). -/

namespace Sys2Proof.Machine

/-- What a command has to deliver: the fields of the reply header (Table 3.16), the record area with its records by offset and
length, the poison list and the missing devices. -/
structure Reply where
  fmt : Nat
  recsz : Nat
  nrec : Nat
  stat : Nat
  epoch : Nat
  flags : Nat
  area : List Byte
  recs : List (Nat × Nat × Rec)
  poison : List Nat
  missing : List Nat
  deriving DecidableEq, Repr

/-- The record area of records in order, with the offset and length of each. -/
def layOut (fmt : Nat) (l : List Rec) : List Byte × List (Nat × Nat × Rec) :=
  l.foldl (fun (a : List Byte × List (Nat × Nat × Rec)) r =>
    let b := r.enc fmt
    (a.1 ++ b, a.2 ++ [(a.1.length, b.length, r)])) ([], [])

/-- The poison list as it is delivered: ascending, at most 65,536 entries (R103, R107). -/
def Reply.list (r : Reply) : List Nat := (sortDedup r.poison).take 65536

/-- Flags of Table 3.20 that the lists set. -/
def Reply.allFlags (r : Reply) : Nat :=
  r.flags ||| (if r.poison.isEmpty then 0 else fPOISON) ||| (if r.missing.isEmpty then 0 else fPARTIAL)

/-- The stream offset of the poison list. -/
def Reply.listOff (r : Reply) : Nat := roundUp (64 + r.area.length) 64

/-- The length of the whole stream. -/
def Reply.total (r : Reply) : Nat := r.listOff + 8 * r.list.length + roundUp (2 * r.missing.length) 8

/-- The reply header (Table 3.16) with flags. -/
def Reply.header (r : Reply) (flags : Nat) : List Byte :=
  leBytes 2 r.fmt ++ leBytes 2 1 ++ leBytes 4 flags ++ leBytes 8 r.nrec ++ leBytes 4 r.recsz ++ leBytes 4 r.list.length ++
  leBytes 8 r.total ++ leBytes 4 r.epoch ++ leBytes 4 r.missing.length ++ leBytes 8 r.stat ++ leBytes 8 r.listOff ++ zeros 8

/-- The whole stream (R103). -/
def Reply.stream (r : Reply) (flags : Nat) : List Byte :=
  r.header flags ++ padTo 64 r.area ++ r.list.flatMap (leBytes 8) ++
    padTo 8 ((sortDedup r.missing).flatMap (leBytes 2))

/-- The records wholly within the first `cap` bytes of the stream. -/
def Reply.whole (r : Reply) (cap : Nat) : Nat := (r.recs.filter fun x => decide (64 + x.1 + x.2.1 ≤ cap)).length

/-- The records that begin at or after a stream offset. -/
def Reply.from_ (r : Reply) (first : Nat) : List Rec := (r.recs.filter fun x => decide (first ≤ 64 + x.1)).map fun x => x.2.2

/-- The stream, or its start, reaches the data buffer: of the record area, the first `done` bytes have been written before (R307). -/
def hostStream (c : Cmd) (done : Nat) (st : List Byte) (s : State) : State :=
  if done = 0 then hostData c.sqid c.cid (outoffOf c) st s
  else hostData c.sqid c.cid (outoffOf c + 64 + done) (st.drop (64 + done)) (hostData c.sqid c.cid (outoffOf c) (st.take 64) s)

/-- Deliver the output of a command (R110, R111), of whose record area `done` bytes have been written: to the data buffer, to a result set, or to both. Answers completion dwords 0
and 1; none when a result set is needed that cannot be made. -/
def deliver (opc : Nat) (c : Cmd) (part : Nat) (r : Reply) (done : Nat) (s : State) : State × Option (Nat × Nat) :=
  if dirOf opc < 2 then
    (s, some (r.allFlags * 2 ^ 24 + r.stat % 2 ^ 24, r.nrec % 2 ^ 32))
  else if rsoOf c then
    let fl := r.allFlags ||| fRSV
    match createSet c.nsid part 0 r.total r.fmt r.nrec (leaseOf c) (r.stream fl) (r.from_ 0) s with
    | none => (exhausted s, none)
    | some x => (x.1, some (fl * 2 ^ 24 + x.2, r.nrec % 2 ^ 32))
  else
    let cap := outlenOf c * 4096
    if r.total ≤ cap then
      (hostStream c done (r.stream r.allFlags) s, some (r.allFlags * 2 ^ 24, r.nrec % 2 ^ 32))
    else
      let fl := r.allFlags ||| fRSV ||| fOVF
      let st := r.stream fl
      let s := hostStream c done (st.take cap) s
      match createSet c.nsid part cap r.total r.fmt r.nrec (leaseOf c) (st.drop cap) (r.from_ cap) s with
      | none => (exhausted s, none)
      | some x => (x.1, some (fl * 2 ^ 24 + x.2, r.nrec % 2 ^ 32))

/-- Whether a status is one of execution (Table 3.22), after which dword 0 is as Table 3.20 gives. -/
def Status.execution (st : Status) : Bool :=
  [.timingFault, .jobWatchdog, .poisonedResult, .remoteUnreachable, .remoteTimeout, .tierFailed, .saturationLimit,
    .poolExhausted].contains st

/-- The completion dwords of a command that ends with a status other than success (R115): after an execution status the flags, and
the records that were wholly written; see log 59 (DEDUCED). -/
def failDwords (st : Status) (c : Cmd) (flags written : Nat) : Nat × Nat :=
  if st.execution then (flags * 2 ^ 24, if rsoOf c then 0 else written % 2 ^ 32) else (0, 0)

end Sys2Proof.Machine
end

