-- ==== Sys2Proof/Machine/Remote.lean ====
section
/-! DEFINITION. Remote operations of a job: binding, starting and ending (R215, R376 to R379). -/

namespace Sys2Proof.Machine

/-- The flow of a cluster's engine or control core (R372). -/
def flowFor (c e : Nat) : Nat := 4 * c + (if e == 5 then 0 else if e == 0 then 1 else 2)

/-- The message of a cluster's operation (Table 13.4). -/
def State.opMsg (s : State) (typ dst c e opid : Nat) : Msg :=
  let tag := match s.runOf c with
    | some r => r.job.cmd.cdw15.toNat
    | none => 0
  { s.msg typ dst (flowFor c e) with sgen := (s.clu c).ctxgen, jobtag := tag, sclu := c, opid := opid }

/-- The binding of a partition's job to a device. -/
def State.binding? (s : State) (p d : Nat) : Option Binding :=
  s.lnk.binds.find? fun b => b.part == p && b.dev == d

/-- Remove an operation, and let the command that issued it go on without it. -/
def dropOp (o : RemOp) (s : State) : State :=
  let s := s.modLnk fun l => { l with ops := l.ops.filter fun x => x.opid != o.opid }
  let s := if o.eng < 5 then
      modClu o.clu (Clu.modQ o.eng fun q => { q with
        act := q.act.map fun a => if a.cmd.seq == o.seq then { a with ops := a.ops.filter (· != o.opid) } else a }) s
    else s
  if (s.remoteOf o.clu).isEmpty then modClu o.clu (fun x => { x with tdPend := false }) s else s

/-- A remote operation ends without completing (R215, R378): every destination granule of a read is written poisoned; with PARTOK the
device is listed as missing and the job runs on, otherwise the job ends with the status. -/
def failOp (o : RemOp) (st : Status) (s : State) : State :=
  let s := s.modLnk fun l => { l with
    timeout := if st == .remoteTimeout then sat32 l.timeout else l.timeout
    unreach := if st == .remoteUnreachable then sat32 l.unreach else l.unreach }
  let n := sumOf (o.dest.map fun p => p.2 / 64)
  let s := modClu o.clu (fun x => o.dest.foldl (fun x p => x.setPois (p.1 / 64) (p.2 / 64) true) x) s
  let s := poisonOrigin o.clu (if o.kind == 0 then n else 0) { kind := 0x0E, inst := o.clu, part := o.part } s
  let s := dropOp o s
  if s.tearing o.part then s
  else
    match (s.part o.part).run with
    | none => s
    | some r =>
      if partokOf r.job.cmd then
        modRun o.part (fun r => { r with missing := if r.missing.contains o.dev then r.missing else r.missing ++ [o.dev] }) s
      else contextError o.part { kind := 0x0E, inst := o.dev } st s

/-- A device becomes lost (R376): event 05h and the list of lost devices when operations or fan-outs to it are in flight; its
operations end as unreachable. -/
def loseDevice (d : Nat) (s : State) : State :=
  if (s.peerDev d).lost then s
  else
    let busy := s.lnk.ops.any (fun o => o.dev == d) || s.lnk.fans.any fun f => f.waiting.any fun w => w.1 == d
    let s := modPeer d (fun p => { p with lost := true }) s
    let s := if busy then
        raiseEvent 7 5 0xC6 (s.modLnk fun l => { l with lostLog := ((d, s.ms) :: l.lostLog).take 256 })
      else s
    (s.lnk.ops.filter fun o => o.dev == d).foldl (fun s o => failOp o .remoteUnreachable s) s

/-- Start a remote operation (R377): its messages go out at once when the job is bound to the device, and wait for the binding
otherwise; the job's first operation to the device asks for it. An unreachable device ends it at once. -/
def startOp (c e seq dev kind : Nat) (pieces : List (Nat × Nat × Nat)) (msgs : List Msg) (s : State) : State :=
  match s.jobPart c with
  | none => s
  | some p =>
    let id := s.lnk.nextOp
    let msgs := msgs.map fun m => { m with opid := id }
    let o : RemOp :=
      { opid := id, kind := kind, part := p, clu := c, eng := e, seq := seq, dev := dev, start := s.now
        until_ := s.now + s.rtmo, waiting := [], left := msgs.length, pieces := pieces
        dest := pieces.map (·.2) }
    let s := s.modLnk fun l => { l with nextOp := (l.nextOp + 1) % 2 ^ 32 }
    let s := if e < 5 then
        modClu c (Clu.modQ e fun q => { q with
          act := q.act.map fun a => if a.cmd.seq == seq then { a with ops := a.ops ++ [id] } else a }) s
      else s
    if !s.reachable dev then
      let s := s.modLnk fun l => { l with ops := l.ops ++ [o] }
      if (s.peerDev dev).lost then failOp o .remoteUnreachable s else loseDevice dev s
    else
      match s.binding? p dev with
      | some b =>
        if b.bound then
          let s := s.modLnk fun l => { l with ops := l.ops ++ [o] }
          msgs.foldl (fun s m => emit { m with inst := b.inst } s) s
        else s.modLnk fun l => { l with ops := l.ops ++ [{ o with waiting := msgs }] }
      | none =>
        let tag := match s.runOf c with
          | some r => r.job.cmd.cdw15.toNat
          | none => 0
        let s := s.modLnk fun l => { l with
          ops := l.ops ++ [{ o with waiting := msgs }], binds := l.binds ++ [⟨p, dev, false, 0, [], []⟩] }
        emit { s.msg 0x10 dev 128 with opid := id, jobtag := tag, payload := contextGens p s } s

/-- A remote signal (Table 13.5): RSIG with the object and count in ADDR. The CTXGEN of R222, for which the header has no
field, is byte 0 of the payload (DESIGN CHOICE, log 32). -/
def sendRemote (c e seq obj n dev : Nat) (s : State) : State :=
  let gen := match s.jobPart c with
    | some p => (match s.binding? p dev with | some b => b.ctxgens.getD (obj / 128) 0 | none => 0)
    | none => 0
  let m := { s.opMsg 0x16 dev c e 0 with addr := BitVec.ofNat 64 (obj + n * 2 ^ 32), payload := leBytes 1 gen }
  startOp c e seq dev 2 [] [m] s

/-- Send a signal of a kind (R217): 1 local, 2 device, 3 remote; 0 sends none. -/
def sendSignal (c e seq kind obj n dev : Nat) (s : State) : State :=
  if kind == 1 then applySignal obj n 0x3FFF c s
  else if kind == 2 then sendDevice c obj n s
  else if kind == 3 then sendRemote c e seq obj n dev s
  else s

end Sys2Proof.Machine
end

