-- ==== Sys2Proof/Machine/Jobs.lean ====
section
/-! DEFINITION. Jobs on their queues: what a job names, how it ends for its command, model loads, and selection (R291 to R294,
R299 to R304). -/

namespace Sys2Proof.Machine

/-- The code of a status: status code type times 256 plus status code (Table 3.22; the standard's own codes PRESUMED, log 27). -/
def Status.code : Status → Nat
  | .success => 0x000
  | .invalidOpcode => 0x001
  | .invalidField => 0x002
  | .cidConflict => 0x003
  | .internalError => 0x006
  | .abortRequested => 0x007
  | .sqDeletion => 0x008
  | .invalidNamespace => 0x00B
  | .commandSequence => 0x00C
  | .sglLength => 0x00F
  | .sanitizeFailed => 0x01C
  | .sanitizeInProgress => 0x01D
  | .writeProtected => 0x020
  | .lbaOutOfRange => 0x080
  | .capacityExceeded => 0x081
  | .cqInvalid => 0x100
  | .invalidQueueId => 0x101
  | .invalidQueueSize => 0x102
  | .abortLimit => 0x103
  | .aerLimit => 0x105
  | .invalidFwSlot => 0x106
  | .invalidFwImage => 0x107
  | .invalidVector => 0x108
  | .invalidLogPage => 0x109
  | .invalidFormat => 0x10A
  | .invalidQueueDeletion => 0x10C
  | .notSaveable => 0x10D
  | .notChangeable => 0x10E
  | .overlappingRange => 0x114
  | .nsCapacity => 0x115
  | .nsIdUnavailable => 0x116
  | .nsAttached => 0x118
  | .nsNotAttached => 0x11A
  | .controllerList => 0x11C
  | .selfTestInProgress => 0x11D
  | .unrecoveredRead => 0x281
  | .accessDenied => 0x286
  | .checkFailed => 0x780
  | .commitPending => 0x781
  | .partitionBusy => 0x782
  | .notResident => 0x783
  | .timingFault => 0x784
  | .jobWatchdog => 0x785
  | .poisonedResult => 0x786
  | .remoteUnreachable => 0x788
  | .remoteTimeout => 0x789
  | .programBusy => 0x78A
  | .epochStale => 0x78B
  | .tierFailed => 0x78C
  | .trickle => 0x78D
  | .saturationLimit => 0x78E
  | .poolExhausted => 0x78F

/-- The statuses with which a job can end, for the reply of a fan-out. -/
def jobStatuses : List Status :=
  [.invalidField, .internalError, .abortRequested, .invalidNamespace, .commandSequence, .checkFailed, .commitPending,
   .partitionBusy, .notResident, .timingFault, .jobWatchdog, .poisonedResult, .remoteUnreachable, .remoteTimeout,
   .programBusy, .epochStale, .tierFailed, .saturationLimit, .poolExhausted]

/-- The status of a code; a code that no job ends with counts as Internal Error. -/
def statusOf (n : Nat) : Status :=
  if n = 0 then .success else (jobStatuses.find? fun x => x.code == n).getD .internalError

/-- The stages of a job; maintenance jobs have none. -/
def Job.stages (j : Job) : List StageD :=
  match j.kind with
  | .command => if hasParams j.opc then stagesOf j.cmd else []
  | .fan _ _ => stagesOf j.cmd
  | _ => []

/-- Whether a stage runs an installed model; the program that a stage runs, 0 for none. -/
def StageD.isModel (d : StageD) : Bool := d.sopc == 0x87 || d.sopc == 0x8A
def StageD.prog (p : List Byte) (d : StageD) : Nat :=
  if d.sopc == 0xA7 then d.num p 0x10 4 else if d.sopc == 0x82 then d.num p 0x18 4 else 0

/-- The models and the programs that a job names. -/
def Job.models (j : Job) : List Nat :=
  distinct ((j.stages.filter StageD.isModel).map fun d => d.num j.cmd.params 0x10 4)
def Job.programs (j : Job) : List Nat :=
  distinct ((j.stages.map (StageD.prog j.cmd.params)).filter (· != 0))

/-- Parts of a message body of at most 8,192 bytes: offset and bytes; an empty body is one empty part. -/
def partsOf (b : List Byte) : List (Nat × List Byte) :=
  (List.range (max 1 ((b.length + 8191) / 8192))).map fun i => (8192 * i, (b.drop (8192 * i)).take 8192)

/-- Send a body in parts: OPID tells bodies apart, ADDR holds offset and whole length (DESIGN CHOICE, log 32). -/
def sendParts (typ dev opid jobtag inst : Nat) (b : List Byte) (s : State) : State :=
  (partsOf b).foldl (fun s p =>
    emit { s.msg typ dev 128 with
      opid := opid, jobtag := jobtag, inst := inst
      addr := BitVec.ofNat 64 (p.1 + b.length * 2 ^ 32), payload := p.2 } s) s

/-- Answer a fan-out (R381): INST is the status, the body the blocks and the poison list (log 32). -/
def answerFan (dev tag : Nat) (st : Status) (blocks : List Byte) (poison : List Nat) (s : State) : State :=
  sendParts 0x22 dev tag 0 st.code (leBytes 4 blocks.length ++ blocks ++ poison.flatMap (leBytes 8)) s

/-- The Publish, or the compaction, of an index ends without a new epoch (R176): its entries stay pending, and a Publish that
waits behind it comes next. -/
def Index.stopWork (ix : Index) : Index :=
  match ix.work with
  | .publish _ _ order _ =>
    { ix with work := .none, next := none
              pend := ix.pend.map fun e => if e.taken == order + 1 then { e with taken := 0 } else e }
  | _ => { ix with work := .none, next := none }

/-- Withdraw what a command appended to the pending logs (R52). -/
def withdrawInserts (key : Nat × Nat) (s : State) : State :=
  s.modIdx (·.map fun ix => { ix with pend := ix.pend.filter fun e => !(e.sqid == key.1 && e.cid == key.2 && !e.done) })

/-- Complete a command that is still in flight. -/
def completeIf (key : Nat × Nat) (st : Status) (dw0 dw1 : Nat) (s : State) : State :=
  match s.flight? key.1 key.2 with
  | some _ => complete key.1 key.2 st dw0 dw1 s
  | none => s

/-- A job ends for what it works for: its command completes, a fan-out is answered, maintenance work that failed is undone. -/
def endFor (j : Job) (st : Status) (dw0 dw1 : Nat) (s : State) : State :=
  let key := (j.sqid, j.cid)
  let s := s.modIdx (·.map fun ix => pruneImages { ix with bound := ix.bound.filter fun b => b.2 != key })
  match j.kind with
  | .command =>
    let s := unuseSets false key s
    let s := if st == .success then s else
      match j.opc with
      | 0xA0 => s.modIdx (·.map fun ix => match ix.work with
        | .compact sq cid _ _ _ => if (sq, cid) == key then ix.stopWork else ix
        | _ => ix)
      | _ => if st == .abortRequested || st == .sqDeletion then withdrawInserts key s else s
    completeIf key st dw0 dw1 s
  | .link nsid idx =>
    if st == .success then s
    else completeIf key st dw0 dw1 (modIndex nsid idx (fun ix => match ix.work with
      | .publish sq cid _ _ => if (sq, cid) == key then ix.stopWork else ix
      | _ => ix) s)
  | .train nsid idx =>
    if st == .success then s
    else completeIf key st dw0 dw1 (s.modIdx (·.filter fun ix => !(ix.nsid == nsid && ix.id == idx &&
      (match ix.work with | .training sq cid => (sq, cid) == key | _ => false))))
  | .fan dev tag => if st == .success then s else answerFan dev tag st [] [] s

/-- Remove a job from the queues of its partition and from the place of the selected job. -/
def takeJob (j : Job) (s : State) : State :=
  modPart j.part (fun p => { p with
    queues := p.queues.map fun q => q.filter (· != j)
    sel := if p.sel == some j then none else p.sel }) s

/-- The hot-set entry of a model (R303). -/
def State.hot? (s : State) (m : Nat) : Option Hot := s.store.hot.find? fun h => h.id == m
def modHot (m : Nat) (f : Hot → Hot) (s : State) : State :=
  s.modStore fun t => { t with hot := t.hot.map fun h => if h.id == m then f h else h }

/-- Whether a model is resident; is being loaded or waits for its load; whether an identifier is being installed (R302). -/
def State.resident (s : State) (m : Nat) : Bool := match s.hot? m with | some h => !h.loading | none => false
def State.loading (s : State) (m : Nat) : Bool :=
  s.store.loadQ.contains m || (match s.hot? m with | some h => h.loading | none => false)
def State.installing (s : State) (id : Nat) : Bool := s.store.installing.contains id

/-- Whether a model in the hot set is pinned (R304). -/
def State.pinned (s : State) (m : Nat) : Bool := match s.stored? m with | some o => o.model && o.pin | none => false

/-- The model that a 65th makes leave the hot set (R303). -/
def hotVictim (s : State) : Option PoolUnit :=
  (s.resv.units.filter fun u => u.cls == 3 && s.evictable u).foldl (fun (b : Option PoolUnit) u => match b with
    | none => some u
    | some v => if u.age < v.age ∨ u.age = v.age ∧ u.order < v.order then some u else b) none

/-- Begin to load a model: room is made by eviction (R303, R322); none when that fails. -/
def loadNow (m : Nat) (s : State) : Option State :=
  (s.stored? m).bind fun o =>
    (if s.store.hot.length < 64 then some s else (hotVictim s).map fun u => dropUnit u s).bind fun s =>
      (allocate 3 m 8 o.bytes.length s.now (1 + b2n o.pin) s).map fun s =>
        s.modStore fun t => { t with hot := t.hot ++ [⟨m, true, 0, 0, 0, o.bytes.length⟩] }

/-- Start a load: at most 4 run, the others wait in the order in which they were started (R303). -/
def startLoad (m : Nat) (s : State) : Option State :=
  if s.resident m || s.loading m then some s
  else if (s.store.hot.filter (·.loading)).length < 4 then loadNow m s
  else some (s.modStore fun t => { t with loadQ := t.loadQ ++ [m] })

/-- Start the loads of several models; none when one has no room. -/
def startLoads : List Nat → State → Option State
  | [], s => some s
  | m :: ms, s => match startLoad m s with
    | some s => startLoads ms s
    | none => none

/-- A Publish on an index is in progress: its link work, or its wait for a compaction (R168). -/
def Index.publishing (ix : Index) : Bool :=
  (match ix.work with | .publish _ _ _ _ => true | _ => false) || !ix.waiting.isEmpty

/-- An Index Compact that waits for a Publish on its index (R168). -/
def State.compactHeld (s : State) (j : Job) : Bool :=
  j.opc == 0xA0 && (match s.held? j.cmd.nsid j.cmd.cdw13.toNat with
    | some ix => ix.publishing
    | none => false)

/-- Whether the head of a queue is ready (R293). -/
def State.jobReady (s : State) (j : Job) : Bool := !(j.models.any s.loading) && !s.compactHeld j

/-- The DEFICITs and last(p) as a selection leaves them, LOADWAIT's advance, the queue chosen. -/
structure Sel where
  deficit : List Int
  last : Nat
  waits : Nat
  found : Option Nat
  deriving DecidableEq, Repr

/-- What a queue holds for a selection: nothing, or whether its head is ready and whether it waits for a load. -/
def State.headOf (s : State) (p q : Nat) : Option (Bool × Bool) :=
  match ((s.part p).queues.getD q []).head? with
  | none => none
  | some j => some (s.jobReady j, j.models.any s.loading)

/-- What a queue gains when it is visited with a DEFICIT of 0 or less. -/
def State.gain (s : State) (p q : Nat) : Int :=
  ((s.cfg.conf.queues.getD (16 * p + q) (false, 0)).2 * s.cfg.conf.quantum.getD p 0 : Nat)

/-- Whether a queue is enabled. -/
def State.qen (s : State) (p q : Nat) : Bool := (s.cfg.conf.queues.getD (16 * p + q) (false, 0)).1

/-- One visit of R293's loop. -/
def visit (s : State) (p : Nat) (a : Sel) (q : Nat) : Sel :=
  if a.found.isSome then a
  else
    let a := { a with last := q }
    match s.headOf p q with
    | none => { a with deficit := a.deficit.set q 0 }
    | some h =>
      let d := a.deficit.getD q 0
      let d := if d ≤ 0 then d + s.gain p q else d
      let a := { a with deficit := a.deficit.set q d }
      if 0 < d && h.1 then { a with found := some q }
      else if 0 < d && h.2 then { a with waits := a.waits + 1 }
      else a

/-- The visits that a queue needs until its DEFICIT is positive. -/
def visitsFor (d g : Int) : Nat := if 0 < d then 1 else if g ≤ 0 then 2 ^ 64 else ((-d) / g).toNat + 1

/-- A DEFICIT after `n` visits that choose nothing. -/
def afterVisits (d g : Int) (n : Nat) : Int := if 0 < d then d else d + g * (min n (visitsFor d g) : Nat)

/-- R293's loop for the jobs that are not deadline jobs: rounds in which no queue can be chosen are taken together, then one round
in order. -/
def roundRobin (s : State) (p : Nat) : Sel :=
  let x := s.part p
  let qs := ((List.range 16).map fun i => (x.last + 1 + i) % 16).filter (s.qen p)
  let ready := qs.filter fun q => match s.headOf p q with | some h => h.1 | none => false
  let start : Sel := ⟨x.deficit, x.last, 0, none⟩
  if ready.isEmpty then start
  else
    let n := minOf (2 ^ 64) (ready.map fun q => visitsFor (x.deficit.getD q 0) (s.gain p q)) - 1
    let d := x.deficit.zipIdx.map fun a =>
      if n = 0 || !s.qen p a.2 then a.1
      else if (s.headOf p a.2).isNone then 0
      else afterVisits a.1 (s.gain p a.2) n
    qs.foldl (visit s p) { start with deficit := d }

/-- The deadline job of a partition that is selected: the earliest fetch time plus deadline, ties in fetch order (R293); one whose pinned
model is being loaded waits on its queue (R304). -/
def deadlineJob (s : State) (p : Nat) : Option Job :=
  ((s.part p).queues.flatMap id).foldl (fun (b : Option Job) j =>
    if !j.dl || s.compactHeld j || j.models.any (fun m => s.pinned m && s.loading m) then b
    else match b with
      | none => some j
      | some k =>
        let a := j.fetched + j.deadline
        let c := k.fetched + k.deadline
        if a < c ∨ a = c ∧ j.order < k.order then some j else b) none

/-- next_job of R293: the job stays on its queue until it is taken. -/
def nextJob (p : Nat) (s : State) : State × Option Job :=
  match deadlineJob s p with
  | some j => (s, some j)
  | none =>
    let r := roundRobin s p
    match r.found with
    | none => (s, none)
    | some q =>
      (modPart p (fun x => { x with
        deficit := r.deficit, last := r.last, cnt := { x.cnt with loadWait := x.cnt.loadWait + r.waits } }) s,
       ((s.part p).queues.getD q []).head?)

/-- The models that must be loaded before a job can be dispatched. -/
def State.toLoad (s : State) (j : Job) : List Nat :=
  j.models.filter fun m => (match s.stored? m with | some o => o.model | none => false) && !s.resident m && !s.installing m

/-- Select a job whose models are resident; the first selection of another starts their loads (R303). `n` bounds the
selections. -/
def selectJob (p : Nat) : Nat → State → State × Option Job
  | 0, s => (s, none)
  | n + 1, s =>
    let r := nextJob p s
    match r.2 with
    | none => r
    | some j =>
      let ms := r.1.toLoad j
      if j.dl || ms.isEmpty then r
      else match startLoads ms r.1 with
        | some s => selectJob p n s
        | none => selectJob p n (endFor j .poolExhausted 0 0 (takeJob j (exhausted r.1)))

/-- More selections than a partition can make at once. -/
def selBound (s : State) (p : Nat) : Nat := 2 * ((s.part p).queues.flatMap id).length + 2

/-- The jobs that a load was started for: heads of queues that name the model. -/
def loadWaiters (s : State) (m : Nat) : List Job :=
  s.parts.flatMap fun p => (p.queues.filterMap (·.head?)).filter fun j => !j.dl && j.models.contains m

/-- The installs that wait for a model to be resident (R301, R304). -/
def pinWaiters (s : State) (m : Nat) : List Flight :=
  s.nvm.flights.filter fun f => f.opc == 0xD1 && f.phase == .executing && f.cmd.cdw10.toNat == m

/-- The installs that wait for a model complete. -/
def endPins (m : Nat) (st : Status) (s : State) : State :=
  (pinWaiters s m).foldl (fun s f =>
    complete f.sqid f.cid st 0 0 (s.modStore fun t => { t with installing := t.installing.filter (· != m) })) s

/-- Start the loads that wait, while fewer than 4 run; one without room ends the jobs that wait for it (R303). -/
def pumpLoads : Nat → State → State
  | 0, s => s
  | n + 1, s =>
    match s.store.loadQ with
    | [] => s
    | m :: ms =>
      if 4 ≤ (s.store.hot.filter (·.loading)).length then s
      else
        let t := s.modStore fun t => { t with loadQ := ms }
        match loadNow m t with
        | some s => pumpLoads n s
        | none => pumpLoads n ((loadWaiters t m).foldl (fun s j => endFor j .poolExhausted 0 0 (takeJob j s))
            (endPins m .poolExhausted (exhausted t)))

/-- The key of the memory of a model that was replaced or removed while it was in use (R302). -/
def orphanKey (m : Nat) : Nat := m + 2 ^ 32

/-- A use of a replaced or removed model ends: its memory is freed with the last one. -/
def unuseOrphan (m : Nat) (s : State) : State :=
  let s := modUnit 3 (orphanKey m) (fun u => { u with users := u.users - 1 }) s
  s.modResv fun r => { r with units := r.units.filter fun u => !(u.cls == 3 && u.key == orphanKey m && u.users == 0) }

/-- A use of a model ends, which began with the package `copy` (R302, R303). -/
def unuseModel (m : Nat) (copy : List Byte) (s : State) : State :=
  let same := match s.stored? m, s.hot? m with | some o, some h => o.bytes == copy && h.inUse != 0 | _, _ => false
  if same then
    modUnit 3 m (fun u => { u with users := u.users - 1, age := s.now })
      (modHot m (fun h => { h with inUse := h.inUse - 1, lastUse := s.ms }) s)
  else unuseOrphan m s

/-- A model leaves the hot set because its object is replaced or removed: memory in use stays until its last user ends (R302). -/
def orphanModel (m : Nat) (s : State) : State :=
  match s.hot? m with
  | none => s
  | some h =>
    let s := s.modStore fun t => { t with hot := t.hot.filter fun x => x.id != m }
    if h.inUse = 0 then freeUnit 3 m s
    else modUnit 3 m (fun u => { u with key := orphanKey m, users := h.inUse }) s

/-- A use of a model begins. -/
def useModel (m : Nat) (s : State) : State :=
  modUnit 3 m (fun u => { u with users := u.users + 1 })
    (modHot m (fun h => { h with inUse := h.inUse + 1, uses := h.uses + 1 }) s)

end Sys2Proof.Machine
end

