-- ==== Sys2Proof/Machine/Training.lean ====
section
/-! DEFINITION. Index Create: its structure, its checks and its training (R159 to R163). -/

namespace Sys2Proof.Machine

/-- Fields of the parameter structure of an Index Create (Table 5.6), as the data of its command. -/
def icNum (c : Cmd) (off n : Nat) : Nat := field c.data off n
def icProduct (c : Cmd) : Bool := icNum c 1 1 == 1
def icBits (c : Cmd) : Nat := icNum c 2 2
def icId (c : Cmd) : Nat := icNum c 4 4
def icFirst (c : Cmd) : Nat := icNum c 8 8
def icFrames (c : Cmd) : Nat := icNum c 0x10 8
def icMax (c : Cmd) : Nat := icNum c 0x18 8
def icPlots (c : Cmd) : Nat := icNum c 0x20 4
def icDeg (c : Cmd) : Nat := icNum c 0x24 1
def icInline (c : Cmd) : Bool := bit (icNum c 0x29 1) 0
def icSrc (c : Cmd) : Nat := bits (icNum c 0x29 1) 2 1

/-- Whether codebooks are trained, and whether anything is. -/
def icBooks (c : Cmd) : Bool := icProduct c && !icInline c
def icTrains (c : Cmd) : Bool := icSrc c == 0 || icBooks c

/-- KIND and CODEBITS are as Table 5.1 allows. -/
def icBitsOk (c : Cmd) : Bool :=
  let b := icBits c
  if icProduct c then decide (512 ≤ b ∧ b ≤ 2048) && b % 256 == 0 else decide (64 ≤ b ∧ b ≤ 2048) && b % 64 == 0

/-- REQ of the structure (R153). -/
def icReq (c : Cmd) : Nat := reqFrames (icProduct c) (icBits c) (icDeg c) (icMax c) (icPlots c)

/-- Whether the fields on which REQ depends are valid. -/
def icReqOk (c : Cmd) : Bool :=
  decide (icNum c 1 1 ≤ 1) && icBitsOk c && decide (1 ≤ icMax c ∧ icMax c ≤ 2 ^ 36) &&
  decide (1 ≤ icPlots c ∧ icPlots c ≤ 65536) && [16, 24, 32, 48, 64].contains (icDeg c)

/-- The fields in ascending byte order (R159). -/
def icFields (c : Cmd) (s : State) : List (Bool × Nat) :=
  let fl := icNum c 0x29 1
  let coll := s.coll? c.nsid (icNum c 0x2C 4)
  let n := icNum c 0x34 4
  [(icNum c 0 1 == 1, 0), (decide (icNum c 1 1 ≤ 1), 1), (icBitsOk c, 2),
   (icId c != 0 && !((s.idxOf c.nsid).any fun i => i.id == icId c) &&
     decide ((s.idxOf c.nsid).length < 64 ∧ s.idx.length < 256), 4),
   (decide (1 ≤ icMax c ∧ icMax c ≤ 2 ^ 36), 0x18), (decide (1 ≤ icPlots c ∧ icPlots c ≤ 65536), 0x20),
   ([16, 24, 32, 48, 64].contains (icDeg c), 0x24), (decide (16 ≤ icNum c 0x25 1 ∧ icNum c 0x25 1 ≤ 32), 0x25),
   (decide (16 ≤ icNum c 0x26 2 ∧ icNum c 0x26 2 ≤ 1024 ∧ icDeg c ≤ icNum c 0x26 2), 0x26),
   (decide (icNum c 0x28 1 ≤ 15), 0x28),
   (bits fl 7 3 == 0 && decide (icSrc c ≤ 1) && (!icInline c || icProduct c) &&
     c.cdw10.toNat == 64 + (if icInline c then icBits c / 64 * 2048 else 0), 0x29),
   (s.present (icNum c 0x2A 1), 0x2A), (icNum c 0x2B 1 == 0, 0x2B), (coll.isSome, 0x2C),
   (match coll.bind fun k => k.fields[icNum c 0x30 2]? with
     | some f => f.isCode && f.len == icBits c
     | none => false, 0x30),
   (!icTrains c || decide (1 ≤ icNum c 0x32 2 ∧ icNum c 0x32 2 ≤ 64), 0x32),
   (!icTrains c || decide (n ≤ 1048576) && (icSrc c != 0 || decide (icPlots c ≤ n)) && (!icBooks c || decide (256 ≤ n)), 0x34),
   (zeroAt c.data 0x3C 4, 0x3C)]

/-- Whether an extent may hold the index (R163 step 3). -/
def icExtentOk (c : Cmd) (s : State) : Bool :=
  let a := icFirst c
  let n := icFrames c
  let cat := catalogue (s.nsMem c.nsid) (s.lost c.nsid)
  decide (a + n ≤ s.nsFrames c.nsid ∧ 1 ≤ a) &&
  cat.all (fun e => !decide (a ≤ e.2 ∧ e.2 < a + n)) &&
  (s.idxOf c.nsid).all (fun i => !overlap a n i.first i.nframes) &&
  (s.colls c.nsid).all fun k => !overlap a n k.first k.nframes

/-- How an Index Create fails: a dword, or a byte of the structure. -/
def icCheck (c : Cmd) (s : State) : Option Bad :=
  let len := c.cdw10.toNat
  if !(len == 64 || decide (64 + 8 * 2048 ≤ len ∧ len ≤ 64 + 32 * 2048) && (len - 64) % 8192 == 0) then some (.dword 10)
  else match firstBad ([c.cdw11, c.cdw12, c.cdw13, c.cdw14, c.cdw15].zipIdx.map fun x => (x.1 == 0, Bad.dword (11 + x.2))) with
    | some b => some b
    | none => match firstBad (icFields c s) with
      | some off => some (.param off)
      | none =>
        if icFrames c < icReq c then some (.param 0x10)
        else if !icExtentOk c s then some (.param 8) else none

/-- Complete an Index Create that failed a check: once the structure has been read, dword 1 is REQ, 0 where a field it depends on is
invalid (R159); see log 61 (DEDUCED). -/
def icFail (b : Bad) (c : Cmd) (s : State) : State :=
  match b with
  | .param off => doneWith c .invalidField (0x80000000 + off) (if icReqOk c then icReq c else 0) s
  | b => failWith b c s

/-- The eligible records: item ID and code (R160). -/
def icEligible (c : Cmd) (k : Option Coll) (s : State) : List (Nat × List Byte) :=
  match k with
  | some k => (s.eligible c.nsid k (icNum c 0x30 2)).1
  | none => []

/-- The outcome of training: centroids and codebooks, or the byte at which the command fails. -/
def icTrain (c : Cmd) (k : Option Coll) (s : State) : Except Nat (List (List Byte) × List (List (List Byte))) :=
  let el := icEligible c k s
  let n := icNum c 0x34 4
  let iter := icNum c 0x32 2
  let at_ := if icSrc c == 1 then 0x2C else 0x34
  let draw_ := (sample (·.1) (icNum c 0x38 4) n el).map (·.2)
  let cents : Except Nat (List (List Byte)) :=
    if icSrc c == 1 then
      if el.length = icPlots c then .ok ((sortBy (·.1) el).map (·.2)) else .error 0x2C
    else if el.length < n then .error 0x34
    else match train draw_ (icPlots c) iter with
      | some l => .ok l
      | none => .error 0x34
  let m := icBits c / 64
  match cents with
  | .error off => .error off
  | .ok cs =>
    if !icProduct c then .ok (cs, [])
    else if icInline c then
      .ok (cs, (List.range m).map fun k => (List.range 256).map fun w => slice c.data (0x40 + 2048 * k + 8 * w) 8)
    else if el.length < n then .error at_
    else
      let books := (List.range m).map fun k => train (draw_.map fun x => subspace x k) 256 iter
      if books.any (·.isNone) then .error at_ else .ok (cs, books.map (·.getD []))

/-- The index as it stands while its training job waits (R161). -/
def icIndex (c : Cmd) (sqid cid : Nat) : Index :=
  { nsid := c.nsid, id := icId c, product := icProduct c, codeBits := icBits c, deg := icDeg c
    alpha16 := icNum c 0x25 1, buildcq := icNum c 0x26 2, first := icFirst c, nframes := icFrames c
    maxItems := icMax c, retain := icNum c 0x28 1, part := icNum c 0x2A 1, centroids := [], codebooks := []
    plots := [], dir := [], pend := [], epoch := 1, images := [], bound := [], work := .training sqid cid
    waiting := [], next := none, stale := 0, rejDup := 0, rejPois := 0, rejFull := 0, rejPend := 0
    reclaimed := 0, sweeps := 0, dropping := none }

end Sys2Proof.Machine
end

