-- ==== Sys2Proof/Machine/Bounds.lean ====
section
/-! DEFINITION. What a job presents, its cycle bound, and the sequences of model stages (R259, R295 to R298, R306 to R308). -/

namespace Sys2Proof.Machine

/-- Fields of an image header (Table 8.18). -/
def imgUnit (b : List Byte) : Nat := field b 6 1
def imgLen (b : List Byte) : Nat := field b 8 4
def imgEntry (b : List Byte) : Nat := field b 0xC 4
def imgDmLen (b : List Byte) : Nat := field b 0x10 4
def imgShareMin (b : List Byte) : Nat := field b 0x14 4
def imgXmax (b : List Byte) : Nat := field b 0x20 8
def imgRegion (b : List Byte) (r : Nat) : Nat := if 2 ≤ r ∧ r ≤ 13 then field b (0x30 + 16 * (r - 2)) 8 else 0
/-- Where instruction memory content begins. -/
def imgHead : Nat := 0x2F0
def imgCode (b : List Byte) : List Byte := slice b imgHead (imgLen b)
def imgData (b : List Byte) : List Byte := slice b (imgHead + imgLen b) (imgDmLen b)

/-- The bound of an image for X units on n clusters (R259). -/
def imgBound (b : List Byte) (n x : Nat) : Nat :=
  field b (0xF0 + 16 * (n - 1)) 8 + field b (0xF8 + 16 * (n - 1)) 8 * ceilDiv x n

/-- Fields of a model package (Table 10.3); a step makes progress by at least one token. -/
def pkgStepTok (o : Stored) : Nat := max 1 (field o.bytes 0x10 4)
def pkgUnits (o : Stored) : Nat := field o.bytes 0x1C 4 / 65536
/-- The images of a package. -/
def pkgImages (o : Stored) : List (List Byte) :=
  (List.range (field o.bytes 6 1)).map fun i => slice o.bytes (field o.bytes (0x40 + 16 * i) 8) (field o.bytes (0x48 + 16 * i) 8)

/-- The units of 64 KiB that a sequence of L tokens occupies (R306). -/
def seqUnits (o : Stored) (l : Nat) : Nat :=
  ceilDiv (field o.bytes 0x14 4 + field o.bytes 0x18 4 * min l (pkgMaxTok o)) 65536

/-- The bound of a step of T tokens on n clusters (R308). -/
def stepBound (o : Stored) (n t : Nat) : Nat := field o.bytes 0x20 8 + field o.bytes 0x28 8 * ceilDiv t n

/-- The sequence of a record. -/
def seqOf (o : Stored) (schema : Option (List FieldD)) (infield : Nat) (key : Nat × Nat) (ord : Nat) (r : Rec) : BSeq :=
  let l := (r.modelTokens o schema infield).length
  { sqid := key.1, cid := key.2, ord := ord, item := r, tokens := l, left := min l (pkgMaxTok o), units := seqUnits o l }

/-- Sequences join whole, in order, until one exceeds the free units or 1,024 are active (R306, R307): those that join, those
that wait, and whether one was deferred for want of units. -/
def joinSeqs : Nat → Nat → List BSeq → List BSeq × List BSeq × Bool
  | _, _, [] => ([], [], false)
  | free, room, x :: xs =>
    if room = 0 then ([], x :: xs, false)
    else if free < x.units then ([], x :: xs, true)
    else
      let r := joinSeqs (free - x.units) (room - 1) xs
      (x :: r.1, r.2.1, r.2.2)

/-- The free units of a batch region. -/
def freeUnits (o : Stored) (active : List BSeq) : Nat := pkgUnits o - sumOf (active.map (·.units))

/-- The tokens that a sequence processes in a step. -/
def stepTokens (o : Stored) (x : BSeq) : Nat := min x.left (pkgStepTok o)

/-- The active sequences after a step. -/
def afterStep (o : Stored) (active : List BSeq) : List BSeq :=
  active.map fun x => { x with left := x.left - stepTokens o x }

/-- The sum of the step bounds of a model run alone (R295). `n` bounds the steps. -/
def runAlone (o : Stored) (clusters : Nat) : Nat → List BSeq → List BSeq → Nat
  | 0, _, _ => 0
  | k + 1, active, waiting =>
    let j := joinSeqs (freeUnits o active) (1024 - active.length) waiting
    let active := active ++ j.1
    if active.isEmpty then 0
    else
      let t := sumOf (active.map (stepTokens o))
      stepBound o clusters t + runAlone o clusters k ((afterStep o active).filter fun x => x.left != 0) j.2.1

/-- What a job presents to its first stage: bytes, records, frames. -/
structure Presented where
  bytes : Nat
  recs : List Rec
  frames : Nat
  deriving DecidableEq, Repr

/-- The input of a job's first stage. -/
def State.presented (s : State) (j : Job) : Presented :=
  match j.stages.head? with
  | none => ⟨0, [], 0⟩
  | some d =>
    match (if d.src == 1 || d.sopc == 0x82 then s.coll? j.cmd.nsid d.objid else none) with
    | some k =>
      let r := if d.sopc == 0x82 then scanRange k j.cmd.params d else (k.first, k.first + k.nframes)
      let seen := if d.sopc == 0x82 then s.scanSeen j.cmd d k else s.seeRange j.cmd.nsid k r.1 r.2
      ⟨65536 * (r.2 - r.1), seenRecs seen, r.2 - r.1⟩
    | none =>
      if d.src == 3 then ⟨inlenOf j.cmd, seenRecs (s.source j.cmd d), 0⟩
      else
        let n := match s.heldSet? j.cmd.nsid d.handle (j.sqid, j.cid) with | some x => x.bytes.length | none => 0
        ⟨n, seenRecs (s.source j.cmd d), 0⟩

/-- X of an image, in its unit. A later stage of a chain presents what the first does (DESIGN CHOICE, log 17). -/
def Presented.units (x : Presented) (unit : Nat) : Nat :=
  if unit == 0 then x.bytes else if unit == 1 then x.recs.length else x.frames

/-- The bound of a built-in stage, in the form of R259. -/
def builtinBound (opc : Nat) (params : List Byte) (n x : Nat) : Nat :=
  let t := Config.builtinTable opc params n
  t.1 + t.2 * ceilDiv x n

/-- The bound of one stage on n clusters. -/
def stageBound (s : State) (j : Job) (n : Nat) (x : Presented) (d : StageD) : Nat :=
  let p := j.cmd.params
  if d.prog p != 0 then
    match s.stored? (d.prog p) with
    | some o => imgBound o.bytes n (x.units (imgUnit o.bytes))
    | none => 0
  else if d.isModel then
    match s.stored? (d.num p 0x10 4) with
    | some o =>
      let schema := chainSchema s j.cmd j.stages
      let seqs := x.recs.zipIdx.map fun r => seqOf o schema (d.num p 0x14 2) (j.sqid, j.cid) r.2 r.1
      runAlone o n (sumOf (seqs.map fun q => q.left + 1) + 1) [] seqs
    | none => 0
  else builtinBound d.sopc p n (x.units (Config.builtinUnit d.sopc).val)

/-- What maintenance work presents: the frames that training reads, the entries that a Publish takes, the nodes of the plots to compact. -/
def State.maintUnits (s : State) (j : Job) : Nat :=
  match j.kind with
  | .train _ _ => match s.coll? j.cmd.nsid (icNum j.cmd 0x2C 4) with | some k => k.nframes | none => 0
  | .link nsid idx => match s.held? nsid idx with | some ix => (ix.pend.filter fun e => e.taken == j.order + 1).length | none => 0
  | _ => match s.held? j.cmd.nsid j.cmd.cdw13.toNat with
    | some ix =>
      let a := j.cmd.cdw14.toNat
      let n := j.cmd.cdw15.toNat
      sumOf (((ix.plots.drop a).take (if n = 0 then ix.nplots else n)).map fun p => p.nodes.length)
    | none => 0

/-- Whether an image is loaded between two stages: they run from different images, or from a model of several. -/
def loadBetween (s : State) (p : List Byte) (a b : StageD) : Bool :=
  let key := fun (d : StageD) => if d.prog p != 0 then (0, d.prog p) else if d.isModel then (1, d.num p 0x10 4) else (2, 0)
  key a != key b || b.isModel && (match s.stored? (b.num p 0x10 4) with | some o => decide (1 < (pkgImages o).length) | none => false)

/-- B of a job on n clusters (R295). -/
def jobBound (s : State) (j : Job) (n : Nat) : Nat :=
  let ds := j.stages
  let x := s.presented j
  let loads := ((ds.zip (ds.drop 1)).filter fun d => loadBetween s j.cmd.params d.1 d.2).length
  let b := if ds.isEmpty then builtinBound j.opc (match j.kind with | .train _ _ => j.cmd.data | _ => []) n (s.maintUnits j)
    else sumOf (ds.map (stageBound s j n x)) + 3600 * loads
  max 4096 b

/-- Whether every stage's X is within its XMAX. -/
def withinXmax (s : State) (j : Job) : Bool :=
  let x := s.presented j
  j.stages.all fun d => match (if d.prog j.cmd.params != 0 then s.stored? (d.prog j.cmd.params) else none) with
    | some o => decide (x.units (imgUnit o.bytes) ≤ imgXmax o.bytes)
    | none => true

/-- Whether a job uses Runnel. -/
def Job.remote (s : State) (j : Job) : Bool :=
  (match j.kind with | .command => scopeOne j.cmd | _ => false) || (!j.stages.isEmpty && usesRemote s j.cmd)

/-- The Reservoir cap in bytes per cycle (R290). -/
def Variant.capPerCycle : Variant → Nat
  | .d1024 => 13333
  | .d512 => 6667

/-- The SHAREMINs of a job's installed images. -/
def shareMins (s : State) (j : Job) : List Nat :=
  j.stages.flatMap fun d =>
    let id := if d.isModel then d.num j.cmd.params 0x10 4 else d.prog j.cmd.params
    match (if id = 0 then none else s.stored? id) with
    | some o => if o.model then (pkgImages o).map imgShareMin else [imgShareMin o.bytes]
    | none => []

/-- Whether the guaranteed share of each of n clusters meets every SHAREMIN of a job (R259, R290). -/
def sharesFit (s : State) (j : Job) (n : Nat) : Bool :=
  (shareMins s j).all fun m => decide (m * 256 * n ≤ s.cfg.conf.share.getD j.part 0 * Variant.capPerCycle s.variant)

/-- W of a job on n clusters with bound B (R298): JWLIM when the bound does not hold. -/
def jobLimit (s : State) (j : Job) (n b : Nat) : Nat :=
  if j.remote s || !withinXmax s j || !sharesFit s j n then s.cfg.conf.jwlim.getD j.part 0 else (5 * b + 3) / 4

/-- Whether a deadline job is admitted on n clusters with bound B (R296). -/
def admits (s : State) (j : Job) (n b : Nat) : Bool :=
  withinXmax s j && sharesFit s j n &&
  decide (s.now - j.fetched ≤ j.deadline ∧ b ≤ (j.deadline - (s.now - j.fetched)) * s.clock * 100)

end Sys2Proof.Machine
end

