-- ==== Sys2Proof/Machine/Shuffle.lean ====
section
/-! DEFINITION. Joining sleds: the merge of a Search (R191, R381, R382) and the shuffle of a Near Join (R200, R383). The bodies of
their messages are a DESIGN CHOICE (log 32). -/

namespace Sys2Proof.Machine

/-- DEVQ of a device (R382). -/
def devq (d : Nat) : Nat := 0x8000 + d % 2 ^ 14

/-- Block `i` of the blocks for queries of K results. -/
def blockAt (k : Nat) (b : List Byte) (i : Nat) : List Byte := slice b (i * (16 + 16 * k)) (16 + 16 * k)

/-- The entries of a block of a device: distance, item ID, device. -/
def blockEnts (dev : Nat) (b : List Byte) : List (Nat × Nat × Nat) :=
  (List.range (field b 4 2)).map fun i => (field b (0x18 + 16 * i) 2, field b (0x10 + 16 * i) 8, dev)

/-- Entries by distance, item ID and device number. -/
def sortEnts (l : List (Nat × Nat × Nat)) : List (Nat × Nat × Nat) :=
  sortBy (·.1) (sortBy (·.2.1) (sortBy (·.2.2) l))

/-- The merged block of query `i`: the first K entries, counts summed, DEVQ in each entry; and whether it is short. -/
def mergeBlock (k : Nat) (partial_ : Bool) (l : List (Nat × List Byte)) (i : Nat) : List Byte × Bool :=
  let bs := l.map fun x => (x.1, blockAt k x.2 i)
  let es := (sortEnts (bs.flatMap fun x => blockEnts x.1 x.2)).take k
  let n := es.length
  let pois := bs.any fun x => bit (field x.2 6 2) 2
  (leBytes 4 i ++ leBytes 2 n ++ leBytes 2 (b2n (decide (n < k)) + 2 * b2n partial_ + 4 * b2n pois) ++
    leBytes 4 (sumOf (bs.map fun x => field x.2 8 4) % 2 ^ 32) ++ zeros 4 ++
    es.flatMap (fun e => leBytes 8 e.2.1 ++ leBytes 2 e.1 ++ leBytes 2 (devq e.2.2) ++ zeros 4) ++
    (List.range (k - n)).flatMap (fun _ => leBytes 8 (2 ^ 64 - 1) ++ leBytes 2 0xFFFF ++ zeros 6), decide (n < k))

/-- The fan-out of a partition's job. -/
def State.fan? (s : State) (p : Nat) : Option Fan := s.lnk.fans.find? fun f => f.part == p
def modFan (p : Nat) (f : Fan → Fan) (s : State) : State :=
  s.modLnk fun l => { l with fans := l.fans.map fun x => if x.part == p then f x else x }

/-- The blocks and the poison list in the body of a FANRES. -/
def fanBlocks (b : List Byte) : List Byte := (b.drop 4).take (field b 0 4)
def fanPoison (b : List Byte) : List Nat :=
  let l := b.drop (4 + field b 0 4)
  (List.range (l.length / 8)).map fun i => field l (8 * i) 8

/-- Start a fan-out (R381): FANREQ with the parameter structure and the codes to every other member; each member's remote timeout
runs from it. JOBTAG carries the namespace, INST the length of the parameter structure. -/
def startFan (p : Nat) (c : Cmd) (devs : List Nat) (s : State) : State :=
  let tag := s.lnk.nextOp
  let body := c.params ++ inputOf c
  let s := s.modLnk fun l => { l with
    nextOp := (l.nextOp + 1) % 2 ^ 32
    fans := l.fans ++ [⟨p, tag, devs.map fun d => (d, s.now + s.rtmo), [], []⟩] }
  devs.foldl (fun s d => sendParts 0x20 d tag c.nsid c.params.length body s) s

/-- A member is missing (R108): with PARTOK it is listed, otherwise the job ends with the status. -/
def memberMissing (p dev : Nat) (st : Status) (s : State) : State :=
  let s := modFan p (fun f => { f with
    waiting := f.waiting.filter fun w => w.1 != dev
    missing := if f.missing.contains dev then f.missing else f.missing ++ [dev] }) s
  let s := s.modLnk fun l => { l with
    timeout := if st == .remoteTimeout then sat32 l.timeout else l.timeout
    unreach := if st == .remoteUnreachable then sat32 l.unreach else l.unreach }
  match (s.part p).run with
  | none => s
  | some r =>
    if r.teardown.isSome then s
    else if partokOf r.job.cmd then
      modRun p (fun r => { r with missing := if r.missing.contains dev then r.missing else r.missing ++ [dev] }) s
    else contextError p { kind := 0x0E, inst := dev } st s

/-- The members that cannot be reached are missing at once. -/
def missUnreachable (p : Nat) (s : State) : State :=
  match s.fan? p with
  | none => s
  | some f => (f.waiting.filter fun w => !s.reachable w.1).foldl (fun s w => memberMissing p w.1 .remoteUnreachable s) s

/-- The members of a Near Join with SCOPE 1 (R383): the union of the groups of OBJID and COLLB. -/
def joinMembers (s : State) (nsid : Nat) (p : List Byte) (d : StageD) : List Nat :=
  let m := fun (id : Nat) => match (s.cfg.conf.groups.filterMap (fun (x : Option ObjGroup) => x)).find? fun g =>
      g.nsid == nsid && g.kind == 1 && g.objid == id with
    | some g => g.members
    | none => 0
  membersOf (m d.objid ||| (if d.num p 0x14 4 = 0 then 0 else m (d.num p 0x14 4)))

/-- The owner of a band value (R383). -/
def bandOwner (members : List Nat) (value k : Nat) : Nat :=
  members.getD (((value % 2 ^ 64 * 0x9E3779B97F4A7C15) % 2 ^ 64 + k) % members.length) 0

/-- Bits `lo` to `hi` of band `k` of codes of L bits in B bands. -/
def bandOf (l n k : Nat) (code : List Byte) : Nat := bandBits code (k * l / n) ((k + 1) * l / n)

/-- The shuffle of a tag and fetching device, and changing it. -/
def State.shuffle? (s : State) (tag fdev : Nat) : Option Shuffle :=
  s.lnk.shuffles.find? fun x => x.tag == tag && x.fdev == fdev
def modShuffle (tag fdev : Nat) (f : Shuffle → Shuffle) (s : State) : State :=
  s.modLnk fun l => { l with shuffles := l.shuffles.map fun x => if x.tag == tag && x.fdev == fdev then f x else x }

/-- Give an item to the owner of each of its bands. -/
def shareItem (x : Shuffle) (l n side : Nat) (it : Nat × List Byte) (dev : Nat) (s : State) : State :=
  (List.range n).foldl (fun s k =>
    let o := bandOwner x.members (bandOf l n k it.2) k
    if o = s.cfg.conf.devnum then
      modShuffle x.tag x.fdev (fun y => { y with items := y.items ++ [(k, side, dev, it.1, it.2)] }) s
    else
      emit { s.msg 0x24 o 128 with
        opid := x.tag, sgen := side, inst := x.fdev, jobtag := k
        addr := BitVec.ofNat 64 it.1, payload := it.2 } s) s

/-- The stage of a join's parameter structure. -/
def joinStage (p : List Byte) : StageD := stageAt p 16

/-- The pairs that an owner keeps and the pairs it compares (R197, R383): items by qualified identity (item ID, device). -/
def ownerPairs (self : Bool) (l r : Nat) (items : List (Nat × Nat × Nat × Nat × List Byte)) :
    List (Nat × Nat × Nat × Nat × Nat) × Nat :=
  let n := r + 1
  let all := items.flatMap fun a => (items.filter fun b =>
      a.1 == b.1 && a.2.1 == 0 && (if self then decide (a.2.2.2.1 < b.2.2.2.1 ∨
        a.2.2.2.1 = b.2.2.2.1 ∧ a.2.2.1 < b.2.2.1) else b.2.1 == 1) &&
      bandOf l n a.1 a.2.2.2.2 == bandOf l n a.1 b.2.2.2.2).map fun b =>
    (a, b, hamming a.2.2.2.2 b.2.2.2.2)
  let kept := all.filter fun x => decide (x.2.2 ≤ r) &&
    (List.range x.1.1).all fun k => bandOf l n k x.1.2.2.2.2 != bandOf l n k x.2.1.2.2.2.2
  let rows := kept.map fun x => (x.1.2.2.2.1, x.1.2.2.1, x.2.1.2.2.2.1, x.2.1.2.2.1, x.2.2)
  (sortBy (·.1) (sortBy (fun y => y.2.1) (sortBy (fun y => y.2.2.1) (sortBy (fun y => y.2.2.2.1) rows))), all.length)

/-- A pair record with DEVQ of both items (R382). -/
def qualifiedPair (x : Nat × Nat × Nat × Nat × Nat) : List Byte :=
  leBytes 8 x.1 ++ leBytes 8 x.2.2.1 ++ leBytes 2 x.2.2.2.2 ++ leBytes 2 (devq x.2.1) ++ leBytes 2 (devq x.2.2.2.1) ++ zeros 2

/-- The fetching device learns what an owner found. -/
def ownerDone (tag fdev owner compared : Nat) (rows : List Byte) (ids : List Nat) (last : Bool) (s : State) : State :=
  modShuffle tag fdev (fun y => { y with
    pairs := y.pairs ++ [(owner, rows)], stat := y.stat + compared, hurt := y.hurt ++ ids
    owners := if last then owner :: y.owners else y.owners }) s

/-- The key of the scratch that a member holds for a shuffle (R199, R383), and taking some: in the partition of the job on F, in none on
another sled. Without room F's job ends with Pool Exhausted; another member answers so, and its part is over. -/
def shufKey (tag fdev : Nat) : Nat := 8 + tag + fdev * 2 ^ 32
def dropShuffle (tag fdev : Nat) (s : State) : State :=
  freeUnit 4 (shufKey tag fdev)
    (s.modLnk fun l => { l with shuffles := l.shuffles.filter fun y => !(y.tag == tag && y.fdev == fdev) })
def shufScratch (tag fdev bytes : Nat) (s : State) : State × Bool :=
  if bytes = 0 then (s, true)
  else
    let fan := if fdev = s.cfg.conf.devnum then s.lnk.fans.find? fun f => f.tag == tag else none
    match allocate 4 (shufKey tag fdev) (match fan with | some f => f.part | none => 8) bytes s.now 1 s with
    | some s => (s, true)
    | none => match fan with
      | some f => (tearJob f.part .poolExhausted (exhausted s), false)
      | none => (answerFan fdev tag .poolExhausted [] [] (dropShuffle tag fdev (exhausted s)), false)

/-- What an owner sends to F: pairs in parts of 8,184 bytes, each with its number of pairs, then the IDs of items that arrived poisoned. -/
def pairParts (rows : List (Nat × Nat × Nat × Nat × Nat)) (hurt : List Nat) : List (Nat × List Byte) :=
  let a := (List.range ((rows.length + 340) / 341)).map fun i =>
    let l := (rows.drop (341 * i)).take 341
    (l.length, l.flatMap qualifiedPair)
  let b := (List.range ((hurt.length + 1022) / 1023)).map fun i => (0, ((hurt.drop (1023 * i)).take 1023).flatMap (leBytes 8))
  if a.isEmpty && b.isEmpty then [(0, [])] else a ++ b

/-- Once every member has sent SHUFEND, the owner compares and sends its pairs to F; the last part is marked in ADDR with the count
compared. A member's part is then over. -/
def shuffleStep (tag fdev : Nat) (s : State) : State :=
  match s.shuffle? tag fdev with
  | none => s
  | some x =>
    let me := s.cfg.conf.devnum
    if x.members.isEmpty || !(x.members.all fun d => x.ended.contains d) || x.owners.contains me then s
    else
      let d := joinStage x.parms
      let r := ownerPairs (selfJoin x.parms d) x.bits (d.num x.parms 0x12 2) x.items
      let got := shufScratch tag fdev (x.items.length * (16 + x.bits / 8) + 24 * r.1.length) s
      let s := got.1
      if !got.2 then s
      else if fdev = me then ownerDone tag fdev me r.2 (r.1.flatMap qualifiedPair) [] true s
      else
        let ps := pairParts r.1 x.hurt
        let s := ps.zipIdx.foldl (fun s y =>
          emit { s.msg 0x25 fdev 128 with
            opid := tag, jobtag := y.1.1, addr := BitVec.ofNat 64 (b2n (y.2 + 1 == ps.length) + 2 * r.2)
            payload := y.1.2 } s) s
        dropShuffle tag fdev s

/-- Take part in a shuffle: extract the eligible items of this sled, give them to their owners, then send SHUFEND with the poison
list to every member. -/
def startShuffle (tag fdev : Nat) (c : Cmd) (s : State) : State :=
  let me := s.cfg.conf.devnum
  let d := joinStage c.params
  let probe := d.num c.params 0x1B 1 == 1
  let mem := joinMembers s c.nsid c.params d
  let l := s.joinBits c d
  let n := d.num c.params 0x12 2 + 1
  let old := s.shuffle? tag fdev
  let x : Shuffle :=
    { tag := tag, nsid := c.nsid, parms := c.params, bits := l, fdev := fdev, members := mem
      items := match old with | some y => y.items | none => []
      ended := match old with | some y => y.ended | none => []
      pairs := match old with | some y => y.pairs | none => []
      owners := match old with | some y => y.owners | none => []
      stat := match old with | some y => y.stat | none => 0
      hurt := match old with | some y => y.hurt | none => [] }
  let s := s.modLnk fun k => { k with shuffles := k.shuffles.filter (fun y => !(y.tag == tag && y.fdev == fdev)) ++ [x] }
  let sides := s.joinSides c d
  let mine := sides.1.length + (if selfJoin c.params d then 0 else sides.2.1.length)
  let got := if fdev = me then (s, true) else shufScratch tag fdev (joinScratch (l / 8) mine 0) s
  let s := got.1
  if !got.2 then s
  else
    let sideA := if probe && fdev != me then [] else sides.1
    let s := sideA.foldl (fun s it => shareItem x l n 0 it me s) s
    let s := if selfJoin c.params d then s else sides.2.1.foldl (fun s it => shareItem x l n 1 it me s) s
    let s := (mem.filter (· != me)).foldl (fun s dev =>
      emit { s.msg 0x26 dev 128 with
        opid := tag, inst := fdev, payload := (sides.2.2.take 1024).flatMap (leBytes 8) } s) s
    shuffleStep tag fdev (modShuffle tag fdev (fun y => { y with ended := me :: y.ended }) s)

/-- A device that is missing counts as ended, and as an owner without pairs; its items take part in no pair (R200). -/
def shuffleWithout (tag fdev dev : Nat) (s : State) : State :=
  let s := modShuffle tag fdev (fun y => { y with
    items := y.items.filter fun i => i.2.2.1 != dev
    pairs := y.pairs.filter fun q => q.1 != dev
    ended := if y.ended.contains dev then y.ended else dev :: y.ended
    owners := if y.owners.contains dev then y.owners else dev :: y.owners }) s
  shuffleStep tag fdev s

end Sys2Proof.Machine
end

