-- ==== Sys2Proof/Machine/Runs.lean ====
section
/-! DEFINITION. A job on its clusters: instruction memory, context start, the stages, and the end of the job (R205 to R208, R228,
R233 to R235, R245, R246, R251, R291 to R293). -/

namespace Sys2Proof.Machine

/-- The instruction memory that a stage needs: KIND, identifier, content. A built-in stage runs from the vendor image, which has no
identifier. -/
structure StageImage where
  kind : Nat
  id : Nat
  im : List Byte
  image : List Byte
  deriving DecidableEq, Repr

/-- The object that a job holds a copy of (R302). -/
def Run.copy (r : Run) (id : Nat) : List Byte :=
  match r.copies.find? fun x => x.1 == id with
  | some x => x.2
  | none => []

/-- The vendor image, which has no identifier. -/
def vendorImage : StageImage := ⟨255, 0, [], []⟩

/-- The stage images of a model's package, in their order. -/
def modelImages (m : Nat) (package : List Byte) : List StageImage :=
  (pkgImages ⟨m, true, package, false⟩).map fun b => ⟨imgKind b, m, imgCode b, b⟩

/-- The images that a stage loads: those of a model in turn, the last of which then stands in instruction memory; see log 16
(DEDUCED). -/
def Run.stageImages (r : Run) (d : StageD) : List StageImage :=
  let id := d.prog r.job.cmd.params
  if id != 0 then
    let b := r.copy id
    [⟨imgKind b, id, imgCode b, b⟩]
  else if d.isModel then
    let m := d.num r.job.cmd.params 0x10 4
    modelImages m (r.copy m)
  else [vendorImage]

/-- The stage that a run is in; maintenance work has none. -/
def Run.stageD? (r : Run) : Option StageD := r.job.stages[r.stage]?

/-- The images of the stage that a run is in, and the last of some images. -/
def Run.images (r : Run) : List StageImage :=
  match r.stageD? with
  | some d => r.stageImages d
  | none => [vendorImage]
def lastImage (gs : List StageImage) : StageImage := gs.getLast?.getD vendorImage

/-- Whether a cluster needs an image loaded (DEDUCED, log 16: not when it holds the same content). -/
def Clu.needs (g : StageImage) (x : Clu) : Bool :=
  !(x.imkind == g.kind && x.improg == g.id && x.imlen == g.im.length && x.im == Mem.cells 0 0 g.im)

/-- Load instruction memory (R206). -/
def Clu.loadImage (g : StageImage) (x : Clu) : Clu :=
  if x.needs g then
    { x with imgen := (x.imgen + 1) % 65536, improg := g.id, imkind := g.kind, im := Mem.cells 0 0 g.im
             imlen := g.im.length }
  else x

/-- Load the images of a stage in turn. -/
def Clu.loadImages (gs : List StageImage) (x : Clu) : Clu := gs.foldl (fun x g => x.loadImage g) x

/-- Start a job context (R216, R222, R255): the generations are those of this moment. -/
def Clu.startContext (gens : List Nat) (x : Clu) : Clu :=
  { x with
    run := true, gens := gens, slots := [], eng := List.replicate 5 EngQ.reset, tile := [], tpois := []
    ring := Ring.reset, objs := x.objs.map fun o => { o with value := 0 }
    halted := false, reloadWait := false, tdPend := false, core := Core.reset
    ar := { x.ar with ctxSat := 0, ctxUnd := 0, satRaised := false, undRaised := false } }

/-- The core at the start of a stage (R233): g1 and g2, ENTRY, data memory; the context's cycle count goes on. -/
def Clu.startStage (idx n entry : Nat) (dm : Mem) (st : CoreSt) (x : Clu) : Clu :=
  { x with
    gen := x.imgen
    core := { Core.reset with
      g := [0, BitVec.ofNat 64 idx, BitVec.ofNat 64 n] ++ List.replicate 29 0
      pc := entry % 2 ^ 18, dm := dm, st := st, cycles := x.core.cycles } }

/-- The base of region `r` of a partition's job (DESIGN CHOICE, log 38). -/
def regionBase (p r : Nat) : Nat := (16 * p + r) * 2 ^ 40

/-- The regions of a stage (Table 8.3): its input, the weights of its model, the scratch regions of its image. -/
def stageRegions (p inLen weights : Nat) (image : List Byte) : List (Nat × Nat) :=
  (List.range 14).map fun r =>
    let n := if r = 0 then roundUp inLen 64 else if r = 1 then weights else imgRegion image r
    (if n = 0 then 0 else regionBase p r, n)

/-- The bytes of the regions that the images of a job declare, in whole pages (R235, R318). -/
def regionBytes (images : List (List Byte)) : Nat :=
  sumOf (images.flatMap fun b => (List.range 12).map fun i => roundUp (imgRegion b (i + 2)) 4096)

/-- The job descriptor (Table 8.3). -/
def jobDescriptor (inLen nin cap epoch space n idx slots : Nat) (regions : List (Nat × Nat)) : List Byte :=
  leBytes 8 inLen ++ leBytes 8 nin ++ leBytes 8 cap ++ leBytes 4 epoch ++ leBytes 1 space ++ leBytes 1 n ++
  leBytes 1 idx ++ leBytes 1 slots ++ regions.flatMap fun r => leBytes 8 r.1 ++ leBytes 8 r.2

/-- OUTCAP of a stage: the record area that the data buffer holds; for a result set and between stages the most that a result
set holds (DESIGN CHOICE, log 38). -/
def Run.outCap (r : Run) : Nat :=
  if rsoOf r.job.cmd || decide (r.stage + 1 < r.nstg) then 2 ^ 34 - 64 else outlenOf r.job.cmd * 4096 - 64

/-- The argument bytes of a Job Run stage. -/
def argBytes (p : List Byte) (d : StageD) : List Byte :=
  if d.sopc == 0xA7 then slice p (d.num p 0x18 4) (d.num p 0x1C 4) else []

/-- The range of frames that a stage's clusters are dealt (R235, R245); none when its input is not staged frames. -/
def Run.dealtRange (r : Run) (d : StageD) : Option (Nat × Nat) :=
  if r.stage = 0 && (d.src == 1 || d.sopc == 0x82) then
    r.coll.map fun k => if d.sopc == 0x82 then scanRange k r.job.cmd.params d else (k.first, k.first + k.nframes)
  else none

/-- SATPOL of a stage (Tables 3.8, 3.9 and 3.13). -/
def StageD.satpol (p : List Byte) (d : StageD) : Nat :=
  if d.isModel then bits (d.num p 0x17 1) 3 2 else if d.sopc == 0xA7 then bits (d.num p 0x14 1) 3 2 else 0

/-- The format in which the input records of a later stage lie in region 0: that of the stage before it, or of the result set. -/
def Run.inFmt (s : State) (r : Run) (d : StageD) : Nat :=
  if r.stage = 0 then
    match s.heldSet? r.job.cmd.nsid d.handle (r.job.sqid, r.job.cid) with
    | some x => x.fmt
    | none => 0
  else r.fmt

/-- WLEN of the model that a stage names (Table 10.3). -/
def Run.weights (r : Run) (d : StageD) : Nat := if d.isModel then leNat (slice (r.copy (d.num r.job.cmd.params 0x10 4)) 0x30 8) else 0

/-- Set up a stage on the clusters of a job (R233 to R235, R245, R251): regions zero, region 0 the input stream with the poison of its
records, data memory, the cores at ENTRY in state `st`, and for a program the frames dealt. A cluster whose part is over stays as it is. -/
def placeStage (p : Nat) (d : StageD) (st : CoreSt) (prog : Bool) (s : State) : State :=
  match (s.part p).run with
  | none => s
  | some r =>
    let c := r.job.cmd
    let g := lastImage (r.stageImages d)
    let range := r.dealtRange d
    let host := r.stage = 0 && d.src == 3
    let lay := if range.isSome || host then ([], []) else layOut (r.inFmt s d) r.input
    let inLen := if host then inlenOf c else lay.1.length
    let space := if range.isSome then 1 else if host then 3 else if lay.1.isEmpty && r.input.isEmpty then 0xFF else 0
    let regs := stageRegions p lay.1.length (r.weights d) g.image
    let pois := (lay.2.filter fun x => x.2.2.poison).flatMap fun x =>
      (List.range (x.2.1 / 64 + 2)).filterMap fun i =>
        let k := x.1 / 64 + i
        if k * 64 < x.1 + x.2.1 then some (regionBase p 0 / 64 + k) else none
    let lo := regionBase p 0
    let hi := regionBase p 16
    let s := s.modResv fun v => { v with
      mem := Mem.write 0 (Mem.clear v.mem lo (hi - lo)) lo lay.1
      poison := (v.poison.filter fun k => !decide (lo ≤ k * 64 ∧ k * 64 < hi)) ++ sortDedup pois }
    let n := r.clusters.length
    let s := modRun p (fun r => { r with regions := regs, out := [], cursor := 0, marks := [], nrec := 0, stat := 0 }) s
    r.clusters.zipIdx.foldl (fun s x =>
      let dealt := match range with
        | some f => ((List.range (f.2 - f.1)).filter fun j => j % n == x.2).map (· + f.1)
        | none => []
      let nin := if range.isSome then dealt.length else r.input.length
      let desc := jobDescriptor inLen nin r.outCap r.epoch space n x.2 s.variant.stSlots regs
      let dm := Mem.cells 0 0 (slice (argBytes c.params d) 0 256 ++ desc ++ imgData g.image)
      modClu x.1 (fun y =>
        if y.core.st == .ended then y
        else
          let y := y.startStage x.2 n (imgEntry g.image) dm st
          { y with ring := { Ring.reset with dealt := if prog then dealt else [] }, ar := { y.ar with satpol := d.satpol c.params } }) s) s

/-- Set up maintenance work on the clusters of a job, which presents no input (R233, R234); see log 38 (DESIGN CHOICE). -/
def placeBare (cs : List Nat) (image : StageImage) (satpol : Nat) (regs : List (Nat × Nat)) (st : CoreSt) (s : State) : State :=
  cs.zipIdx.foldl (fun s x =>
    let desc := jobDescriptor 0 0 0 0 0xFF cs.length x.2 s.variant.stSlots regs
    let dm := Mem.cells 0 0 (zeros 256 ++ desc ++ imgData image.image)
    modClu x.1 (fun y =>
      let y := y.startStage x.2 cs.length (imgEntry image.image) dm st
      { y with ar := { y.ar with satpol := satpol } }) s) s

/-- Items enter the poison list of a run (R107); under POISTRICT the first ends the command. -/
def listPoison (p : Nat) (ids : List Nat) (s : State) : State :=
  let s := modRun p (fun r => { r with poison := r.poison ++ (distinct ids).filter fun x => !r.poison.contains x }) s
  match (s.part p).run with
  | none => s
  | some r => if poistrictOf r.job.cmd && !ids.isEmpty then tearJob p .poisonedResult s else s

/-- Put a stage's output into the run; a poisoned record under POISTRICT, or the stage's own failure, tears the job down. -/
def absorb (p : Nat) (o : StageOut) (s : State) : State :=
  let s := listPoison p o.poison (modRun p (fun r => { r with
    recs := o.recs, fmt := o.fmt, recsz := o.recsz, nrec := o.nrec, stat := o.stat, flags := r.flags ||| o.flags }) s)
  match o.fail with
  | some st => tearJob p st s
  | none => s

/-- The scratch of a Near Join (R199): without room the command ends with Pool Exhausted, unless it ends already. -/
def takeScratch (p bytes : Nat) (s : State) : State :=
  if bytes = 0 || s.tearing p then s
  else match allocate 4 p p bytes s.now 1 s with
    | some s => s
    | none => tearJob p .poolExhausted (exhausted s)

/-- The devices that a fan-out asks. -/
def fanDevices (s : State) (c : Cmd) (d : StageD) : List Nat :=
  let me := s.cfg.conf.devnum
  if d.sopc == 0x8F then
    match s.groupOf c.nsid 0 d.objid with
    | some g => (membersOf g.members).filter (· != me)
    | none => []
  else (joinMembers s c.nsid c.params d).filter (· != me)

/-- The schema of a job's input: of its collection as the job started, or as its command names it. -/
def Run.schema (s : State) (r : Run) : Option (List FieldD) :=
  match r.coll with
  | some k => some k.fields
  | none => chainSchema s r.job.cmd r.job.stages

/-- The tiles that are drained: under SATPOL 10b none after the first event (R279). -/
def drainedTiles (pol : Nat) (l : List Config.Tile) : List Config.Tile :=
  if pol = 2 then match l.findIdx? (·.event) with
    | some i => l.take (i + 1)
    | none => l
  else l

/-- The tiles of a model count on the clusters of their job (R279, R282). -/
def countTiles (cs : List Nat) (l : List Config.Tile) (s : State) : State :=
  l.foldl (fun s t =>
    let c := cs.getD (t.clu % cs.length) 0
    countTile c t.chk t.ctr.val t.sats t.replays t.event t.under (countAcc c t.acc s)) s

/-- Records that are cut at MAXTOK (R306). -/
def cutRecs (o : Stored) (schema : Option (List FieldD)) (infield : Nat) (l : List Rec) : Nat :=
  (l.filter fun r => decide (pkgMaxTok o < (r.modelTokens o schema infield).length)).length

/-- A model stage of a chain or of a deadline job. -/
def runModel (p : Nat) (r : Run) (d : StageD) (recs : List Rec) (bad : List Nat) (s : State) : State :=
  let pr := r.job.cmd.params
  let id := d.num pr 0x10 4
  let o : Stored := ⟨id, true, r.copy id, false⟩
  let schema := r.schema s
  let out := if d.sopc == 0x8A then stageScore o schema pr d recs else stageEmbed o schema pr d recs
  let s := modPart p (fun x => { x with cnt := { x.cnt with trunc := x.cnt.trunc + cutRecs o schema (d.infield pr) recs } }) s
  let s := countTiles r.clusters (drainedTiles (d.pol pr) (recs.flatMap (tilesOf o schema pr d))) s
  absorb p { out with poison := bad ++ out.poison } s

/-- Frames that a built-in stage has staged: each lost unit is an origin of poison on the cluster to which its frame is dealt (R224,
R245). -/
def stageLost (r : Run) (d : StageD) (s : State) : State :=
  match r.dealtRange d with
  | none => s
  | some f =>
    let nsid := r.job.cmd.nsid
    (usedFrames (s.nsMem nsid) (s.lost nsid) f.1 f.2).foldl (fun s no =>
      let c := r.clusters.getD ((no - f.1) % r.clusters.length) 0
      poisonOrigin c (s.frame nsid no).bad.length { kind := 0x10, inst := c, part := r.job.part } s) s

/-- Frames of an index that a job's first cluster has read: each lost unit is an origin of poison (R224; see log 120, DEDUCED). -/
def indexLost (r : Run) (frames : List Nat) (s : State) : State :=
  let c := r.clusters.headD 0
  poisonOrigin c ((s.lost r.job.cmd.nsid).filter fun b => frames.contains (b / 16)).length { kind := 0x10, inst := c, part := r.job.part } s

/-- A built-in or model stage gives its records at its start (DESIGN CHOICE, log 16). -/
def runBuiltin (p : Nat) (r : Run) (d : StageD) (s : State) : State :=
  let c := r.job.cmd
  let pr := c.params
  let seen := if r.stage = 0 then s.source c d else r.input.map fun x => Seen.item x 0
  let bad := seenBad seen
  let s := stageLost r d s
  if d.sopc == 0x82 then absorb p (stageScan s c d) s
  else if d.isModel then runModel p r d (seenRecs seen) bad s
  else if d.sopc == 0x95 then
    let x := stageInsert { c with sqid := r.job.sqid, cid := r.job.cid } r.job.order d (seenRecs seen) s
    absorb p { x.2 with poison := bad ++ x.2.poison } x.1
  else if d.sopc == 0x8F then
    let x := stageSearch c r.job.hurt r.clusters r.epoch d s
    let s := absorb p x.2 (indexLost r x.2.touch x.1)
    if (match r.job.kind with | .command => scopeOne c | _ => false) && !(s.tearing p) then
      missUnreachable p (startFan p c (fanDevices s c d) s)
    else s
  else if d.sopc == 0xB2 then
    let x := stageRecall c r.clusters r.epoch d s
    absorb p x.2 (indexLost r x.2.touch x.1)
  else if d.sopc == 0x93 then
    if scopeOne c then
      let sides := s.joinSides c d
      let items := sides.1.length + (if selfJoin pr d then 0 else sides.2.1.length)
      let s := absorb p { fmt := 7, recsz := 24, poison := sides.2.2 } s
      let s := takeScratch p (joinScratch (s.joinBits c d / 8) items 0) s
      if s.tearing p then s
      else
        let s := startFan p c (fanDevices s c d) s
        match s.fan? p with
        | none => s
        | some f => missUnreachable p (startShuffle f.tag s.cfg.conf.devnum c s)
    else
      let x := stageJoin c d s
      takeScratch p x.2 (absorb p x.1 s)
  else s

/-- Enter the stage that a run stands at: its images are loaded (R207), its cores start, or stand at the barrier that ends it when the
stage is not a program's. -/
def enterStage (p : Nat) (s : State) : State :=
  match (s.part p).run with
  | none => s
  | some r =>
    let bar := CoreSt.barrier (if r.nstg ≤ r.stage + 1 then 2 else 1) 0
    let s := r.clusters.foldl (fun s c => modClu c (fun x => if x.core.st == .ended then x else x.loadImages r.images) s) s
    let s := modRun p (fun r => { r with atBar := [] }) s
    match r.stageD? with
    | none => placeBare r.clusters vendorImage 0 (List.replicate 14 (0, 0)) bar s
    | some d =>
      let s := modRun p (fun x => { x with
        input := if r.stage = 0 && d.sopc != 0x82 then seenRecs (s.source r.job.cmd d) else x.input }) s
      if d.prog r.job.cmd.params != 0 then placeStage p d .running true s
      else runBuiltin p r d (placeStage p d bar false s)

/-- The memory of a model that a run or batch uses, which began with the package `copy` (R302). -/
def State.modelUnits (s : State) (m : Nat) (copy : List Byte) : List PoolUnit :=
  let same := match s.stored? m with | some o => o.bytes == copy | none => false
  s.resv.units.filter fun u => u.cls == 3 && u.key == (if same then m else orphanKey m)

/-- Whether a weight or image of a model arrives poisoned on some clusters (R107, R224, R317). -/
def State.weightHurt (s : State) (cs : List Nat) (m : Nat) (copy : List Byte) : Bool :=
  (s.modelUnits m copy).any fun u => !(s.unitHurt cs u).isEmpty

/-- What the end of a stage adds: a program stage leaves the records it appended, or the scan that its verdicts decide (R246, R252);
every record that a poisoned weight touched is listed (R107). -/
def stageOutput (p : Nat) (s : State) : State :=
  match (s.part p).run with
  | none => s
  | some r =>
    match r.stageD? with
    | none => s
    | some d =>
      if d.isModel then
        let m := d.num r.job.cmd.params 0x10 4
        if s.weightHurt r.clusters m (r.copy m) then
          listPoison p (r.input.map (·.id)) (metUndelivered r.clusters (s.modelUnits m (r.copy m)) s)
        else s
      else if d.prog r.job.cmd.params == 0 then s
      else if d.sopc == 0x82 then
        match r.coll with
        | some k => absorb p (stageVerdicts s r.job.cmd d k r.seen (r.clusters.map fun c => (s.clu c).core.verds)) s
        | none => s
      else
        modRun p (fun r => { r with recs := markedRecs r.out r.marks r.poison, fmt := 8, recsz := 0, stat := 0 }) s

/-- The merge of a fan-out at the end of its stage (R191, R383). -/
def mergeFan (p : Nat) (s : State) : State :=
  match (s.part p).run, s.fan? p with
  | some r, some f =>
    match r.stageD? with
    | none => s
    | some d =>
      let me := s.cfg.conf.devnum
      let pr := r.job.cmd.params
      let here := f.results.filter fun x => !f.missing.contains x.1
      let poison := here.flatMap fun x => fanPoison x.2
      if d.sopc == 0x8F then
        let k := d.num pr 0x18 2
        let parts := (me, r.recs.flatMap (·.raw)) :: here.map fun x => (x.1, fanBlocks x.2)
        let bs := (List.range (d.num pr 0x14 4)).map (mergeBlock k (!f.missing.isEmpty) parts)
        absorb p { recs := bs.zipIdx.map fun x => blockRec (2 ^ 63 + x.2) x.1.1, fmt := 6, recsz := 16 + 16 * k
                   nrec := bs.length, stat := sumOf (bs.map fun x => field x.1 8 4), poison := poison }
          (modRun p (fun r => { r with flags := if bs.any (·.2) then r.flags ||| fSHORT
            else if 0x80 ≤ r.flags then r.flags - fSHORT else r.flags }) s)
      else
        match s.shuffle? f.tag me with
        | none => s
        | some x =>
          let gone := f.missing.map devq
          let rows := (x.pairs.flatMap fun y => (List.range (y.2.length / 24)).map fun i => slice y.2 (24 * i) 24).filter fun b =>
            !gone.contains (field b 0x12 2) && !gone.contains (field b 0x14 2)
          let key := fun (b : List Byte) => ((field b 0 8 * 2 ^ 16 + field b 0x12 2) * 2 ^ 64 + field b 8 8) * 2 ^ 16 + field b 0x14 2
          let rows := sortBy key rows
          let max := d.num pr 0x20 8
          let hit := max != 0 && decide (max ≤ rows.length)
          let rows := if hit then rows.take max else rows
          takeScratch p (24 * rows.length) (absorb p {
            recs := rows.map fun b => blockRec (field b 0 8) b, fmt := 7, recsz := 24, nrec := rows.length
            stat := x.stat, poison := poison ++ x.hurt, flags := if hit then fLIMIT else 0 } s)
  | _, _ => s

/-- The reply of a run (R103). -/
def Run.reply (r : Run) : Reply :=
  let lay := if r.fmt == 8 then
      (r.out, (sortBy (·.1) r.marks).zip (markedRecs r.out r.marks r.poison) |>.map fun x => (x.1.1, x.1.2.1, x.2))
    else if r.fmt == 0xA then ([], []) else layOut r.fmt r.recs
  { fmt := r.fmt, recsz := r.recsz, nrec := r.nrec, stat := r.stat, epoch := r.epoch, flags := r.flags
    area := lay.1, recs := lay.2, poison := r.poison, missing := r.missing }

/-- Cycles are charged to a queue (R293). -/
def chargeQueue (p jq n : Nat) (s : State) : State :=
  modPart p (fun x => { x with
    deficit := x.deficit.modify jq fun d => d - (n : Int), charged := x.charged.modify jq (· + n) }) s

/-- Free what a job held, charge its queue, and leave the partition at its boundary (R205, R291, R293, R303). -/
def closeRun (p : Nat) (s : State) : State :=
  match (s.part p).run with
  | none => s
  | some r =>
    let s := r.clusters.foldl (fun s c => modClu c Clu.endContext s) s
    let s := freeUnit 5 p (freeUnit 4 p s)
    let s := r.job.models.foldl (fun s m => unuseModel m (r.copy m) s) s
    let s := ((s.lnk.fans.filter fun f => f.part == p).map (·.tag)).foldl (fun s t => freeUnit 4 (shufKey t s.cfg.conf.devnum) s) s
    let s := s.modLnk fun l => { l with
      insts := l.insts.filter fun i => i.1 != p
      binds := l.binds.filter fun b => b.part != p
      shuffles := l.shuffles.filter fun x => !(x.fdev == s.cfg.conf.devnum && l.fans.any fun f => f.part == p && f.tag == x.tag)
      fans := l.fans.filter fun f => f.part != p
      ops := l.ops.filter fun o => o.part != p }
    modPart p (fun x => { x with
      run := none, clearing := true, cnt := { x.cnt with jobs := x.cnt.jobs + 1 } }) (chargeQueue p r.job.jq r.cycles s)

/-- A job that a partition reset refuses completes with Partition Busy; a deadline job counts as refused (R312, Table 10.7). -/
def refusedBusy (j : Job) (s : State) : State :=
  endFor j .partitionBusy 0 0 (if j.dl then
    modPart j.part (fun p => { p with cnt := { p.cnt with dlRefused := p.cnt.dlRefused + 1 } }) s else s)

/-- Place a job at the end of its queue (R292); a partition in reset refuses it (R312). -/
def placeJob (j : Job) (s : State) : State :=
  if (s.part j.part).resetting then refusedBusy j s
  else modPart j.part (fun p => { p with queues := p.queues.modify j.jq (· ++ [j]) }) s

/-- The next Publish that waits for an index starts its link work (R168). -/
def nextPublish (nsid idx : Nat) (s : State) : State :=
  match s.idx.find? fun i => i.nsid == nsid && i.id == idx with
  | none => s
  | some ix =>
    match ix.work, ix.waiting with
    | .none, (sq, cid, order) :: ws =>
      let s := modIndex nsid idx (fun i => { i with work := .publish sq cid order false, waiting := ws }) s
      match s.flight? sq cid with
      | none => s
      | some f =>
        placeJob { sqid := sq, cid := cid, order := order, opc := 0x9C, cmd := f.cmd, part := ix.part, jq := 0, dl := false
                   deadline := 0, fetched := s.now, kind := .link nsid idx } s
    | _, _ => s

/-- The result of maintenance work as its job ends: a new epoch that is not yet durable, or none (R161, R167, R173). Answers the
state and how the command completes at once, if it does; see log 84 (DEDUCED). -/
def endMaintenance (r : Run) (s : State) : State × Option (Status × Nat × Nat) :=
  let j := r.job
  match j.kind with
  | .link nsid idx =>
    match s.idx.find? fun i => i.nsid == nsid && i.id == idx with
    | none => (s, none)
    | some ix =>
      let o := publishResult j.order ix
      let changed := (o.1.zipIdx.filter fun x => some x.1 != ix.plots[x.2]?).flatMap fun x =>
        (ix.regionOff 3 + x.2 / 1024) :: x.1.npages.map (· + ix.regionOff 4) ++ x.1.rpages.map (· + ix.regionOff 5)
      (touchParts ix (if changed.isEmpty then [] else ix.tableFrames ++ changed) (modIndex nsid idx (fun i => { i with
        next := some (o.1, o.2.1), stale := i.stale + o.2.2.2
        work := .publish j.sqid j.cid j.order true }) s), none)
  | .train nsid idx =>
    match icTrain j.cmd r.coll s with
    | .error off => (s, some (.invalidField, 0x80000000 + off, icReq j.cmd))
    | .ok t =>
      (modIndex nsid idx (fun i => { i with
        work := .training j.sqid j.cid, centroids := t.1, codebooks := t.2, plots := List.replicate t.1.length ⟨[], none, 1, [], [], [], []⟩
        next := some ([], []) }) (dropUnits nsid (icFirst j.cmd * 16) (icFrames j.cmd * 16) s), none)
  | _ =>
    let nsid := j.cmd.nsid
    let id := j.cmd.cdw13.toNat
    match s.idx.find? fun i => i.nsid == nsid && i.id == id with
    | none => (s, some (.success, 0, 0))
    | some ix =>
      let a := j.cmd.cdw14.toNat
      let n := j.cmd.cdw15.toNat
      let b := if n = 0 then ix.nplots else min (a + n) ix.nplots
      let o := compactResult ix a b
      if o.2.2.1 = 0 then
        (nextPublish nsid id (modIndex nsid id (fun i => { i with work := .none }) s), some (.success, b - a, 0))
      else
        (modIndex nsid id (fun i => { i with
          next := some (o.1, o.2.1), work := .compact j.sqid j.cid (b - a) o.2.2.1 o.2.2.2 }) s, none)

/-- A job ends normally: its output is delivered and its command completes (R110, R115, R291). Without room for its result set it is torn
down (R310). -/
def endJob (p : Nat) (s : State) : State :=
  match (s.part p).run with
  | none => s
  | some r =>
    let j := r.job
    if j.stages.isEmpty then
      let m := endMaintenance r s
      let s := closeRun p m.1
      match m.2 with
      | some x => endFor j x.1 x.2.1 x.2.2 s
      | none => s
    else
      match j.kind with
      | .fan dev tag =>
        endFor j .success 0 0 (answerFan dev tag .success (r.recs.flatMap (·.raw)) r.poison (closeRun p s))
      | _ =>
        let rep := r.reply
        let d := deliver j.opc j.cmd p rep 0 s
        match d.2 with
        | some x => endFor j .success x.1 x.2 (closeRun p d.1)
        | none => tearJob p .poolExhausted (modRun p (fun r => { r with wrote := rep.whole (outlenOf j.cmd * 4096) }) d.1)

/-- Every cluster of a job stands at the end of its stage: the next stage is entered, or the job ends (R251). -/
def stageDone (p : Nat) (s : State) : State :=
  let s := mergeFan p (stageOutput p s)
  match (s.part p).run with
  | none => s
  | some r =>
    if r.teardown.isSome then s
    else
      let ended := r.clusters.all fun c => (s.clu c).core.st == .ended
      if ended || r.nstg ≤ r.stage + 1 then endJob p s
      else
        let bytes := (layOut r.fmt r.recs).1.length
        match allocate 5 p p bytes s.now 1 (freeUnit 5 p s) with
        | none => tearJob p .poolExhausted (exhausted s)
        | some s => enterStage p (modRun p (fun r => { r with stage := r.stage + 1, input := r.recs, recs := [] }) s)

end Sys2Proof.Machine
end

