-- ==== Sys2Proof/Machine/Keccak.lean ====
section
/-! DEFINITION. The sponge functions of FIPS 202 that the sled uses: SHAKE256 and SHA3-512 (18, Table 0.2). -/

namespace Sys2Proof.Machine

/-- The shift register of FIPS 202's rc after `t` steps from 1: x^8 + x^6 + x^5 + x^4 + 1 over the integers' bits. -/
def shiftReg : Nat → Nat
  | 0 => 1
  | t + 1 =>
    let r := 2 * shiftReg t
    if 256 ≤ r then r ^^^ 0x171 else r

/-- What iota adds in a round: bit 2^j - 1 is bit 0 of the register after j + 7 times the round's number of steps. -/
def iotaWord (round : Nat) : BitVec 64 :=
  BitVec.ofNat 64 (sumOf ((List.range 7).map fun j => shiftReg (j + 7 * round) % 2 * 2 ^ (2 ^ j - 1)))

/-- The exclusive or of words. -/
def xorAll (l : List (BitVec 64)) : BitVec 64 := l.foldl (· ^^^ ·) 0

/-- The state is its five planes, each of five lanes; theta, plane by plane. -/
def theta (a : List (List (BitVec 64))) : List (List (BitVec 64)) :=
  let par := (List.range 5).map fun x => xorAll (a.map fun p => p.getD x 0)
  a.map fun p => p.mapIdx fun x w => w ^^^ par.getD ((x + 4) % 5) 0 ^^^ (par.getD ((x + 1) % 5) 0).rotateLeft 1

/-- rho and pi together: both follow the walk that takes lane (x, y) to (y, 2x + 3y) from (1, 0), and step `t` of it turns the lane it
leaves by the triangular number of t + 1. `n` steps are left. -/
def rhoPi (a : List (List (BitVec 64))) : Nat → Nat → Nat → List (List (BitVec 64)) → List (List (BitVec 64))
  | 0, _, _, b => b
  | n + 1, x, y, b =>
    let t := 24 - (n + 1)
    let z := (2 * x + 3 * y) % 5
    rhoPi a n y z (b.modify z fun p => p.set y (((a.getD y []).getD x 0).rotateLeft ((t + 1) * (t + 2) / 2 % 64)))

/-- chi on one plane. -/
def chi (p : List (BitVec 64)) : List (BitVec 64) :=
  p.mapIdx fun x w => w ^^^ (~~~(p.getD ((x + 1) % 5) 0) &&& p.getD ((x + 2) % 5) 0)

/-- Keccak-f[1600]: 24 rounds. -/
def keccakF (a : List (List (BitVec 64))) : List (List (BitVec 64)) :=
  (List.range 24).foldl (fun a i =>
    let t := theta a
    ((rhoPi t 24 1 0 t).map chi).modify 0 fun p => p.modify 0 (· ^^^ iotaWord i)) a

/-- The planes that a block of bytes fills, and the bytes of a state. -/
def planesOf (b : List Byte) : List (List (BitVec 64)) :=
  (List.range 5).map fun y => (List.range 5).map fun x => BitVec.ofNat 64 (field b (40 * y + 8 * x) 8)
def stateBytes (a : List (List (BitVec 64))) : List Byte := a.flatten.flatMap fun w => leBytes 8 w.toNat

/-- Take in `n` blocks of `rate` bytes. -/
def takeIn (rate : Nat) (m : List Byte) (n : Nat) : List (List (BitVec 64)) :=
  (List.range n).foldl (fun a i =>
    keccakF (List.zipWith (List.zipWith (· ^^^ ·)) a (planesOf (slice m (rate * i) rate)))) (planesOf [])

/-- A sponge with rate `rate` and suffix byte `dom`, giving at most one block of output. -/
def sponge (rate : Nat) (dom : Byte) (out : Nat) (m : List Byte) : List Byte :=
  let n := m.length / rate + 1
  let fill := (m ++ dom :: zeros (rate * n)).take (rate * n)
  (stateBytes (takeIn rate (fill.modify (rate * n - 1) (· ||| 0x80)) n)).take out

/-- SHAKE256 with 64 bytes of output, and SHA3-512. -/
def shake256 (m : List Byte) : List Byte := sponge 136 0x1F 64 m
def sha3_512 (m : List Byte) : List Byte := sponge 72 0x06 64 m

end Sys2Proof.Machine
end

