-- ==== Sys2Proof/Machine/Security.lean ====
section
/-! DEFINITION. Keys, measurements, the owner, signatures of models and firmware, the debug policy, Attest (18). -/

namespace Sys2Proof.Machine

/-- DEVID (R478). -/
def devid : List Byte := shake256 Config.identityKey

/-- The contexts of the signatures (Table 18.1). -/
def ctxFW : List Byte := [0x4B, 0x39, 0x46, 0x57]
def ctxAT : List Byte := [0x4B, 0x39, 0x41, 0x54]
def ctxOW : List Byte := [0x4B, 0x39, 0x4F, 0x57]
def ctxMD : List Byte := [0x4B, 0x39, 0x4D, 0x44]

/-- Extend MEAS `i` with a digest (R482). -/
def extendMeas (i : Nat) (d : List Byte) (s : State) : State :=
  s.modSec fun x => { x with meas := x.meas.modify i fun m => shake256 (m ++ d) }

/-- The policy state as measured (Table 18.3; its order as bytes is a DESIGN CHOICE, log 43). -/
def policyBytes (x : Sec) : List Byte :=
  leBytes 1 (b2n x.owner.isSome) ++ x.owner.getD (zeros 57) ++ leBytes 1 (b2n x.signreq) ++ leBytes 1 x.debug ++
    leBytes 4 x.minsvn ++ leBytes 1 x.revoked

/-- Extend MEAS2 with the policy state. -/
def measurePolicy (s : State) : State := extendMeas 2 (shake256 (policyBytes s.sec)) s

/-- SEC_STAT (Table 18.9). -/
def Sec.stat (x : Sec) : Nat :=
  x.revoked * 256 + x.keyidx * 16 + x.debug * 4 + b2n x.signreq * 2 + b2n x.owner.isSome

/-- A debug write that the level forbids counts and does nothing; one that it allows counts and extends MEAS4 before it acts (R491):
whether it may act. The 16 bytes of the event are four words (DESIGN CHOICE, log 43). -/
def debugAct (level action unit off v : Nat) (s : State) : State × Bool :=
  if s.sec.debug < level then (s.modSec fun x => { x with denied := sat32 x.denied }, false)
  else
    let s := s.modSec fun x => { x with dbgCnt := sat32 x.dbgCnt }
    (extendMeas 4 (shake256 (leBytes 4 action ++ leBytes 4 unit ++ leBytes 4 off ++ leBytes 4 v)) s, true)

/-- The signature block at the end of a package or image (R489): where it starts and NSIG; none when it is malformed. -/
def sigBlock (b : List Byte) : Option (Nat × Nat) :=
  ((List.range 3).find? fun n =>
    let at_ := b.length - (16 + 192 * n)
    decide (16 + 192 * n ≤ b.length) && field b at_ 4 == 0x4D47534B && field b (at_ + 4) 1 == n && zeroAt b (at_ + 5) 11 &&
      (List.range n).all fun i =>
        let e := at_ + 16 + 192 * i
        field b e 1 == 1 && zeroAt b (e + 1) 7 && zeroAt b (e + 0x41) 7 && zeroAt b (e + 0xBA) 6).map
    fun n => (b.length - (16 + 192 * n), n)

/-- The entries of a signature block: signer's key, and whether the signature verifies. -/
def sigEntries (b : List Byte) : List (List Byte × Bool) :=
  match sigBlock b with
  | none => []
  | some (at_, n) => (List.range n).map fun i =>
      let e := at_ + 16 + 192 * i
      let key := slice b (e + 8) 57
      (key, Config.ed448Verify ctxMD key (shake256 (b.take at_)) (slice b (e + 0x48) 114))

/-- Whether an object carries a valid owner signature (R489). -/
def ownerSigned (x : Sec) (b : List Byte) : Bool :=
  (sigEntries b).any fun e => e.2 && some e.1 == x.owner

/-- Whether an object with a well-formed block is accepted (Table 18.7). -/
def signatureOk (x : Sec) (b : List Byte) : Bool :=
  (sigEntries b).all (·.2) && (!(x.owner.isSome && x.signreq) || ownerSigned x b)

/-- Verification of a firmware image (R480): the cause of Table 16.4, none when it passes. `rd` reads the image. -/
def firmwareCheck (rd : Nat → Nat → List Byte) (x : Sec) : Option Nat :=
  let h := rd 0 1024
  let body := field h 0x10 4
  let revoke := field h 6 1
  let key := field h 5 1
  let xo := (List.range 8).all fun r =>
    let w := field h (0x20 + 8 * r) 2
    let base := w % 4096
    let lim := field h (0x22 + 8 * r) 2
    bits w 14 12 == 0 && zeroAt h (0x24 + 8 * r) 4 &&
      (!bit w 15 || decide (base ≤ lim ∧ (lim + 1) * 65536 ≤ body + 1024))
  let form := field h 0 4 == 0x4957464B && field h 4 1 == 1 && decide (key < 4) && decide (revoke < 16) && zeroAt h 7 1 &&
    zeroAt h 0x14 12 && zeroAt h 0xD9 7 && zeroAt h 0x152 686 && decide (field h 0xC 4 ≤ field h 8 4) &&
    decide (body + 1024 ≤ 2 ^ 26) && xo && !bit revoke key
  let pub := slice h 0xA0 57
  if !form then some 1
  else if shake256 pub != shake256 (Config.rootKey key) then some 1
  else if !Config.ed448Verify ctxFW pub (h.take 0xE0) (slice h 0xE0 114) then some 1
  else if slice h 0x60 64 != shake256 (rd 1024 body) then some 1
  else if bit x.revoked key then some 2
  else if field h 8 4 < x.minsvn then some 2
  else none

/-- The certificate chain (R484). -/
def certChain : List Byte :=
  let certs := Config.rootCert ++ Config.middleCert ++ Config.deviceCert
  leBytes 2 (68 + certs.length) ++ zeros 2 ++ sha3_512 Config.rootCert ++ certs

/-- A signature of 114 bytes. -/
def sign (ctx m : List Byte) : List Byte := slice (Config.ed448Sign ctx m) 0 114

/-- The quote of Table 18.5. -/
def quote (nonce : List Byte) (s : State) : List Byte :=
  let x := s.sec
  let fl := b2n x.owner.isSome + 2 * b2n x.signreq + 4 * b2n (s.boot.phase == .trickle)
  let b := leBytes 4 0x5454414B ++ [1, 6] ++ zeros 2 ++ nonce ++ leBytes 8 s.boot.starts ++ leBytes 4 s.cfg.gen ++
    leBytes 4 x.svn ++ leBytes 4 x.minsvn ++ leBytes 1 x.debug ++ leBytes 1 fl ++ zeros 2 ++ devid ++ x.meas.flatMap id
  b ++ sign ctxAT b ++ zeros 14

/-- Whether an owner record's fields are as Table 18.6 requires. -/
def ownerForm (r : List Byte) : Bool :=
  let rop := field r 5 1
  field r 0 4 == 0x4E574F4B && field r 4 1 == 1 && (rop == 1 || rop == 2) && decide (field r 6 1 ≤ 2) &&
    decide (field r 7 1 < 2) && zeroAt r 0x89 7 && zeroAt r 0x102 14 &&
    (rop == 1 || field r 6 1 == 0 && zeroAt r 0x50 57)

/-- Whether the signature of an owner record verifies against a signer that R487 admits. -/
def ownerSigner (x : Sec) (r : List Byte) : Bool :=
  let v := fun key => Config.ed448Verify ctxOW key (r.take 0x90) (slice r 0x90 114)
  let rop := field r 5 1
  match x.owner with
  | none => rop == 1 && v (slice r 0x50 57)
  | some k => v k || rop == 2 && (List.range 4).any fun i => !bit x.revoked i && v (Config.rootKey i)

/-- Accept or refuse an owner record (R487): none when it is refused. -/
def ownerRecord (r : List Byte) (s : State) : Option State :=
  let x := s.sec
  if ownerForm r && slice r 0x10 64 == devid && decide (x.ownerSeq < field r 8 8) && ownerSigner x r then
    let set := field r 5 1 == 1
    some (measurePolicy (s.modSec fun x => { x with
      ownerSeq := field r 8 8
      owner := if set then some (slice r 0x50 57) else none
      signreq := set && bit (field r 7 1) 0
      debug := if set then field r 6 1 else 2 }))
  else none

/-- A buffer that is too short for an Attest operation (R483). -/
def attestShort (c : Cmd) (need : Nat) (s : State) : State := doneWith c .invalidField 11 need s

/-- Attest (R483): `k` is its operation, run once the dwords are found right. -/
def attest (c : Cmd) (k : State → State) (s : State) : State :=
  if !decide (c.cdw10.toNat < 16) then badDword 10 c s
  else if 65536 < c.cdw11.toNat then badDword 11 c s
  else match [c.cdw12, c.cdw13, c.cdw14, c.cdw15].findIdx? (· != 0) with
    | some i => badDword (12 + i) c s
    | none => k s

/-- Certificates. -/
def attestCerts (c : Cmd) : State → State := attest c fun s =>
  if c.cdw11.toNat < certChain.length then attestShort c certChain.length s
  else ok c (hostData c.sqid c.cid 0 certChain s)

/-- Quote. -/
def attestQuoteOp (c : Cmd) : State → State := attest c fun s =>
  if c.cdw11.toNat < 640 then attestShort c 640 s
  else ok c (hostData c.sqid c.cid 0 (quote (slice c.data 0 32) s) s)

/-- Owner. -/
def attestOwnerOp (c : Cmd) : State → State := attest c fun s =>
  if c.cdw11.toNat < 272 then attestShort c 272 s
  else match ownerRecord (slice c.data 0 272) s with
    | none => done c .accessDenied s
    | some s => doneWith c .success s.sec.stat 0 s

/-- Attest by its operation (Table 18.4). -/
def effAttest (c : Cmd) (s : State) : State :=
  match c.cdw10.toNat % 16 with
  | 0 => attestCerts c s
  | 1 => attestQuoteOp c s
  | 2 => attestOwnerOp c s
  | _ => badDword 10 c s

end Sys2Proof.Machine
end

