-- ==== Sys2Proof/Machine/Admit.lean ====
section
/-! DEFINITION. Dispatch: the admission checks, the start of a job or of a batch, joins, spare substitution and the job boundary
(R119, R230 to R232, R291 to R298, R305 to R309). -/

namespace Sys2Proof.Machine

/-- The state as a waiting command sees its objects: an index being dropped, and a result set released since, are still there for a
command fetched before (R114, R164). -/
def State.asHeld (s : State) (key : Nat × Nat) : State :=
  (s.modIdx (·.map fun i => { i with dropping := none })).modRes fun r => { r with
    sets := r.sets.map fun x => if x.users.contains key then { x with released := false } else x }

/-- Whether a commit has drained a partition (R423 step 2). -/
def State.draining (s : State) (p : Nat) : Bool :=
  match s.cfg.commit with
  | some c => c.drained.contains p
  | none => false

/-- The index and the EPOCH field of a query that binds to an epoch (R120): stage, index, EPOCH. -/
def epochOf (s : State) (j : Job) : Option (StageD × Index × Nat) :=
  match j.stages.head? with
  | some d =>
    if d.sopc == 0x8F || d.sopc == 0xB2 then
      (s.index? j.cmd.nsid d.objid).map fun ix => (d, ix, d.num j.cmd.params 0x10 4)
    else none
  | none => none

/-- The scan programs whose fields are not as the collection has them (R138): where the check points. -/
def scanMismatch (s : State) (j : Job) : Option Nat :=
  j.stages.findSome? fun d =>
    if d.sopc == 0x82 && d.num j.cmd.params 0x18 4 != 0 then
      match s.stored? (d.num j.cmd.params 0x18 4), s.coll? j.cmd.nsid d.objid with
      | some o, some k =>
        if (Config.scanFields o.bytes).all fun f => k.fields[f.1]? == some ⟨f.2.1, f.2.2.2.1, f.2.2.1, f.2.2.2.2⟩ then none
        else some (d.off + 0x18)
      | _, _ => none
    else none

/-- SRCCOLL and SRCFIELD of a training job, checked again as it starts (R127): where the check points. -/
def trainMismatch (s : State) (j : Job) : Option Nat :=
  match j.kind with
  | .train _ _ => firstBad ((icFields j.cmd s).filter fun x => x.2 == 0x2C || x.2 == 0x30)
  | _ => none

/-- The checks at dispatch in the order of Table 3.23: existence, commit and partition state, installation, epoch, residency;
see log 86 (DEDUCED). -/
def dispatchCheck (s : State) (j : Job) : Option Bad :=
  let v := s.asHeld (j.sqid, j.cid)
  let cs := s.clustersOf j.part
  let ep := epochOf v j
  let maint := match j.kind with | .link _ _ => true | .train _ _ => true | _ => false
  match if maint || j.opc == 0xA0 then none else checkObjects j.opc j.cmd v with
  | some b => some b
  | none => firstBad [
      ((trainMismatch v j).isNone, Bad.param ((trainMismatch v j).getD 0)),
      ((scanMismatch v j).isNone, Bad.param ((scanMismatch v j).getD 0)),
      (!(s.draining j.part && j.dl), .status .commitPending),
      (!cs.isEmpty && !(s.part j.part).resetting, .status .partitionBusy),
      (!j.dl || admits v j cs.length (jobBound v j cs.length), .status .partitionBusy),
      (!((j.models ++ j.programs).any s.installing), .status .programBusy),
      (!s.sec.signreq || (j.models ++ j.programs).all (fun id => match s.stored? id with
        | some o => ownerSigned s.sec o.bytes | none => true), .status .accessDenied),
      (match ep with
        | some (_, ix, e) => e == 0 || ix.retained e || ix.unpublished e
        | none => true, .status .epochStale),
      (match ep with
        | some (_, ix, e) => e == 0 || ix.retained e
        | none => true, .param (match ep with | some (d, _, _) => d.off + 0x10 | none => 0)),
      (!j.dl || j.models.all s.resident, .status .notResident),
      (match ep with
        | some (d, ix, e) => d.sopc != 0xB2 ||
            decide (d.num j.cmd.params 0x14 4 ≤ (liveItems ix ⟨[], []⟩ (ix.plotsAt (if e = 0 then ix.epoch else e))).length)
        | none => true, .param (match ep with | some (d, _, _) => d.off + 0x14 | none => 0)),
      (j.opc != 0xA7 || j.cmd.cdw15 == 0 || !(s.lnk.insts.any fun i => i.2.1 == j.cmd.cdw15.toNat), .status .commandSequence)]

/-- A job that fails a check at dispatch ends with its status and is charged nothing (R294); a refused deadline job counts, and
its model's load starts (R303). -/
def refuse (j : Job) (b : Bad) (s : State) : State :=
  let s := takeJob j s
  match b with
  | .dword n => endFor j .invalidField n 0 s
  | .param off =>
    endFor j .invalidField (0x80000000 + off) (match j.kind with | .train _ _ => icReq j.cmd | _ => 0) s
  | .status st =>
    let late := j.dl && (st == .partitionBusy || st == .notResident)
    let s := if late then modPart j.part (fun p => { p with cnt := { p.cnt with dlRefused := p.cnt.dlRefused + 1 } }) s else s
    let s := if st == .notResident then (startLoads (s.toLoad j) s).getD s else s
    endFor j st 0 0 s

/-- Whether a job runs in a batch (R305). -/
def Job.batches (j : Job) : Bool :=
  (match j.kind with | .command => true | _ => false) && !j.dl && j.stages.length == 1 && j.stages.all StageD.isModel

/-- The model of a batchable job. -/
def Job.model (j : Job) : Nat := j.models.headD 0

/-- Take a job off its queue as it is dispatched or joins. -/
def dispatched (j : Job) (s : State) : State :=
  let s := modPart j.part (fun p => { p with
    dispatched := p.dispatched.modify j.jq (· + 1)
    cnt := { p.cnt with dlAdmit := if j.dl then p.cnt.dlAdmit + 1 else p.cnt.dlAdmit } }) (takeJob j s)
  j.models.foldl (fun s m => useModel m s) s

/-- Start a job context on the clusters of a job. -/
def startContexts (cs : List Nat) (s : State) : State :=
  let gens := s.clus.map (·.ctxgen)
  useGrants cs (cs.foldl (fun s c => modClu c (Clu.startContext gens) s) s)

/-- The images that a job names: its programs, and the stage images of its models. -/
def jobImages (s : State) (j : Job) : List (List Byte) :=
  (j.programs.filterMap fun id => (s.stored? id).map (·.bytes)) ++
  j.models.flatMap fun m => match s.stored? m with | some o => pkgImages o | none => []

/-- The regions of a job's images are allocated (R235): none without room. -/
def takeRegions (j : Job) (s : State) : Option State :=
  let bytes := regionBytes (jobImages s j)
  if bytes = 0 then some s else allocate 4 j.part j.part bytes s.now 1 s

/-- The collection that a job reads first, as it stands when the job starts (R127). -/
def firstColl (s : State) (j : Job) : Option Coll :=
  match j.kind with
  | .train _ _ => s.coll? j.cmd.nsid (icNum j.cmd 0x2C 4)
  | _ => match j.stages.head? with
    | some d => if d.src == 1 || d.sopc == 0x82 then s.coll? j.cmd.nsid d.objid else none
    | none => none

/-- Dispatch a job to its clusters (R206, R235, R295, R298, R377): regions, bound, epoch, instance, contexts, the first stage. -/
def startRun (j : Job) (s : State) : State :=
  let p := j.part
  let cs := s.clustersOf p
  let v := s.asHeld (j.sqid, j.cid)
  match takeRegions j s with
  | none => endFor j .poolExhausted 0 0 (takeJob j (exhausted s))
  | some s =>
    let b := jobBound v j cs.length
    let epoch := match epochOf v j with
      | some (_, ix, e) => if e = 0 then ix.epoch else e
      | none => 0
    let tag := if j.opc == 0xA7 then j.cmd.cdw15.toNat else 0
    let r : Run :=
      { job := j, stage := 0, nstg := max 1 j.stages.length, cycles := 0, bound := b, limit := jobLimit v j cs.length b
        clusters := cs, gen := (s.clu (cs.headD 0)).ctxgen, input := [], recs := [], out := [], nrec := 0, recsz := 0
        fmt := 0, poison := [], flags := 0, stat := 0, epoch := epoch, missing := [], atBar := []
        teardown := none, tdAt := 0, cursor := 0, marks := []
        copies := (j.models ++ j.programs).filterMap fun id => (s.stored? id).map fun o => (id, o.bytes)
        regions := [], inst := if tag = 0 then 0 else s.lnk.nextInst, coll := firstColl v j, seen := [] }
    let s := dispatched j s
    let s := if tag = 0 then s else s.modLnk fun l => { l with
      insts := l.insts ++ [(p, tag, l.nextInst)], nextInst := if l.nextInst + 1 = 2 ^ 32 then 1 else l.nextInst + 1 }
    let s := match epochOf v j with
      | some (_, ix, _) => modIndex ix.nsid ix.id (fun i => { i with bound := i.bound ++ [(epoch, j.sqid, j.cid)] }) s
      | none => s
    let s := if j.opc == 0xA0 then
        modIndex j.cmd.nsid j.cmd.cdw13.toNat (fun i => { i with work := .compact j.sqid j.cid 0 0 0 }) s
      else s
    let s := modPart p (fun x => { x with run := some r }) s
    enterStage p (startContexts cs s)

/-- The batch of a partition, and changing it. -/
def modBatch (p : Nat) (f : Batch → Batch) (s : State) : State := modPart p (fun x => { x with batch := x.batch.map f }) s

/-- The package that a batchable job names. -/
def batchPackage (s : State) (j : Job) : List Byte := match s.stored? j.model with | some o => o.bytes | none => []

/-- The model of a batch as an object. -/
def batchModel (b : Batch) : Stored := ⟨b.model, true, b.copy, false⟩

/-- The records that a member brings, and the poison list of their reading (R133). -/
def memberSeen (s : State) (j : Job) : List Seen :=
  match j.stages.head? with
  | some d => s.source j.cmd d
  | none => []

/-- A job becomes a member of a batch (R305). -/
def addMember (p : Nat) (j : Job) (s : State) : State :=
  match (s.part p).batch, j.stages.head? with
  | some b, some d =>
    let o := batchModel b
    let seen := memberSeen (s.asHeld (j.sqid, j.cid)) j
    let schema := chainSchema (s.asHeld (j.sqid, j.cid)) j.cmd j.stages
    let seqs := (seenRecs seen).zipIdx.map fun r => seqOf o schema (d.num j.cmd.params 0x14 2) (j.sqid, j.cid) r.2 r.1
    let s := dispatched j s
    modBatch p (fun b => { b with members := b.members ++ [{
      job := j, schema := schema, waiting := seqs, done := [], poison := seenBad seen, leaving := none }] }) s
  | _, _ => s

/-- Join waiting sequences of the members in order (R307 step 2): the members, what has joined, and whether joining stopped. -/
def joinMembersSeqs (o : Stored) (active : List BSeq) : List Member → List Member × List BSeq × Bool × Bool
  | [] => ([], active, false, false)
  | m :: ms =>
    let j := joinSeqs (freeUnits o active) (1024 - active.length) m.waiting
    let m' := { m with waiting := j.2.1 }
    if j.2.1.isEmpty then
      let r := joinMembersSeqs o (active ++ j.1) ms
      (m' :: r.1, r.2.1, r.2.2.1, r.2.2.2)
    else (m' :: ms, active ++ j.1, true, j.2.2)

/-- Sequences join, first those of the members, then those of new members while the batch is open (R307 steps 2 and 3). A selected job of
another kind closes the batch; its model's load starts when it is not resident (R303). `n` bounds the new members. -/
def joinLoop (p : Nat) : Nat → State → State
  | 0, s => s
  | n + 1, s =>
    match (s.part p).batch with
    | none => s
    | some b =>
      let o := batchModel b
      let r := joinMembersSeqs o b.active b.members
      let fresh := r.2.1.drop b.active.length
      let cut := (fresh.filter fun x => decide (pkgMaxTok o < x.tokens)).length
      let s := modPart p (fun x => { x with
        batch := x.batch.map fun b => { b with members := r.1, active := r.2.1 }
        cnt := { x.cnt with trunc := x.cnt.trunc + cut, joinDefer := x.cnt.joinDefer + b2n r.2.2.2 } }) s
      if r.2.2.1 || b.closed || s.draining p then s
      else
        let sel := nextJob p s
        match sel.2 with
        | none => sel.1
        | some j =>
          let ms := sel.1.toLoad j
          if !j.dl && !ms.isEmpty then
            match startLoads ms sel.1 with
            | some s => modBatch p (fun b => { b with closed := true }) s
            | none => joinLoop p n (endFor j .poolExhausted 0 0 (takeJob j (exhausted sel.1)))
          else if j.batches && j.opc == b.opc && j.model == b.model && (batchPackage s j == b.copy) then
            match dispatchCheck sel.1 j with
            | some bad => joinLoop p n (refuse j bad sel.1)
            | none => joinLoop p n (addMember p j sel.1)
          else modBatch p (fun b => { b with closed := true }) sel.1

/-- The watchdog limit of the step that starts (R308). -/
def stepLimit (o : Stored) (n : Nat) (active : List BSeq) : Nat :=
  (5 * stepBound o n (sumOf (active.map (stepTokens o))) + 3) / 4

/-- The records of a member that can be delivered: in the order in which they left, for an Embed of host input in input order as far as no
record before them is missing (R105). -/
def Member.ready (m : Member) : List Rec :=
  match m.job.stages.head? with
  | some d =>
    if d.sopc == 0x87 && d.src == 3 then
      (((sortBy (·.1) m.done).zipIdx.takeWhile fun x => x.1.1 == x.2).map fun x => x.1.2)
    else m.done.map (·.2)
  | none => []

/-- The records a member has finished, as the stage delivers them (R89, R90), and what its finished records say. -/
def memberOut (o : Stored) (m : Member) : StageOut :=
  match m.job.stages.head? with
  | none => {}
  | some d =>
    let run := fun (l : List Rec) => if d.sopc == 0x8A then stageScore o m.schema m.job.cmd.params d l
      else stageEmbed o m.schema m.job.cmd.params d l
    let r := run (m.done.map (·.2))
    let out := run m.ready
    { r with recs := out.recs, nrec := out.nrec, poison := m.poison ++ r.poison.filter fun x => !m.poison.contains x }

/-- The faults with which the records that left end the batch: a poisoned record under POISTRICT, a saturation limit (R91, R107, R309); of
several the first by status code (R119). -/
def stepFault (o : Stored) (b : Batch) : Option Status :=
  (sortBy Status.code (b.members.flatMap fun m =>
    let out := memberOut o m
    (if poistrictOf m.job.cmd && !out.poison.isEmpty then [.poisonedResult] else []) ++ out.fail.toList)).head?

/-- The records of a member that have left are written to its data buffer (R307 step 1). -/
def writeLeft (p : Nat) (o : Stored) (m : Member) (s : State) : State :=
  let c := m.job.cmd
  if rsoOf c then s
  else
    let out := memberOut o m
    let lay := layOut out.fmt out.recs
    let cap := outlenOf c * 4096 - 64
    let s := hostData m.job.sqid m.job.cid (outoffOf c + 64 + m.area) ((lay.1.take cap).drop m.area) s
    modBatch p (fun b => { b with members := b.members.map fun x => if x.job == m.job then
      { x with area := max x.area (min cap lay.1.length), wrote := (lay.2.filter fun y => decide (y.1 + y.2.1 ≤ cap)).length } else x }) s

/-- The reply of a member with what it has finished. -/
def memberReply (o : Stored) (m : Member) : Reply :=
  let out := memberOut o m
  let lay := layOut out.fmt out.recs
  { fmt := out.fmt, recsz := out.recsz, nrec := out.nrec, stat := 0, epoch := 0, flags := out.flags, area := lay.1, recs := lay.2
    poison := out.poison, missing := [] }

/-- A member's command ends: its use of the model ends, it counts as a job. -/
def leaveBatch (p : Nat) (copy : List Byte) (m : Member) (s : State) : State :=
  let s := m.job.models.foldl (fun s k => unuseModel k copy s) s
  modPart p (fun x => { x with
    batch := x.batch.map fun b => { b with members := b.members.filter fun y => y.job != m.job }
    cnt := { x.cnt with jobs := x.cnt.jobs + 1 } }) s

/-- A member whose last sequence has left completes; without room for its result set the batch is torn down (R309, R310); see log 42
(DEDUCED). -/
def finishMember (p : Nat) (o : Stored) (m : Member) (s : State) : State :=
  if s.tearing p then s
  else
    let d := deliver m.job.opc m.job.cmd p (memberReply o m) m.area s
    match d.2 with
    | some x => endFor m.job .success x.1 x.2 (leaveBatch p o.bytes m d.1)
    | none => tearJob p .poolExhausted d.1

/-- The members whose last sequence has left complete (R307). -/
def finishMembers (p : Nat) (s : State) : State :=
  match (s.part p).batch with
  | none => s
  | some b =>
    let live := fun (m : Member) => !m.waiting.isEmpty || b.active.any fun x => (x.sqid, x.cid) == (m.job.sqid, m.job.cid)
    (b.members.filter fun m => !live m).foldl (fun s m => finishMember p (batchModel b) m s) s

/-- The end of a batch job: its clusters are cleared, and the job boundary follows (R307 step 4). -/
def closeBatch (p : Nat) (s : State) : State :=
  match (s.part p).batch with
  | none => s
  | some b =>
    let s := freeUnit 4 p (b.clusters.foldl (fun s c => modClu c Clu.endContext s) s)
    modPart p (fun x => { x with batch := none, clearing := true }) s

/-- The stage images of a batch's model, and the SATPOL of its first member (R279). -/
def Batch.images (b : Batch) : List StageImage := modelImages b.model b.copy
def Batch.satpol (b : Batch) : Nat :=
  match b.members.head? with
  | some m => (match m.job.stages.head? with | some d => d.pol m.job.cmd.params | none => 0)
  | none => 0

/-- The clusters of a batch as its step starts: several stage images are loaded in turn in each step (R305, R206). -/
def stepImages (b : Batch) (s : State) : State :=
  b.clusters.foldl (fun s c => modClu c (fun x =>
    let y := if b.images.length ≤ 1 then x else x.loadImages b.images
    { y with gen := if b.images.length ≤ 1 then x.gen else y.imgen, ar := { y.ar with satpol := b.satpol } }) s) s

/-- Members that have finished complete, sequences join, and the next step starts; without an active sequence the batch job ends
(R307). -/
def nextStep (p : Nat) (s : State) : State :=
  let s := finishMembers p s
  let s := if s.tearing p then s else joinLoop p (selBound s p) s
  match (s.part p).batch with
  | none => s
  | some b =>
    match (if b.teardown.isSome then none else stepFault (batchModel b) b) with
    | some st => tearJob p st s
    | none =>
      let s := finishMembers p s
      match (s.part p).batch with
      | none => s
      | some b =>
        if b.teardown.isSome then s
        else if b.active.isEmpty then closeBatch p s
        else stepImages b (modBatch p (fun b => { b with
          cycles := 0, limit := stepLimit (batchModel b) b.clusters.length b.active }) s)

/-- Dispatch a batch job with its first member (R305). -/
def startBatch (j : Job) (s : State) : State :=
  let p := j.part
  let cs := s.clustersOf p
  match takeRegions j s with
  | none => endFor j .poolExhausted 0 0 (takeJob j (exhausted s))
  | some s =>
    let b : Batch := { model := j.model, copy := batchPackage s j, opc := j.opc, members := [], active := [], closed := false, clusters := cs
                       cycles := 0, limit := 0, teardown := none }
    let s := startContexts cs (modPart p (fun x => { x with batch := some b }) s)
    let s := cs.foldl (fun s c => modClu c (Clu.loadImages b.images) s) s
    let g := lastImage b.images
    let weights := leNat (slice b.copy 0x30 8)
    nextStep p (addMember p j (placeBare cs g 0 (stageRegions p 0 weights g.image) (.barrier 2 0) s))

/-- The image of the first stage of a job that is not yet dispatched. -/
def firstImage (s : State) (j : Job) : StageImage :=
  match j.stages.head? with
  | none => vendorImage
  | some d =>
    let id := d.prog j.cmd.params
    match (if id = 0 then none else s.stored? id) with
    | some o => ⟨imgKind o.bytes, id, imgCode o.bytes, o.bytes⟩
    | none =>
      let m := d.num j.cmd.params 0x10 4
      if d.isModel then ((modelImages m (match s.stored? m with | some o => o.bytes | none => [])).head?).getD vendorImage
      else vendorImage

/-- Substitute the spare array of a cluster (R230). -/
def spareArray (c : Nat) (s : State) : State :=
  let x := s.clu c
  match x.failPend with
  | [] => s
  | a :: _ =>
    let s := modClu c (fun x => { x with afailed := a, failPend := [] }) s
    let s := addRecord { kind := 7, action := 3, inst := c, spare := true } s
    losePromise 2 7 c s

/-- Substitute the spare cluster of a die, or lose the cluster (R30, R231, R232). -/
def spareCluster (c : Nat) (s : State) : State :=
  let x := s.clu c
  let s := if s.clus.any fun y => y.spare && y.die == x.die then
      addRecord { kind := 0xB, cls := 2, action := 8, inst := c, own := true }
        ((modClu c (fun x => { x with cluFail := false, failPend := [], lost := true }) s).modGen fun g => { g with lost := true })
    else
      let s := modClu c (fun x => { x with
        cluFail := false, failPend := [], afailed := 31, spare := true, phys := 16 }) s
      let s := addRecord { kind := 0xB, action := 3, inst := c, spare := true } s
      raiseEvent 7 4 0xC5 (losePromise x.die 0xB c s)
  closeHandling (.unit 0xB c) s

/-- Substitute what has failed in a cluster (R230 to R232). -/
def substituteIn (c : Nat) (s : State) : State := if (s.clu c).cluFail then spareCluster c s else spareArray c s

/-- The substitutions of a job boundary in a partition (R230 to R232). A cluster in no partition is substituted at its next start, which the
spec leaves open; see log 108 (DESIGN CHOICE). -/
def substitute (p : Nat) (s : State) : State := (s.clustersOf p).foldl (fun s c => substituteIn c s) s

/-- Try to dispatch the selected job: substitutions of its clusters come first (R231), its clusters wake (R396), its checks are made, and clusters that need an image and are not
quiescent are waited for (R208). It stays selected while it waits; a Compact that now waits for a Publish goes back to the head of its
queue (R168). -/
def attempt (j : Job) (s : State) : State :=
  let s := substitute j.part s
  let cs := s.clustersOf j.part
  if s.mgmt.ps > 2 then s
  else if s.compactHeld j then
    modPart j.part (fun p => { p with queues := p.queues.modify j.jq fun q => j :: q, sel := none }) s
  else if cs.isEmpty then refuse j (.status .partitionBusy) s
  else
    let s := wakeClusters cs s
    if !s.granted cs then s
    else
      match dispatchCheck s j with
      | some b => refuse j b s
      | none =>
        let busy := cs.filter fun c => (s.clu c).needs (firstImage s j) && !s.quiescent c
        if !busy.isEmpty then busy.foldl (fun s c => modClu c (fun x => { x with reloadWait := true }) s) s
        else if j.batches then startBatch j s
        else startRun j s

/-- Whether a partition may select: nothing runs, waits or is being cleared. -/
def Part.idle (x : Part) : Bool := x.run.isNone && x.batch.isNone && !x.resetting && !x.clearing

/-- The deadline jobs of a drained partition complete with Commit Pending (R423 step 2). -/
def refuseDeadlines (p : Nat) (s : State) : State :=
  (((s.part p).queues.flatMap id ++ (s.part p).sel.toList).filter (·.dl)).foldl
    (fun s j => refuse j (.status .commitPending) s) s

/-- Select and dispatch until a job runs, waits, or none can be selected (R293, R294). `n` bounds the jobs. -/
def trySelect (p : Nat) : Nat → State → State
  | 0, s => s
  | n + 1, s =>
    if !(s.part p).idle then s
    else if s.draining p then refuseDeadlines p s
    else match (s.part p).sel with
      | some j =>
        let s := attempt j s
        if (s.part p).sel.isSome then s else trySelect p n s
      | none =>
        let r := selectJob p (selBound s p) s
        match r.2 with
        | none => r.1
        | some j =>
          let s := modPart p (fun x => { x with sel := some j }) (takeJob j r.1)
          let s := attempt j s
          if (s.part p).sel.isSome then s else trySelect p n s

/-- Select in a partition that is idle; in PS3 and PS4 the clusters are stopped (Table 2.6); see log 83 (DEDUCED). -/
def kick (p : Nat) (s : State) : State := if 3 ≤ s.mgmt.ps then s else trySelect p (selBound s p + 1) s

/-- Select in every partition. -/
def kickAll (s : State) : State := (List.range 8).foldl (fun s p => if s.present p then kick p s else s) s

/-- The job boundary of a partition (R291). -/
def boundary (p : Nat) (s : State) : State :=
  let x := s.part p
  if x.run.isSome || x.batch.isSome || x.resetting then s
  else kick p (substitute p (modPart p (fun x => { x with clearing := false }) s))

end Sys2Proof.Machine
end

