-- ==== Sys2Proof/Machine/Ports.lean ====
section
/-! DEFINITION. Ports going down and training, and flows that move to other paths (R363, R367 to R369, R372, R374, R376). -/

namespace Sys2Proof.Machine

/-- A device becomes lost: its operations end, and the fan-outs and shuffles that wait for it go on without it (R376, R381, R383). -/
def deviceLost (d : Nat) (s : State) : State :=
  let s := loseDevice d s
  let s := (s.lnk.fans.filter fun f => f.waiting.any fun w => w.1 == d).foldl (fun s f => memberMissing f.part d .remoteUnreachable s) s
  let s := s.modLnk fun l => { l with shuffles := l.shuffles.filter fun x => !(x.fdev == d && x.fdev != s.cfg.conf.devnum) }
  (s.lnk.shuffles.filter fun x => x.members.contains d).foldl (fun s x => shuffleWithout x.tag x.fdev d s) s

/-- A flow moves to the path that R372 gives over the remaining set, and resends there what is not acknowledged, with RETX
(R374); without a path its device is lost. -/
def moveFlow (d f : Nat) (s : State) : State :=
  let x := s.flowOf d f
  match (s.goodPaths d)[f % (s.goodPaths d).length]? with
  | none => deviceLost d (setFlow { x with path := none } s)
  | some q =>
    let again := x.unacked.map fun u => { u with msg := { u.msg with retx := true }, at_ := s.now, tries := 0 }
    let s := setFlow { x with path := some q, unacked := again } s
    let s := s.modLnk fun l => { l with failover := sat32 l.failover, retx := satAdd32 l.retx again.length }
    again.foldl (fun s u => putOnLink (some q) u.msg s) s

/-- Move every flow whose path is not good any more; a known device without a path is lost (R376). -/
def moveFlows (s : State) : State :=
  let gone := s.lnk.flows.filter fun x => match x.path with
    | some p => !(s.goodPaths x.dev).contains p
    | none => false
  let s := gone.foldl (fun s x => moveFlow x.dev x.flow s) s
  (s.lnk.peers.filter fun p => !p.lost && (s.goodPaths p.dev).isEmpty).foldl (fun s p => deviceLost p.dev s) s

/-- Whether ports are powered: the management processor runs, not in Trickle mode, not in PS4 (R369). -/
def State.portsOn (s : State) : Bool :=
  (s.boot.phase == .ready || s.boot.phase == .replay) && s.mgmt.ps != 4 && s.cfg.conf.devnum != 16383

/-- Take a port down into a state (Table 13.10), with its cause. -/
def lowerPort (n st cause : Nat) (s : State) : State :=
  modPort n (fun p => { p with st := st, elec := false, cause := cause, ifup := 0, width := 0, peer := none }) s

/-- A port goes down (R363): event 05h when it was up. -/
def portDown (n st cause : Nat) (s : State) : State :=
  let up := (s.port n).st == 2 || (s.port n).st == 4
  let s := lowerPort n st cause s
  let s := if up then raiseEvent 7 5 0xC6 s else s
  moveFlows s

/-- A port trains anew in the mode in force, or stays down. -/
def retrain (n : Nat) (s : State) : State :=
  portDown n (if s.pmode n != 0 && s.portsOn then 1 else 0) 0 (modPort n (fun p => { p with mode := s.pmode n }) s)

/-- Every port trains anew, or goes down. -/
def retrainAll (s : State) : State := (List.range s.variant.ports).foldl (fun s n => retrain n s) s

/-- Every remote operation and fan-out in flight ends as though its peer were unreachable (R367). -/
def endRemote (s : State) : State :=
  let s := s.lnk.ops.foldl (fun s o => failOp o .remoteUnreachable s) s
  s.lnk.fans.foldl (fun s f => f.waiting.foldl (fun s w => memberMissing f.part w.1 .remoteUnreachable s) s) s

/-- What the ports do at the frame marker of a commit (R367). -/
def applyRunnel (old : Conf) (s : State) : State :=
  let c := s.cfg.conf
  if old.devnum != c.devnum || old.sysid != c.sysid || old.pfx != c.pfx || old.udpport != c.udpport || old.vlan != c.vlan then
    retrainAll (endRemote s)
  else
    ((List.range s.variant.ports).filter fun n => old.pmode.getD n 0 != c.pmode.getD n 0).foldl (fun s n => retrain n s) s

/-- BINDACK: the instance's token, its region table, the CTXGEN of each cluster (R377). -/
def sendBindAck (dev tag : Nat) (i : Nat × Nat × Nat) (s : State) : State :=
  match (s.part i.1).run with
  | none => s
  | some r =>
    let table := (List.range 14).flatMap fun k => leBytes 8 (r.regions.getD k (0, 0)).1 ++ leBytes 8 (r.regions.getD k (0, 0)).2
    let gens := (List.range s.variant.clusters).map fun c => BitVec.ofNat 8 (s.clu c).ctxgen
    emit { s.msg 0x11 dev 128 with
      inst := i.2.2
      jobtag := tag
      payload := table ++ gens } s

/-- Answer the binds whose instance runs now (R377). -/
def bindStep (s : State) : State :=
  let now := s.lnk.bindWait.filter fun w => s.lnk.insts.any fun i => i.2.1 == w.2
  if now.isEmpty then s
  else
    let s := s.modLnk fun l => { l with bindWait := l.bindWait.filter fun w => !now.contains w }
    now.foldl (fun s w => match s.lnk.insts.find? fun i => i.2.1 == w.2 with
      | some i => sendBindAck w.1 w.2 i s
      | none => s) s

end Sys2Proof.Machine
end

