-- ==== Sys2Proof/Machine/ConfigTx.lean ====
section
/-! DEFINITION. Configuration transactions: Stage, Check, Commit, Discard (15), and the Check Result page. What a failing rule
reports where Table 15.5 leaves a choice: log 88 (DEDUCED). -/

namespace Sys2Proof.Machine

/-- The settings of a configuration: item code and index (Table 15.1), in ascending order. -/
def settings : List (Nat × Nat) :=
  (List.range 8).map (fun i => (1, i)) ++ (List.range 8).map (fun i => (2, i)) ++ (List.range 128).map (fun i => (3, i)) ++
    (List.range 8).map (fun i => (4, i)) ++ (List.range 8).map (fun i => (5, i)) ++ [(0x10, 0), (0x11, 0)] ++
    (List.range 4).map (fun i => (0x12, i)) ++ [(0x13, 0), (0x14, 0), (0x15, 0), (0x16, 0)] ++
    (List.range 64).map (fun i => (0x17, i)) ++ (List.range 6).map (fun i => (0x20 + i, 0))

/-- The value of an object group entry (Table 15.2). -/
def groupBytes (g : Option ObjGroup) : List Byte :=
  match g with
  | none => zeros 2064
  | some g => leBytes 4 g.nsid ++ leBytes 4 g.objid ++ leBytes 1 g.kind ++ leBytes 1 g.part ++ leBytes 1 g.jq ++ leBytes 1 1 ++
      zeros 4 ++ leBytes 2048 g.members
def groupOfBytes (b : List Byte) : Option ObjGroup :=
  if bit (field b 0xB 1) 0 then
    some ⟨field b 0 4, field b 4 4, field b 8 1, field b 9 1, field b 0xA 1, field b 0x10 2048⟩
  else none

/-- The value of a setting as a number; object groups are compared as entries. -/
def Conf.num (c : Conf) (item idx : Nat) : Nat :=
  match item with
  | 1 => c.clusters.getD idx 0
  | 2 => c.share.getD idx 0
  | 3 => b2n (c.queues.getD idx (false, 0)).1 + 256 * (c.queues.getD idx (false, 0)).2
  | 4 => c.quantum.getD idx 0
  | 5 => c.jwlim.getD idx 0
  | 0x10 => c.devnum
  | 0x11 => c.sysid
  | 0x12 => c.pmode.getD idx 0
  | 0x13 => c.pfx
  | 0x14 => c.udpport
  | 0x15 => c.vlan
  | 0x16 => c.rtmo
  | 0x20 => c.slot
  | 0x21 => c.stepw
  | 0x22 => c.release
  | 0x23 => c.cadsrc
  | 0x24 => c.allowcap
  | _ => c.testhour

/-- The bytes of a setting. -/
def Conf.bytes (c : Conf) (x : Nat × Nat) : List Byte :=
  if x.1 = 0x17 then groupBytes (c.groups.getD x.2 none) else leBytes 8 (c.num x.1 x.2)

/-- A configuration as bytes for its measurement (its order is a DESIGN CHOICE, log 43). -/
def Conf.all (c : Conf) : List Byte := settings.flatMap c.bytes

/-- The settings that differ (R419). -/
def changed (a b : Conf) : Nat := (settings.filter fun x => a.bytes x != b.bytes x).length

/-- Set a setting to a value. -/
def Conf.put (c : Conf) (item idx : Nat) (b : List Byte) : Conf :=
  let v := leNat (b.take 8)
  match item with
  | 1 => { c with clusters := c.clusters.set idx v }
  | 2 => { c with share := c.share.set idx v }
  | 3 => { c with queues := c.queues.set idx (bit v 0, bits v 15 8) }
  | 4 => { c with quantum := c.quantum.set idx v }
  | 5 => { c with jwlim := c.jwlim.set idx v }
  | 0x10 => { c with devnum := v }
  | 0x11 => { c with sysid := v }
  | 0x12 => { c with pmode := c.pmode.set idx v }
  | 0x13 => { c with pfx := v }
  | 0x14 => { c with udpport := v }
  | 0x15 => { c with vlan := v }
  | 0x16 => { c with rtmo := v }
  | 0x17 => { c with groups := c.groups.set idx (groupOfBytes b) }
  | 0x20 => { c with slot := v }
  | 0x21 => { c with stepw := v }
  | 0x22 => { c with release := v }
  | 0x23 => { c with cadsrc := v }
  | 0x24 => { c with allowcap := v }
  | _ => { c with testhour := v }

/-- Whether an item has the form of Table 15.1: code, index, LEN, zero in reserved bits. -/
def itemForm (item idx len : Nat) (v : List Byte) : Bool :=
  let n := leNat (v.take 8)
  let inOrder := settings.contains (item, idx)
  inOrder && v.length == len &&
    (if item == 0x17 then len == 2064 && zeroAt v 0xC 4 && decide (field v 0xB 1 < 2)
    else len == 8 &&
      (if item == 3 then bits n 7 1 == 0 && decide (n < 65536)
      else if item == 0x10 then decide (n < 2 ^ 14)
      else if item == 0x14 then decide (n < 65536)
      else if item == 0x15 then decide (n < 4096)
      else true))

/-- Apply a list of items: the image, or the offset of the first item whose form is wrong. -/
def applyItems : Nat → Nat → List Byte → Conf → Except Nat Conf
  | 0, off, l, c => if l.isEmpty then .ok c else .error off
  | k + 1, off, l, c =>
    if l.isEmpty then .ok c
    else
      let len := field l 4 4
      let v := (l.drop 8).take len
      if itemForm (field l 0 2) (field l 2 2) len v && decide (8 + len ≤ l.length) then
        applyItems k (off + 8 + len) (l.drop (8 + len)) (c.put (field l 0 2) (field l 2 2) v)
      else .error off

/-- Configuration Stage (R418 to R420). -/
def effStage (c : Cmd) (s : State) : State :=
  let len := c.cdw10.toNat
  match firstBad [
      (decide (8 ≤ len ∧ len ≤ 65536) && len % 8 == 0, Bad.dword 10), (decide (c.cdw11.toNat < 2), .dword 11), (c.cdw12 == 0, .dword 12),
      (c.cdw13 == 0, .dword 13), (c.cdw14 == 0, .dword 14), (c.cdw15 == 0, .dword 15)] with
  | some b => failWith b c s
  | none =>
    let fresh := bit c.cdw11.toNat 0 || s.cfg.image.isNone
    let base := if fresh then s.cfg.conf else s.cfg.image.getD s.cfg.conf
    match applyItems (len / 8) 0 (slice c.data 0 len) base with
    | .error off => badParam off c s
    | .ok img =>
      let id := if fresh then (if s.cfg.lastId = 0xFFFFFFFF then 1 else s.cfg.lastId + 1) else s.cfg.stageId
      doneWith c .success id (changed img s.cfg.conf)
        (s.modCfg fun g => { g with image := some img, stageId := id, lastId := if fresh then id else g.lastId, checked := 1 })

/-- Whether a value is in the range of its table (rule 01h). -/
def inRange (item v : Nat) : Bool :=
  match item with
  | 2 => decide (v ≤ 256)
  | 3 => decide (1 ≤ v / 256)
  | 4 => decide (2 ^ 16 ≤ v ∧ v ≤ 2 ^ 30)
  | 5 => decide (2 ^ 30 ≤ v ∧ v ≤ 2 ^ 44)
  | 0x12 => decide (v ≤ 2)
  | 0x14 => decide (1024 ≤ v)
  | 0x15 => decide (v ≤ 4094)
  | 0x16 => decide (100 ≤ v ∧ v ≤ 100000) && v % 100 == 0
  | 0x20 => decide (v ≤ 15)
  | 0x21 => decide (20 ≤ v ∧ v ≤ 150)
  | 0x22 => decide (16 ≤ v ∧ v ≤ 65535)
  | 0x23 => decide (v ≤ 1)
  | 0x24 => decide (v ≤ 32)
  | 0x25 => decide (v ≤ 23)
  | _ => true

/-- The other item of a rule that involves two, as DETAIL. -/
def other (item idx : Nat) : Nat := item + idx * 65536

/-- The valid object groups of a configuration with their entries. -/
def Conf.valid (c : Conf) : List (Nat × ObjGroup) :=
  c.groups.zipIdx.filterMap fun x => x.1.map fun g => (x.2, g)

/-- Whether a partition is present in a configuration. -/
def Conf.has (c : Conf) (p : Nat) : Bool := c.clusters.getD p 0 != 0

/-- Rules 01h to 05h: failures that name partitions and queues. -/
def failsPart (s : State) (c : Conf) : List CheckFail :=
  let ps := List.range 8
  let cl := fun p => c.clusters.getD p 0
  let sum := sumOf ((ps.filter c.has).map fun p => c.share.getD p 0)
  let last := (ps.filter fun p => c.has p && c.share.getD p 0 != 0).getLast?.getD 0
  (settings.filter fun x => x.1 != 0x17 && !inRange x.1 (c.num x.1 x.2)).map (fun x => ⟨x.1, x.2, 1, 0⟩) ++
  (c.valid.filter fun g => decide (1 < g.2.kind)).map (fun g => ⟨0x17, g.1, 1, 0⟩) ++
  (ps.flatMap fun p => (ps.filter fun q => decide (q < p) && (cl p &&& cl q) != 0).map fun q => ⟨1, p, 2, other 1 q⟩) ++
  (ps.flatMap fun p => ((List.range 64).filter fun k =>
    bit (cl p) k && (decide (s.variant.clusters ≤ k) || (s.clus.getD k (Clu.reset k)).lost)).map fun k => ⟨1, p, 3, k⟩) ++
  (if 256 < sum then [⟨2, last, 4, sum⟩] else []) ++
  (ps.filter fun p => c.has p && (List.range 16).all fun q => !(c.queues.getD (16 * p + q) (false, 0)).1).map
    fun p => ⟨3, 16 * p + 15, 5, other 1 p⟩

/-- Rules 06h to 0Ch. -/
def failsRest (s : State) (c : Conf) : List CheckFail :=
  let ports := List.range 4
  let mode := fun n => c.pmode.getD n 0
  (s.idx.filter fun i => !c.has i.part).map (fun i => ⟨1, i.part, 6, i.id⟩) ++
  (c.valid.filter fun g => !c.has g.2.part).map (fun g => ⟨0x17, g.1, 7, other 1 g.2.part⟩) ++
  (c.valid.filter fun g => c.has g.2.part &&
      !(decide (g.2.jq < 16) && (c.queues.getD (16 * g.2.part + g.2.jq) (false, 0)).1)).map
    (fun g => ⟨0x17, g.1, 7, other 3 (16 * g.2.part + g.2.jq)⟩) ++
  (ports.filter fun n => (mode n == 1 || mode n == 2) && c.devnum == 16383).map (fun n => ⟨0x12, n, 8, other 0x10 0⟩) ++
  (ports.filter fun n => (mode n == 1 || mode n == 2) && c.sysid == 0).map (fun n => ⟨0x12, n, 8, other 0x11 0⟩) ++
  (ports.filter fun n => mode n == 2 && c.pfx == 0).map (fun n => ⟨0x13, 0, 8, other 0x12 n⟩) ++
  (c.valid.filter fun g => bit g.2.members 16383).map (fun g => ⟨0x17, g.1, 8, 16383⟩) ++
  (c.valid.filter fun _ => c.devnum == 16383).map (fun g => ⟨0x17, g.1, 8, other 0x10 0⟩) ++
  (ports.filter fun n => mode n != 0 && decide (s.variant.ports ≤ n)).map (fun n => ⟨0x12, n, 9, 0⟩) ++
  (if c.pfx != 0 && bits c.pfx 63 61 != 1 then [⟨0x13, 0, 0xA, 0⟩] else []) ++
  (c.valid.flatMap fun g => (c.valid.filter fun h =>
      decide (h.1 < g.1) && h.2.nsid == g.2.nsid && h.2.kind == g.2.kind && h.2.objid == g.2.objid).map
    fun h => ⟨0x17, g.1, 0xB, other 0x17 h.1⟩) ++
  ((List.range 128).filter fun q => !(c.queues.getD q (false, 0)).1 &&
      (match ((s.part (q / 16)).queues.getD (q % 16) []).head? with | some j => j.models.any s.loading | none => false)).map
    fun q => ⟨3, q, 0xC, 0⟩

/-- The failures of an image (R421), in ascending ITEM, INDEX, RULE. -/
def checkImage (s : State) (c : Conf) : List CheckFail :=
  sortBy (fun f => f.item * 2 ^ 24 + f.index * 2 ^ 8 + f.rule) (failsPart s c ++ failsRest s c)

/-- Check the image and write the Check Result page. -/
def runCheck (c : Conf) (s : State) : State × Nat :=
  let l := checkImage s c
  (s.modCfg fun g => { g with fails := l.take 128, nfail := l.length, checked := if l.isEmpty then 2 else 3 }, l.length)

/-- Configuration Check (R421). -/
def effCheck (c : Cmd) (s : State) : State :=
  match [c.cdw10, c.cdw11, c.cdw12, c.cdw13, c.cdw14, c.cdw15].findIdx? (· != 0) with
  | some i => badDword (10 + i) c s
  | none => match s.cfg.image with
    | none => done c .commandSequence s
    | some img =>
      let r := runCheck img s
      doneWith c (if r.2 = 0 then .success else .checkFailed) r.2 0 r.1

/-- Configuration Discard (R425). -/
def effDiscard (c : Cmd) (s : State) : State :=
  match [c.cdw10, c.cdw11, c.cdw12, c.cdw13, c.cdw14, c.cdw15].findIdx? (· != 0) with
  | some i => badDword (10 + i) c s
  | none => ok c (s.modCfg fun g => { g with image := none, stageId := 0, checked := 0 })

/-- The partitions that a commit drains (R423 step 2). -/
def drainedBy (s : State) (img : Conf) : List Nat :=
  (List.range 8).filter fun p => s.cfg.conf.has p &&
    (s.cfg.conf.clusters.getD p 0 != img.clusters.getD p 0 || s.cfg.conf.share.getD p 0 != img.share.getD p 0)

/-- A selected job of a drained partition that has not started goes back to its queue; a deadline job completes with Commit
Pending (R423 step 2). -/
def unselect (p : Nat) (s : State) : State :=
  match (s.part p).sel with
  | none => s
  | some j =>
    if j.dl then refuse j (.status .commitPending) s
    else modPart p (fun x => { x with sel := none, queues := x.queues.modify j.jq (j :: ·) }) s

/-- Configuration Commit (R422, R423 steps 1 and 2). -/
def effCommit (c : Cmd) (s : State) : State :=
  match firstBad [
      (decide (c.cdw11.toNat < 65536), Bad.dword 11), (c.cdw12 == 0, .dword 12), (c.cdw13 == 0, .dword 13), (c.cdw14 == 0, .dword 14),
      (c.cdw15 == 0, .dword 15)] with
  | some b => failWith b c s
  | none => match s.cfg.image with
    | none => done c .commandSequence s
    | some img =>
      if c.cdw10.toNat != s.cfg.stageId then done c .commandSequence s
      else
        let r := runCheck img s
        if r.2 != 0 then doneWith c .checkFailed r.2 r.1.cfg.gen r.1
        else
          let s := r.1
          let ps := drainedBy s img
          let ms := if c.cdw11.toNat = 0 then 1000 else c.cdw11.toNat
          let s := s.modCfg fun g => { g with
            checked := 4, commit := some ⟨c.sqid, c.cid, .draining, ps, s.now + 1000 * ms⟩ }
          ps.foldl (fun s p => unselect p s) (setPhase c.sqid c.cid .executing s)

/-- Whether a commit's drain has ended: no drained partition has a running job or a reset (R423 step 3). -/
def State.drainEnded (s : State) (k : Commit) : Bool :=
  k.drained.all fun p => (s.part p).run.isNone && (s.part p).batch.isNone && !(s.part p).resetting

/-- A commit that fails its second check (R423 step 4). -/
def failCommit (k : Commit) (n : Nat) (s : State) : State :=
  complete k.sqid k.cid .checkFailed n s.cfg.gen (s.modCfg fun g => { g with commit := none })

/-- The drain ends (R423 steps 4 and 5). -/
def drainOver (s : State) : State :=
  match s.cfg.commit, s.cfg.image with
  | some k, some img =>
    if k.phase != .draining || !s.drainEnded k then s
    else
      let r := runCheck img s
      if r.2 != 0 then failCommit k r.2 r.1
      else r.1.modCfg fun g => { g with checked := 4, commit := some { k with phase := .recording } }
  | _, _ => s

/-- DRAIN expires (R423 step 3): the jobs that run on drained partitions are torn down. -/
def drainTimeout (s : State) : State :=
  match s.cfg.commit with
  | some k =>
    if k.phase != .draining then s
    else (k.drained.filter fun p => (s.part p).run.isSome || (s.part p).batch.isSome).foldl (fun s p =>
      if s.tearing p || (s.part p).resetting then s else tearJob p .commitPending s) s
  | none => s

/-- The commit record is durable (R423 step 5): from now on a start finds the new configuration (R426). -/
def recordDurable (s : State) : State :=
  match s.cfg.commit with
  | some k => if k.phase == .recording then s.modCfg fun g => { g with commit := some { k with phase := .durable } } else s
  | none => s

/-- The jobs of a queue, or of a whole partition, complete with Commit Pending (Table 15.4). -/
def pendQueue (p q : Nat) (s : State) : State :=
  ((s.part p).queues.getD q []).foldl (fun s j => refuse j (.status .commitPending) s) s

/-- What the frame marker does to the job queues (Table 15.4). -/
def applyQueues (old new : Conf) (s : State) : State :=
  (List.range 128).foldl (fun s i =>
    let p := i / 16
    let q := i % 16
    let o := old.queues.getD i (false, 0)
    let n := new.queues.getD i (false, 0)
    let off := o.1 && !n.1
    let gone := old.has p && !new.has p
    let s := if off || gone then pendQueue p q s else s
    if off || o.2 != n.2 || old.quantum.getD p 0 != new.quantum.getD p 0 then
      modPart p (fun x => { x with deficit := x.deficit.set q 0 }) s
    else s) s

/-- A partition whose CLUSTERS a commit changes, or that it makes present, selects anew (R293). -/
def applyParts (old new : Conf) (s : State) : State :=
  (List.range 8).foldl (fun s p =>
    if old.clusters.getD p 0 != new.clusters.getD p 0 then
      modPart p (fun x => { x with deficit := List.replicate 16 0, last := 15 }) s
    else s) s

/-- A commit takes effect at a frame marker (R423 steps 6 and 7, Table 15.4). -/
def applyCommit (s : State) : State :=
  match s.cfg.commit, s.cfg.image with
  | some k, some img =>
    if k.phase != .durable then s
    else
      let old := s.cfg.conf
      let s := s.modCfg fun g => { g with
        conf := img, gen := (g.gen + 1) % 2 ^ 32, image := none, stageId := 0, checked := 0, commit := none }
      let s := extendMeas 5 (shake256 img.all) (applyParts old img (applyQueues old img s))
      let s := if old.allowcap != img.allowcap then recompute s else s
      complete k.sqid k.cid .success (changed old img) s.cfg.gen (applyRunnel old s)
  | _, _ => s

/-- The Check Result page (Table 15.6). -/
def checkPage (s : State) : List Byte :=
  let g := s.cfg
  let nchg := match g.image with | some i => changed i g.conf | none => 0
  let ents := g.fails.flatMap fun f => leBytes 2 f.item ++ leBytes 2 f.index ++ leBytes 1 f.rule ++ zeros 3 ++ leBytes 8 f.detail
  slice (leBytes 2 1 ++ leBytes 1 (if g.image.isNone then 0 else g.checked) ++ zeros 1 ++
    leBytes 4 (if g.image.isNone then 0 else g.stageId) ++ leBytes 4 g.gen ++ leBytes 4 g.nfail ++ leBytes 4 nchg ++ zeros 44 ++ ents) 0 2112

end Sys2Proof.Machine
end

