-- ==== Sys2Proof/Machine/QueryCmds.lean ====
section
/-! DEFINITION. The effects of the query commands and of Index Create and Index Drop as they are fetched (R98 to R102, R110 to R119,
R159 to R168, R292). -/

namespace Sys2Proof.Machine

/-- The job of a command that has been fetched (R292). -/
def jobOf (opc : Nat) (c : Cmd) (s : State) : Job :=
  let f := s.flight? c.sqid c.cid
  { sqid := c.sqid, cid := c.cid, order := (f.map (·.order)).getD 0, opc := opc, cmd := c, part := partOf c, jq := jqOf c
    dl := dlOf c, deadline := c.cdw14.toNat, fetched := (f.map (·.fetched)).getD s.now, kind := .command }

/-- A job command: its checks, its use of a source result set, its place on a job queue (R114, R119, R292). -/
def effJob (opc : Nat) (c : Cmd) (s : State) : State :=
  match checkQuery opc c s with
  | some b => failWith b c s
  | none =>
    let sets := if hasParams opc then (stagesOf c).filter fun d => d.src == 2 else []
    let s := sets.foldl (fun s d => useSet d.handle (keyOf c) s) s
    placeJob (jobOf opc c s) (setPhase c.sqid c.cid .job s)

/-- Item IDs of an Index Delete (Table 3.15). -/
def deleteIds (c : Cmd) : List Nat := (List.range (inlenOf c / 8)).map fun i => field c.data (8 * i) 8

/-- Index Delete (R99, R165). -/
def effIndexDelete (c : Cmd) (s : State) : State :=
  match checkQuery 0x99 c s with
  | some b => failWith b c s
  | none => match s.index? c.nsid c.cdw13.toNat with
    | none => badDword 13 c s
    | some ix =>
      let order := (jobOf 0x99 c s).order
      let r := (deleteIds c).foldl (fun (a : Index × Nat) id =>
        let d := deleteItem a.1 (keyOf c) order id
        (d.1, a.2 + b2n d.2)) (ix, 0)
      doneWith c .success (inlenOf c / 8 - r.2) r.2 (modIndex c.nsid c.cdw13.toNat (fun _ => r.1) s)

/-- Entries of a pending log whose command has completed stay (R165, R175). -/
def State.settled (s : State) (l : List Pend) : List Pend :=
  l.map fun e => if e.done || (s.flight? e.sqid e.cid).isSome then e else { e with done := true }

/-- Index Publish (R100, R168): the entries it takes are fixed at its fetch; without one it completes at once. -/
def effIndexPublish (c : Cmd) (s : State) : State :=
  match checkQuery 0x9C c s with
  | some b => failWith b c s
  | none => match s.index? c.nsid c.cdw13.toNat with
    | none => badDword 13 c s
    | some ix =>
      let order := (jobOf 0x9C c s).order
      let ix := { ix with pend := markTaken order [] (s.settled ix.pend) }
      if (takenBy order ix.pend).1.isEmpty then doneWith c .success 1 ix.epoch s
      else modIndex c.nsid c.cdw13.toNat (fun _ => { ix with waiting := ix.waiting ++ [(c.sqid, c.cid, order)] })
        (setPhase c.sqid c.cid .executing s)

/-- Index Compact (R101, R102, R173). -/
def effIndexCompact (c : Cmd) (s : State) : State :=
  match checkQuery 0xA0 c s with
  | some b => failWith b c s
  | none => match s.index? c.nsid c.cdw13.toNat with
    | none => badDword 13 c s
    | some ix =>
      let same := fun (f : Flight) => f.opc == 0xA0 && f.cmd.nsid == c.nsid && f.cmd.cdw13 == c.cdw13 && !f.is c.sqid c.cid
      if ix.nplots ≤ c.cdw14.toNat then badDword 14 c s
      else if s.nvm.flights.any same then done c .commandSequence s
      else placeJob (jobOf 0xA0 c s) (setPhase c.sqid c.cid .job s)

/-- Bytes in which one granule was not delivered: it has no stated value (Table 11.5, log 9). -/
def undeliveredIn (b : List Byte) (s : State) : List Byte × State :=
  let d := draw s
  let r := drawBytes 64 d.2
  let a := d.1.toNat % ((b.length + 63) / 64) * 64
  ((patch b a r.1).take b.length, r.2)

/-- The record of a read of a Result Fetch that was not delivered (Table 11.5): the stack and the channel are open (a free value, log 9). -/
def fetchFails (c : Cmd) (s : State) : State :=
  let d := draw s
  let n := d.1.toNat
  addRecord { kind := 6, cls := (if s.variant == .d512 then 2 else 1), action := (if s.variant == .d512 then 5 else 2)
              inst := n % s.variant.stackCount, cmd := some (keyOf c), detail := 8 + n / 16 % 32 * 256 } d.2

/-- Result Fetch (R113). `ok` false says that a read of the Reservoir failed to deliver (R6, Table 11.5). -/
def effResultFetch (c : Cmd) (s : State) : State :=
  match checkQuery 0xAA c s with
  | some b => failWith b c s
  | none => match s.resultSet? c.nsid (bits c.cdw13.toNat 15 0) with
    | none => badDword 13 c s
    | some r =>
      let off := c.cdw14.toNat * 4096
      if off < r.first then badDword 14 c s
      else
        let b := (r.bytes.drop (off - r.first)).take (outlenOf c * 4096)
        let s := unuseSets true (keyOf c) (useSet r.handle (keyOf c) s)
        if c.ok || b.isEmpty then doneWith c .success 0 b.length (hostData c.sqid c.cid 0 b s)
        else
          let f := fetchFails c s
          match s.variant with
          | .d512 => done c .tierFailed (f.modResv fun x => { x with tierFail := sat32 x.tierFail })
          | .d1024 =>
            let r := undeliveredIn b f
            doneWith c .success 0 b.length (hostData c.sqid c.cid 0 r.1 (r.2.modResv fun x => { x with nmFail := sat32 x.nmFail }))

/-- Result Release (R114). -/
def effResultRelease (c : Cmd) (s : State) : State :=
  match checkQuery 0xAC c s with
  | some b => failWith b c s
  | none => match s.resultSet? c.nsid (bits c.cdw13.toNat 15 0) with
    | none => badDword 13 c s
    | some r => ok c (releaseSet r.handle s)

/-- Index Create (R159, R161): its checks, then its training job on job queue 0 of PART. -/
def effIndexCreate (c : Cmd) (s : State) : State :=
  if (s.ns? c.nsid).isNone then done c .invalidNamespace s
  else match icCheck c s with
    | some b => icFail b c s
    | none =>
      if s.media.readOnly then done c .writeProtected s
      else
        let j := { jobOf 0xED c s with
          part := icNum c 0x2A 1, jq := 0, dl := false, deadline := 0, kind := .train c.nsid (icId c) }
        placeJob j (setPhase c.sqid c.cid .job (s.modIdx (· ++ [icIndex c c.sqid c.cid])))

/-- Whether a command names an index (R164). -/
def namesIndex (nsid id : Nat) (f : Flight) : Bool :=
  let opc := f.opc.toNat
  f.cmd.nsid == nsid && f.sqid != 0 &&
    (([0x99, 0x9C, 0xA0].contains opc && f.cmd.cdw13.toNat == id) ||
     hasParams opc && (stagesOf f.cmd).any fun d => [0x8F, 0x95, 0xB2].contains d.sopc && d.objid == id)

/-- At the fetch of an Index Drop its index is closed to the commands fetched later (R164). -/
def closeIndex (order : Nat) (c : Cmd) (s : State) : State :=
  s.modIdx (·.map fun i =>
    if i.nsid == c.nsid && i.id == c.cdw10.toNat && i.dropping.isNone then { i with dropping := some order } else i)

/-- An Index Drop that was refused leaves its index open. -/
def reopenIndex (order : Nat) (s : State) : State :=
  s.modIdx (·.map fun i => if i.dropping == some order then { i with dropping := none } else i)

/-- The index is gone: its pending entries with it, its extent deallocated (R164). -/
def removeIndex (nsid id : Nat) (s : State) : State :=
  match s.idx.find? fun i => i.nsid == nsid && i.id == id with
  | none => s
  | some ix =>
    let lo := nsid * 2 ^ 48 + ix.first
    let s := s.modResv fun r => { r with
      units := r.units.filter fun u => !(u.cls == 1 && decide (lo ≤ u.key ∧ u.key < lo + ix.nframes)) }
    dropUnits nsid (ix.first * 16) (ix.nframes * 16) (s.modIdx (·.filter fun i => !(i.nsid == nsid && i.id == id)))

/-- The Index Drops that wait and whose index no earlier command names any more. -/
def readyDrop (s : State) : Option Flight :=
  s.nvm.flights.find? fun f => f.opc == 0xF0 && f.phase == .executing &&
    !(s.nvm.flights.any fun g => decide (g.order < f.order) && namesIndex f.cmd.nsid f.cmd.cdw10.toNat g)

/-- Index Drop (R164): it waits for the commands fetched before it that name the index. -/
def effIndexDrop (c : Cmd) (s : State) : State :=
  let order := (jobOf 0xF0 c s).order
  let mine := (closeIndex order c s).idx.any fun i => i.dropping == some order
  let bad := [c.cdw11, c.cdw12, c.cdw13, c.cdw14, c.cdw15].findIdx? (· != 0)
  if (s.ns? c.nsid).isNone then done c .invalidNamespace (reopenIndex order s)
  else if !mine then badDword 10 c s
  else match bad with
    | some i => badDword (11 + i) c (reopenIndex order s)
    | none => setPhase c.sqid c.cid .executing (closeIndex order c s)

end Sys2Proof.Machine
end

