-- ==== Sys2Proof/Machine/Queues.lean ====
section
/-! DEFINITION. Queues, Abort and asynchronous event requests (R36, R39, R49 to R52, R75, R518). -/

namespace Sys2Proof.Machine

/-- Create I/O Completion Queue (R39; the positions of its fields are the NVMe standard's, log 27). -/
def effCreateCq (c : Cmd) (s : State) : State :=
  let id := c.cdw10.toNat % 65536
  let size := c.cdw10.toNat / 65536 + 1
  if id = 0 ∨ 1024 < id ∨ s.nvm.cqs.any (fun q => q.id == id) then done c .invalidQueueId s
  else if size < 2 ∨ 4096 < size then done c .invalidQueueSize s
  else if !bit c.cdw11.toNat 0 then badField c s
  else if 1024 < c.cdw11.toNat / 65536 then done c .invalidVector s
  else ok c (s.modNvm fun n => { n with
    cqs := n.cqs ++ [⟨id, size, 0, 0, c.cdw11.toNat / 65536, bit c.cdw11.toNat 1, []⟩] })

/-- Create I/O Submission Queue (R39). -/
def effCreateSq (c : Cmd) (s : State) : State :=
  let id := c.cdw10.toNat % 65536
  let size := c.cdw10.toNat / 65536 + 1
  let cq := c.cdw11.toNat / 65536
  if id = 0 ∨ 1024 < id ∨ s.nvm.sqs.any (fun q => q.id == id) then done c .invalidQueueId s
  else if size < 2 ∨ 4096 < size then done c .invalidQueueSize s
  else if !bit c.cdw11.toNat 0 then badField c s
  else if cq = 0 ∨ !s.nvm.cqs.any (fun q => q.id == cq) then done c .cqInvalid s
  else ok c (s.modNvm fun n => { n with
    sqs := n.sqs ++ [⟨id, size, 0, 0, cq, bits c.cdw11.toNat 2 1, []⟩] })

/-- Delete I/O Completion Queue: not while a submission queue uses it. -/
def effDeleteCq (c : Cmd) (s : State) : State :=
  let id := c.cdw10.toNat % 65536
  if id = 0 ∨ !s.nvm.cqs.any (fun q => q.id == id) then done c .invalidQueueId s
  else if s.nvm.sqs.any (fun q => q.cqid == id) then done c .invalidQueueDeletion s
  else ok c (s.modNvm fun n => { n with cqs := n.cqs.filter fun q => q.id != id })

/-- Whether a Delete of a submission queue is under way (R518). -/
def State.deleting (s : State) (qid : Nat) : Bool :=
  s.nvm.flights.any fun f => f.sqid == 0 && f.opc == 0x00 && f.phase == .executing && f.cmd.cdw10.toNat % 65536 == qid

/-- How an Abort finds its target (Table 2.5): not caught, caught and completed, caught with a teardown to end. -/
inductive Caught where
  | no | now | later
  deriving DecidableEq, Repr

/-- Whether a job belongs to a command: an Index Publish owns its link jobs, but they are not the command's own job. -/
def Job.ofCommand (j : Job) (key : Nat × Nat) : Bool :=
  (j.sqid, j.cid) == key && (match j.kind with | .command => true | .train _ _ => true | _ => false)

/-- The job of a command that has not been dispatched. -/
def State.queuedJob (s : State) (key : Nat × Nat) : Option Job :=
  (s.parts.flatMap fun p => p.queues.flatten ++ p.sel.toList).find? fun j => j.ofCommand key

/-- The partition that runs the job of a query command, and whether it runs in a batch. -/
def State.runningPart (s : State) (key : Nat × Nat) : Option (Nat × Bool) :=
  (List.range 8).findSome? fun p =>
    let x := s.part p
    if (match x.run with | some r => r.job.ofCommand key | none => false) then some (p, false)
    else if (match x.batch with | some b => b.members.any (fun m => m.job.ofCommand key && m.leaving.isNone) | none => false) then
      some (p, true)
    else none

/-- The admin commands that are never caught (Table 2.5). -/
def neverCaught : List Nat := [0x10, 0x80, 0x84, 0x14, 0xC8, 0x08]

/-- The query commands that act from their fetch and are never caught (R52). -/
def fromFetch : List Nat := [0x99, 0x9C, 0xAA, 0xAC]

/-- What the fetch of a waiting Index Drop, namespace delete or detach closed is open again (R72, R164). -/
def undoFetch (order : Nat) (s : State) : State :=
  (reopenIndex order s).modNss (·.map fun n => if n.gone == some order then { n with gone := none } else n)

/-- Catch the running job of a command: its context is torn down, or it leaves its batch at the end of the step (R51, R313). -/
def catchRunning (key : Nat × Nat) (st : Status) (s : State) : State × Caught :=
  match s.runningPart key with
  | none => (s, .no)
  | some (p, batch) =>
    if key.1 == 0 || s.tearing p || (s.part p).resetting then (s, .no)
    else if batch then
      (modBatch p (fun b => { b with
        members := b.members.map fun m => if m.job.ofCommand key then { m with leaving := some st } else m }) s, .later)
    else (tearJob p st s, .later)

/-- Act on a command in flight as an Abort does (Table 2.5): `st` is the status of a command that is caught. -/
def catchFlight (f : Flight) (st : Status) (s : State) : State × Caught :=
  let opc := f.opc.toNat
  let key := (f.sqid, f.cid)
  let early := f.phase == .held || f.phase == .waiting
  if f.phase == .ending then (s, .no)
  else if f.sqid == 0 && opc == 0x0C then
    (complete f.sqid f.cid st 0 0 (s.modNvm fun n => { n with aers := n.aers.filter fun k => k != key }), .now)
  else if f.sqid == 0 && neverCaught.contains opc then (s, .no)
  else if early && !(f.sqid != 0 && fromFetch.contains opc) then (complete f.sqid f.cid st 0 0 (undoFetch f.order s), .now)
  else match s.queuedJob key with
    | some j => (endFor j st 0 0 (takeJob j s), .now)
    | none => catchRunning key st s

/-- Take a command that is not yet fetched from its queue, and complete it. -/
def catchUnfetched (sqid cid : Nat) (st : Status) (s : State) : Option State :=
  match s.nvm.sqs.find? fun q => q.id == sqid with
  | none => none
  | some q => match q.unfetched.find? fun e => e.cmd.cid == cid with
    | none => none
    | some e =>
      let s := s.modNvm fun n => { n with sqs := n.sqs.map fun x =>
        if x.id == sqid then { x with unfetched := x.unfetched.erase e, head := (x.head + 1) % x.size } else x }
      let f : Flight := ⟨sqid, cid, e.opc, e.cmd, s.nvm.orders, s.now, s.now, .waiting, none⟩
      some (completeFlight f st 0 0 (s.modNvm fun n => { n with flights := n.flights ++ [f], orders := n.orders + 1 }))

/-- The Abort of a target that was caught completes once the target's completion has been posted (R51). -/
def abortCaught (c : Cmd) (s : State) : State :=
  if (s.flight? (c.cdw10.toNat % 65536) (c.cdw10.toNat / 65536)).isSome then setPhase c.sqid c.cid .executing s
  else doneWith c .success 0 0 s

/-- Abort (R49 to R51). -/
def effAbort (c : Cmd) (s : State) : State :=
  let sqid := c.cdw10.toNat % 65536
  let cid := c.cdw10.toNat / 65536
  let others := s.nvm.flights.filter fun f => f.sqid == 0 && f.opc == 0x08 && !f.is c.sqid c.cid
  if 16 ≤ others.length then done c .abortLimit s
  else match s.flight? sqid cid with
    | some f =>
      match catchFlight f .abortRequested s with
      | (s, .no) => doneWith c .success 1 0 s
      | (s, _) => abortCaught c s
    | none => match catchUnfetched sqid cid .abortRequested s with
      | some s => abortCaught c s
      | none => doneWith c .success 1 0 s

/-- Delete I/O Submission Queue (R518): its commands in flight are taken as an Abort would take them, entries not fetched are
dropped, and the delete waits for the commands that are left; see log 89 (DEDUCED). -/
def effDeleteSq (c : Cmd) (s : State) : State :=
  let id := c.cdw10.toNat % 65536
  if id = 0 ∨ !s.nvm.sqs.any (fun q => q.id == id) ∨ s.deleting id then done c .invalidQueueId s
  else
    let s := s.modNvm fun n => { n with
      sqs := n.sqs.map fun q => if q.id == id then { q with unfetched := [], head := q.tail } else q }
    let s := (s.nvm.flights.filter fun f => f.sqid == id).foldl (fun s f => (catchFlight f .sqDeletion s).1) s
    setPhase c.sqid c.cid .executing s

/-- Outstanding requests take the events that wait and are not masked (R75). `n` bounds the events. -/
def postEvents : Nat → State → State
  | 0, s => s
  | n + 1, s =>
    match s.nvm.aers, s.nvm.events.find? fun e => !s.nvm.masked.contains e.page with
    | k :: ks, some e =>
      let s := s.modNvm fun x => { x with
        aers := ks, events := x.events.erase e, masked := maskPage e.page x.masked }
      postEvents n (complete k.1 k.2 .success (e.typ + e.info * 256 + e.page * 65536) 0 s)
    | _, _ => s

/-- Deliver every event that can be. -/
def deliverEvents (s : State) : State := postEvents s.nvm.events.length s

/-- Asynchronous Event Request: at most 8 are outstanding (R38, R75). -/
def effAer (c : Cmd) (s : State) : State :=
  if 8 ≤ s.nvm.aers.length then done c .aerLimit s
  else deliverEvents (setPhase c.sqid c.cid .executing (s.modNvm fun n => { n with aers := n.aers ++ [keyOf c] }))

/-- The host has read a log page with Retain Asynchronous Event clear: its event is no longer masked (R75). -/
def unmask (page : Nat) (s : State) : State :=
  deliverEvents (s.modNvm fun n => { n with masked := n.masked.filter fun p => p != page })

end Sys2Proof.Machine
end

