-- ==== Sys2Proof/Machine/Features.lean ====
section
/-! DEFINITION. Get Features and Set Features, power states and the self-test (R40, R53 to R63, R75, R76). -/

namespace Sys2Proof.Machine

/-- The features that the sled supports, and those whose value can be saved (Table 2.13); see log 94 (PRESUMED). -/
def featIds : List Nat := [0x01, 0x02, 0x04, 0x05, 0x07, 0x08, 0x09, 0x0A, 0x0B, 0x0E, 0x0F, 0xC0]
def savableIds : List Nat := [0x01, 0x02, 0x0B]

/-- The key of a feature's value: Temperature Threshold has one for each sensor and kind, Interrupt Vector Configuration one for each
vector (the NVMe standard's selectors, log 27). The selector of every sensor is that of the Composite Temperature, the only one reported. -/
def featKey (fid dw11 : Nat) : Nat :=
  if fid = 0x04 then fid + 256 * (if bits dw11 19 16 = 15 then 16 * bits dw11 21 20 else bits dw11 21 16)
  else if fid = 0x09 then fid + 256 * bits dw11 15 0
  else fid

/-- The value of a feature at reset (R75, log 20). -/
def featDefault (fid : Nat) : Nat := if fid = 0xC0 then 0x7F else 0

/-- A list with one pair set. -/
def setPair (k v : Nat) (l : List (Nat × Nat)) : List (Nat × Nat) := (l.filter fun p => p.1 != k) ++ [(k, v)]

/-- The value in force of a feature. -/
def State.featNow (s : State) (fid dw11 : Nat) : Nat := if fid = 0x02 then s.mgmt.ps else s.feat (featKey fid dw11)

/-- The saved value of a feature, its default without one. -/
def State.featSaved (s : State) (fid dw11 : Nat) : Nat :=
  match s.nvm.saved.find? fun p => p.1 == featKey fid dw11 with
  | some p => p.2
  | none => featDefault fid

/-- The data of the Timestamp feature: 48 bits of milliseconds, then how it was set (log 27). -/
def stampData (s : State) : List Byte := leBytes 6 s.stamp ++ [BitVec.ofNat 8 (if s.nvm.tsSet then 2 else 0), 0]

/-- Get Features (R76): current, default, saved or what is supported; of a Temperature Threshold the threshold alone (log 27). -/
def effGetFeatures (c : Cmd) (s : State) : State :=
  let fid := bits c.cdw10.toNat 7 0
  let sel := bits c.cdw10.toNat 10 8
  if !featIds.contains fid || decide (3 < sel) then badField c s
  else if sel = 3 then doneWith c .success (b2n (savableIds.contains fid) + 4) 0 s
  else
    let v := if sel = 0 then s.featNow fid c.cdw11.toNat else if sel = 1 then featDefault fid else s.featSaved fid c.cdw11.toNat
    if fid = 0x0E then ok c (hostData c.sqid c.cid 0 (if sel = 0 then stampData s else zeros 8) s)
    else doneWith c .success (if fid = 0x04 then v % 65536 else v) 0 s

/-- A self-test is over: its result is logged, the latest 20 are kept (R61); see log 91 (PRESUMED). -/
def endSelfTest (result segment : Nat) (s : State) : State :=
  match s.mgmt.test with
  | none => s
  | some t => s.modMgmt fun m => { m with
      test := none, testLog := (⟨t.code, result, segment, s.now / 3600000000⟩ :: m.testLog).take 20 }

/-- Set Features, Power Management (R55 to R57, R63): an operational state at the next frame marker, a non-operational one by an
entry, which begins with the fetch. -/
def setPower (c : Cmd) (s : State) : State :=
  let ps := bits c.cdw11.toNat 4 0
  if 4 < ps then badField c s
  else
    let s := setPhase c.sqid c.cid .executing s
    if ps ≤ 2 then s.modPwr fun p => { p with pendingPs := some (ps, c.sqid, c.cid) }
    else
      let s := if ps = 4 then endSelfTest 8 0 s
        else s.modMgmt fun m => { m with test := m.test.map fun t => { t with suspended := true } }
      s.modMgmt fun m => { m with entry := some (ps, c.sqid, c.cid), lastOp := if m.ps ≤ 2 then m.ps else m.lastOp }

/-- Set the Timestamp (R76): milliseconds since 1970 in the first six bytes of the data; power-off time is
counted from it (R351). -/
def setStamp (c : Cmd) (s : State) : State :=
  ok c ((countOff (field c.data 0 6) s).modNvm fun n => { n with tsSet := true, tsBase := field c.data 0 6, tsAt := s.now })

/-- Set Features (R40, R75, R76): an unsupported feature, and a value that cannot be saved, are refused. -/
def effSetFeatures (c : Cmd) (s : State) : State :=
  let fid := bits c.cdw10.toNat 7 0
  let sv := bit c.cdw10.toNat 31
  let dw := c.cdw11.toNat
  if !featIds.contains fid then badField c s
  else if sv && !savableIds.contains fid then done c .notSaveable s
  else
    let was := s.tempOut
    let keep := fun (v : Nat) (s : State) => if sv then s.modNvm fun n => { n with saved := setPair (featKey fid dw) v n.saved } else s
    if fid = 0x02 then setPower c (if bits dw 4 0 ≤ 4 then keep (bits dw 4 0) s else s)
    else if fid = 0x0E then setStamp c s
    else if fid = 0x09 ∧ 1024 < bits dw 15 0 then badField c s
    else
      let s := keep dw (s.modNvm fun n => { n with feats := setPair (featKey fid dw) dw n.feats })
      ok c (if fid = 0x04 ∧ s.tempOut ∧ !was then smartEvent 1 s else s)

/-- The Arbitration Burst in force: values above 6 act as 6 (R40). -/
def State.burstLimit (s : State) : Nat := 2 ^ min (bits (s.feat 0x07) 2 0) 6

/-- The weight of a priority class: its field plus one (the standard's encoding, log 27). Class 0 is urgent, 1 high, 2 medium, 3 low. -/
def State.weight (s : State) (prio : Nat) : Nat :=
  let v := s.feat 0x07
  if prio = 1 then bits v 31 24 + 1 else if prio = 2 then bits v 23 16 + 1 else bits v 15 8 + 1

/-- The flash dies of the sled, numbered by channel. -/
def State.diesAll (s : State) : Nat := 128 * s.variant.diesPerChannel

/-- The units that a segment of a self-test is run on, one slice each: checkers, clusters and stacks, dies, the Cistern, the model
store (R62; DESIGN CHOICE, log 45). -/
def State.segUnits (s : State) (seg : Nat) : Nat :=
  if seg = 2 then s.variant.clusters + s.variant.stackCount
  else if seg = 3 ∨ seg = 7 then s.diesAll
  else if seg = 4 ∨ seg = 8 then s.variant.clusters
  else if seg = 9 then s.variant.stackCount
  else 1

/-- The last segment of a test (Table 2.9). -/
def lastSegment (code : Nat) : Nat := if code = 1 then 5 else 9

/-- Whether the cluster of a slice is idle (R62). -/
def State.clusterIdle (s : State) (c : Nat) : Bool := match s.jobPart c with | some _ => false | none => true

/-- Device Self-test (R61, R63): start a test, or stop the running one. -/
def effSelfTest (c : Cmd) (s : State) : State :=
  let stc := bits c.cdw10.toNat 3 0
  if stc = 1 ∨ stc = 2 then
    if s.mgmt.test.isSome then done c .selfTestInProgress s
    else ok c (s.modMgmt fun m => { m with test := some ⟨stc, [], false, 0⟩ })
  else if stc = 15 then ok c (endSelfTest 1 0 s)
  else badField c s

/-- Whether a slice of a self-test on one unit can run (R62): a segment begins when those before it are done; a cluster is tested only
while its partition runs no job. -/
def State.sliceRuns (s : State) (seg unit : Nat) : Bool :=
  match s.mgmt.test with
  | none => false
  | some t =>
    let done := fun k => (List.range (s.segUnits k)).all fun u => t.done.contains (k * 4096 + u)
    let onCluster := (seg = 2 ∧ unit < s.variant.clusters) ∨ seg = 4 ∨ seg = 8
    !t.suspended && decide (seg ≠ 0 ∧ seg ≤ lastSegment t.code ∧ unit < s.segUnits seg) &&
      ((List.range seg).all fun k => k == 0 || done k) && (!decide onCluster || s.clusterIdle unit)

/-- The result of a slice is noted (R61, R62). When the last slice is done the test ends. -/
def selfTestStep (seg unit : Nat) (passed : Bool) (s : State) : State :=
  match s.mgmt.test with
  | none => s
  | some t =>
      let t := { t with
        done := t.done ++ [seg * 4096 + unit]
        failed := if passed || t.failed != 0 then t.failed else seg }
      let s := s.modMgmt fun m => { m with test := some t }
      let whole := ((List.range (lastSegment t.code + 1)).all fun k => k == 0 ||
        (List.range (s.segUnits k)).all fun u => t.done.contains (k * 4096 + u))
      if whole then endSelfTest (if t.failed = 0 then 0 else 7) t.failed s else s

/-- An extended test that has lasted 24 hours ends with result 8h (R62). -/
def selfTestExpires (s : State) : State :=
  match s.mgmt.test with
  | some t => if t.code = 2 then endSelfTest 8 0 s else s
  | none => s

end Sys2Proof.Machine
end

