-- ==== Sys2Proof/Machine/Resets.lean ====
section
/-! DEFINITION. Resets: what each reset ends, discards and keeps (R35, R63, R426, R445 to R448, R469, R473). -/

namespace Sys2Proof.Machine

/-- A unit of a write that was ended before its completion: it has reached the media, or stands as before that write or before an
earlier one that was ended with it (R35: the spec leaves open which; the choice is a free value, log 9). Of the writes that covered
whole frames, those in `undone` have not reached it and the others have (R123). -/
def settleUnit (undone : List Nat) (u : WbUnit) (s : State) : State :=
  let r := draw s
  let least := u.alts.length - (u.alts.reverse.takeWhile fun a => !(a.whole && undone.contains a.order)).length
  let most := (u.alts.takeWhile fun a => !a.whole || undone.contains a.order).length
  let k := least + r.1.toNat % (most - least + 1)
  match (if k = 0 then none else u.alts[k - 1]?) with
  | none => r.2.modMedia fun m => { m with
      wb := m.wb.map fun x => if x == u then { x with posted := true, alts := [] } else x }
  | some a =>
    let s := modNs u.nsid (fun x => { x with mem := Mem.write 0 x.mem (u.lba * 4096) a.bytes }) r.2
    s.modMedia fun m => { m with wb := m.wb.filter (· != u), map := m.map ++ a.place.toList }

/-- The units of one frame, or unaligned blocks of one: each write that covered it whole has reached all of it or none (R35, R123). -/
def settleFrame (us : List WbUnit) (s : State) : State :=
  let orders := sortBy id (distinct (us.flatMap fun u => (u.alts.filter (·.whole)).map (·.order)))
  let r := draw s
  us.foldl (fun s u => settleUnit (orders.drop (r.1.toNat % (orders.length + 1))) u s) r.2

/-- The writes that were ended (R35, R123). -/
def settleWrites (s : State) : State :=
  let us := s.media.wb.filter fun u => !u.posted
  (distinct (us.map fun u => (u.nsid, u.lba / 16))).foldl (fun s f =>
    settleFrame (us.filter fun u => (u.nsid, u.lba / 16) == f) s) s

/-- Commands end without a completion (R35), and the entries that unfinished commands appended to pending logs with them (R175). What a
Publish had taken is pending again, whether its link work ran or waited (R176). -/
def endCommands (s : State) : State :=
  let s := s.modNvm fun n => { n with
    flights := [], aers := [], events := [], masked := [], serial := none
    cqs := n.cqs.map fun q => { q with backlog := [] }
    sqs := n.sqs.map fun q => { q with unfetched := [], head := q.tail } }
  let s := s.modNss (·.map fun n => { n with gone := none })
  s.modIdx fun l => (l.filter fun ix => match ix.work with | .training _ _ => false | _ => true).map fun ix =>
    { ix.stopWork with
      pend := (ix.stopWork.pend.filter (·.done)).map fun e => { e with taken := 0 }, waiting := [], dropping := none }

/-- What R446 discards: queued jobs, result sets (the next handle is 0001h again, R111), staged firmware and model pieces, the staging image. A commit whose record is
durable stands (R426). -/
def discardStaged (s : State) : State :=
  let s := s.modParts (·.map fun p => { p with queues := List.replicate 16 [], sel := none })
  let s := (dropSets (fun _ => true) s).modRes fun r => { r with next := 1 }
  let s := s.modMgmt fun m => { m with fw := [] }
  let s := s.modStore fun t => { t with staged := [], installing := [] }
  s.modCfg fun g => match g.commit, g.image with
    | some k, some i =>
      if k.phase == .durable then
        { g with conf := i, gen := (g.gen + 1) % 2 ^ 32, image := none, stageId := 0, checked := 0, commit := none }
      else { g with image := none, stageId := 0, checked := 0, commit := none }
    | _, _ => { g with image := none, stageId := 0, checked := 0, commit := none }

/-- The features after a reset: the saved values, else the defaults (PRESUMED, log 20). -/
def resetFeats (n : Nvm) : Nvm :=
  { n with feats := [(0xC0, 0x7F)] ++ n.saved.filter fun p => p.1 != 0x02 && p.1 != 0xC0 }

/-- The controller is disabled: no queue is left, the shutdown status is cleared. -/
def disable (s : State) : State :=
  s.modNvm fun n => resetFeats { n with en := false, rdy := false, shst := 0, cc := 0, sqs := [], cqs := [], rrLast := [0, 0, 0, 0], burst := [0, 0, 0, 0], credits := [0, 0, 0] }

/-- A job whose command has been ended without a completion (R35): its key is no command's any more. -/
def Job.orphan (j : Job) : Job :=
  match j.kind with
  | .fan _ _ => j
  | _ => if j.sqid = 0xFFFF then j else { j with sqid := 0xFFFF, cid := j.sqid * 65536 + j.cid }

/-- The key under which the job of a command that was ended goes on to the end of its teardown. -/
def orphanOf (k : Nat × Nat) : Nat × Nat := if k.1 = 0xFFFF ∨ k = (0, 0) then k else (0xFFFF, k.1 * 65536 + k.2)

/-- The jobs that run are no command's any more: a command that reuses the identifiers of an ended one is another (R35). -/
def orphanJobs (s : State) : State :=
  let s := s.modParts (·.map fun p => { p with
    run := p.run.map fun r => { r with job := r.job.orphan }
    batch := p.batch.map fun b => { b with
      members := b.members.map fun m => { m with
        job := m.job.orphan
        waiting := m.waiting.map fun x => { x with sqid := (orphanOf (x.sqid, x.cid)).1, cid := (orphanOf (x.sqid, x.cid)).2 } }
      active := b.active.map fun x => { x with sqid := (orphanOf (x.sqid, x.cid)).1, cid := (orphanOf (x.sqid, x.cid)).2 } } })
  s.modIdx (·.map fun ix => { ix with bound := ix.bound.map fun b => (b.1, orphanOf b.2) })

/-- What a function reset and a controller disable do (R446). -/
def functionEnds (s : State) : State :=
  let s := discardStaged (endCommands s)
  let s := orphanJobs ((List.range 8).foldl (fun s p => tearJob p .abortRequested s) s)
  disable (endSelfTest 2 0 (s.modPwr fun p => { p with pendingPs := none }))

/-- A function reset also returns the configuration space and the queue registers to their reset values (R446). -/
def functionReset (s : State) : State :=
  (functionEnds s).modNvm fun n => { n with aqa := 0, asq := 0, acq := 0, pci := Pci.reset }

/-- A cluster after a reset that reaches it: what has been substituted or lost is kept (Tables 7.7 and 7.8). -/
def Clu.afterReset (n : Nat) (x : Clu) : Clu :=
  { Clu.reset n with
    phys := x.phys, die := x.die, spare := x.spare, afailed := x.afailed, failPend := x.failPend, cluFail := x.cluFail, lost := x.lost }

/-- The Reservoir after a fill (Table 11.7, R447): repairs and retirements are kept. -/
def Resv.afterReset (r : Resv) : Resv :=
  { Resv.reset with
    stkLost := r.stkLost, chRet := r.chRet, lanes := r.lanes, rows := r.rows, spareRows := r.spareRows, rowRep := r.rowRep
    laneRep := r.laneRep }

/-- The RAS block after a reset (Table 17.8): the ring is rebuilt from the persisted records (R469). -/
def Ras.afterReset (power : Bool) (now : Nat) (r : Ras) : Ras :=
  { Ras.reset with
    persist := r.persist
    ring := r.persist.foldl (fun l e => l.filter (fun x => x.slot != e.slot) ++ [e]) []
    head := match r.persist.getLast? with | some e => e.slot | none => r.head
    seqStart := r.seqStart, seqCount := r.seqCount
    escal := r.escal, suppr := r.suppr, expired := r.expired
    promise := r.promise &&& 0xFF
    fatal := if power then [] else r.fatal
    sramAt := now, hbmAt := now, sramPass := now, hbmPass := now, alert := r.alert
    ucieHalf := r.ucieHalf, ucieSpent := r.ucieSpent }

/-- The media after a reset (Table 12.7): media state is kept, the floors hold the write-back buffer and the map pages of the floor
(R447); a power-on keeps none of them. The map cache counts as empty until replay has ended (R15). -/
def mediaAfter (power : Bool) (s : State) : State :=
  let above := (s.resv.units.filter fun u => u.cls == 2).map (·.key)
  s.modMedia fun m => { m with
    floor := if power then [] else (m.floor ++ m.pages).filter fun p => !above.contains p.1
    floorDirty := if power then [] else (m.floorDirty ++ m.dirty).filter fun p => !above.contains p
    pages := [], dirty := [], late := if power then [] else m.late
    mapHit := 0, mapMiss := 0, scrubEn := true, ageUnk := false, latThr := 2000, deepThr := 50 }

/-- The Cistern after a reset (Table 14.10): a test is broken off, present values are not yet measured. -/
def Cis.afterReset (c : Cis) : Cis :=
  { c with
    strings := c.strings.map fun x => { x with mv := 0, st := if x.st == 2 then x.was else x.st }
    temp := 0, allow := 0, lastEvent := 0, test := none, burst := none }

/-- The tracker after a reset: a controller reset keeps the lock and clears the counters alone (Table 16.6). -/
def Cad.afterReset (power : Bool) (c : Cad) : Cad :=
  if power then Cad.reset
  else { c with frames := 0, viol := 0, frameViol := 0, loss := 0, surr := 0, reacq := 0, vstat := 0 }

/-- Grants and the thermal loop after a reset; the input keeps its voltage, which VIN shows when it is measured again (R15, log 46). -/
def Pwr.afterReset (p : Pwr) : Pwr := { Pwr.reset with input := p.input, tshut := p.tshut }

/-- A port after a reset: the lanes that failed and the spares in use are kept (Table 13.10). -/
def Port.afterReset (p : Port) : Port := { Port.reset with spares := p.spares, lanes := p.lanes, swaps := p.swaps }

/-- The machine when every block has been reset (R445, R447): what is kept are namespaces, indexes, the configuration in force, the
model store, media state and histories. -/
def resetAll (power : Bool) (s : State) : State :=
  let s := settleWrites (discardStaged (endCommands s))
  let s := s.modMgmt fun m => { m with
    sanResume := m.sanitize.isSome, exiting := false, entry := none, ps := 0, lastOp := 0 }
  let s := endSelfTest 2 0 s
  let s := mediaAfter power s
  let s := (disable s).modNvm fun n => { n with aqa := 0, asq := 0, acq := 0, pci := Pci.reset, tsSet := false, tsBase := 0, tsAt := 0 }
  let s := s.modIdx (·.map fun ix => pruneImages { ix with bound := [] })
  let s := s.modStore fun t => { t with hot := [], loadQ := [] }
  let s := (s.modParts fun _ => List.replicate 8 Part.reset).modPresets fun _ => 0
  let s := (s.modResv Resv.afterReset).modRas (Ras.afterReset power s.now)
  let s := (s.modClus fun l => l.mapIdx Clu.afterReset).modSigs fun _ => []
  let s := s.modLnk fun l => { Lnk.reset with ports := l.ports.map Port.afterReset, sent := l.sent }
  let s := (s.modCad (Cad.afterReset power)).modPwr Pwr.afterReset
  let s := (s.modCis Cis.afterReset).modEscalate fun _ => false
  let s := s.modSec fun x => { x with
    meas := List.replicate 6 (zeros 64), dbgCnt := 0, denied := 0, spdm := Spdm.reset }
  let s := s.modGen fun g => { g with attn := false, pairs := [] }
  s.modBoot fun b => { b with
    op := none, paddr := 0, pop := 0, pbuf := zeros 512, pulses := 0, rcoll := false, denied := false, refused := false
    fail := false, raddr := 0, xoviol := 0, xo := List.replicate 8 (false, 0, 0) }

end Sys2Proof.Machine
end

