-- ==== Sys2Proof/Machine/Start.lean ====
section
/-! DEFINITION. The start sequence, the ledger, Trickle mode, controller resets, power loss and dumps (R398 to R400, R412, R428 to
R450, R473, R474, R481, R482). -/

namespace Sys2Proof.Machine

/-- What a byte of the boot flash holds before the programming that `flash` records: a free value where an operation failed, the image
as manufactured in a slot block not erased since, else FFh (R434, R437, log 22). -/
def Boot.baseAt (b : Boot) (a : Nat) : Byte :=
  match b.spoiled.find? fun x => decide (x.1 ≤ a ∧ a < x.1 + x.2.1) with
  | some x => (Config.freeWord (x.2.2 + (a - x.1))).setWidth 8
  | none => if b.made.contains (a / 2 ^ 22) then Config.firmwareByte a else 0xFF

/-- A byte of the boot flash: programming can only clear bits (R434). -/
def Boot.byteAt (b : Boot) (a : Nat) : Byte := b.baseAt a &&& Mem.get 0xFF b.flash a

/-- Bytes of the boot flash. -/
def Boot.bytesAt (b : Boot) (a n : Nat) : List Byte :=
  if b.spoiled.isEmpty && !(b.made.any fun k => decide (a < (k + 1) * 2 ^ 22 ∧ k * 2 ^ 22 < a + n)) then Mem.read 0xFF b.flash a n
  else (List.range n).map fun i => b.byteAt (a + i)

/-- Program bytes: bits can only be cleared (R434). -/
def Boot.program (b : Boot) (a : Nat) (d : List Byte) : Boot :=
  let old := Mem.read 0xFF b.flash a d.length
  { b with flash := Mem.write 0xFF b.flash a ((old.zip d).map fun x => x.1 &&& x.2) }

/-- Erase a 4 MiB block: every bit becomes 1 (R434). -/
def Boot.erase (b : Boot) (block : Nat) : Boot :=
  { b with flash := Mem.clear b.flash (block * 2 ^ 22) (2 ^ 22), made := b.made.filter (· != block)
           spoiled := b.spoiled.filter fun x => x.1 / 2 ^ 22 != block }

/-- Bytes whose contents an operation that failed leaves undefined (R437): free values, one for each byte. -/
def spoil (a n : Nat) (s : State) : State :=
  (s.modBoot fun b => { b with
    flash := Mem.clear b.flash a n
    spoiled := (b.spoiled.filter fun x => !(decide (a ≤ x.1 ∧ x.1 + x.2.1 ≤ a + n))) |>.cons (a, n, s.free) }).modFree (· + n)

/-- Milliseconds since t0 (Table 16.10 ELAPSED); they stop at the end of the start. -/
def State.elapsed (s : State) : Nat := match s.boot.ended with | some t => t | none => (s.now - s.boot.t0) / 1000

/-- A ledger entry for the start that runs (Table 16.9), at most 32 are kept, latest first (R440). A start after an escalation names
the slot of the latched record (R473). -/
def appendEntry (outcome cause : Nat) (s : State) : State :=
  let err := if s.boot.kind = 5 then (match s.ras.fatal.head? with | some e => e.slot | none => 0xFFFF) else 0xFFFF
  let e : StartEntry := ⟨s.boot.starts + 1, s.boot.kind, outcome, cause, s.boot.milestone, s.boot.limit, s.elapsed, zeros 8, err⟩
  s.modBoot fun b => { b with entries := (e :: b.entries).take 32, starts := b.starts + 1 }

/-- Close the open entry (R440); see log 95 (DEDUCED). -/
def closeEntry (outcome cause : Nat) (s : State) : State :=
  let t := s.elapsed
  s.modBoot fun b => { b with entries := match b.entries with
    | e :: l => if e.outcome = 0 then { e with outcome := outcome, cause := cause, milestone := b.milestone, elapsed := t } :: l
      else e :: l
    | [] => [] }

/-- Whether the latest entry is open. -/
def State.entryOpen (s : State) : Bool := match s.boot.entries with | e :: _ => e.outcome == 0 | [] => false

/-- The start has failed (R430, R440): its entry is closed, or made as one that failed, and FAILS advances. -/
def countFailure (cause : Nat) (s : State) : State :=
  let s := if s.entryOpen then closeEntry 2 cause s else appendEntry 2 cause s
  s.modBoot fun b => { b with fails := b.fails + 1, failTotal := b.failTotal + 1 }

/-- Begin a start at step 1 (R428, R429). -/
def beginStart (kind : Nat) (s : State) : State :=
  s.modBoot fun b => { b with phase := .fill, kind := kind, t0 := s.now, ended := none, milestone := 0 }

/-- What a controller reset leaves (R447): a sled that had passed its fill remembers that it ended by a reset. -/
def goDown (s : State) : State :=
  let last := if s.boot.phase == .replay || s.boot.phase == .ready then .reset else s.boot.lastEnd
  (resetAll false (s.modBoot fun b => { b with lastEnd := last })).modNvm fun n => { n with link := { n.link with up := false } }

/-- A controller reset and the start that follows it (R447); while PERST# is low the start waits (R428). -/
def restart (kind : Nat) (s : State) : State :=
  let s := goDown s
  if s.gen.perst then s.modBoot fun b => { b with phase := .held, kind := kind } else beginStart kind s

/-- A reset cause (R445, R448): absorbed while a controller reset or a start is under way before step 5, and without power; a start
that it interrupts is closed as interrupted. -/
def controllerReset (kind : Nat) (s : State) : State :=
  match s.boot.phase with
  | .replay => restart kind (closeEntry 3 0 s)
  | .ready => restart kind s
  | .trickle => restart kind s
  | _ => s

/-- A failed start is followed by a controller reset, whose KIND the spec states for a timer and for an escalation alone (a free value
otherwise, log 9); see log 47 (DESIGN CHOICE). -/
def failStart (cause : Nat) (s : State) : State :=
  let s := countFailure cause s
  if cause = 5 then restart 4 s
  else if cause = 7 then restart 5 s
  else
    let r := draw s
    restart (r.1.toNat % 6) r.2

/-- Entry into Trickle mode (R441, R442): the Trickle image of the mask ROM is measured. -/
def enterTrickle (cause : Nat) (s : State) : State :=
  let s := extendMeas 1 Config.trickleDigest s
  let s := (s.modBoot fun b => { b with phase := .trickle, tcause := cause, ended := some s.elapsed }).modUpAt fun _ => s.now
  s.modNvm fun n => { n with rdy := n.en, link := ⟨true, 128, 8⟩ }

/-- The kind of the last stop (Table 16.2, R440). -/
def lastStopOf (r : FillReport) (b : Boot) : Nat :=
  if r.ledgerOk && b.clean then 0
  else match b.lastEnd with
    | .power record => if record && r.dumpOk then 1 else 2
    | .reset => if r.ledgerOk && r.floorsOk then 3 else 4

/-- Lanes of the die-to-die links are repaired at a start, which is recorded (R29, Table 17.1 kind 0Ch); a link without a redundant lane
stays at half width (R30); see log 99 (DEDUCED). -/
def repairDieLinks (s : State) : State :=
  ((s.ras.ucieHalf.filter fun l => !s.ras.ucieSpent.contains l).foldl
    (fun s l => addRecord { kind := 0xC, action := 3, inst := l, spare := true } s) s).modRas fun r =>
    { r with ucieHalf := r.ucieHalf.filter fun l => r.ucieSpent.contains l }

/-- Step 5 (R429): the management processor runs; policy, objects and configuration are measured (Table 18.3); the stacks and clusters
ask for their wake-ups (step 6). -/
def processorRuns (s : State) : State :=
  let s := repairDieLinks (measurePolicy (s.modUpAt fun _ => s.now))
  let s := (sortBy (·.id) s.store.objs).foldl (fun s o => extendMeas 3 (shake256 o.bytes) s) s
  let s := extendMeas 5 (shake256 s.cfg.conf.all) s
  let s := useCadsrc (s.modBoot fun b => { b with phase := .replay, milestone := 5 })
  let s := retrainAll (s.modNvm fun n => { n with link := ⟨true, 128, 8⟩ })
  let s := (List.range s.variant.stackCount).foldl (fun s n =>
    if s.resv.stkLost.contains n then s else askSurge 2 (.stack n) 150 s) s
  wakeClusters ((List.range s.variant.clusters).filter fun c => !(s.clus.getD c (Clu.reset c)).lost) s

/-- Step 4 (R429, R438, R480): the image of the slot is verified, its execute-only regions are locked. -/
def verifySlot (s : State) : State :=
  let b := s.boot
  match firmwareCheck b.bytesAt s.sec with
  | some cause => enterTrickle cause (countFailure cause s)
  | none =>
    let h := b.bytesAt 0 1024
    let s := s.modBoot fun b => { b with
      milestone := 4
      entries := match b.entries with | e :: l => { e with imgId := slice h 0x60 8 } :: l | [] => []
      xo := (List.range 8).map fun r =>
        let w := field h (0x20 + 8 * r) 2
        (bit w 15, field h (0x22 + 8 * r) 2 % 4096, w % 4096) }
    let s := s.modSec fun x => { x with
      keyidx := field h 5 1, svn := field h 8 4, floor_ := field h 0xC 4, toRevoke := field h 6 1 }
    processorRuns (extendMeas 1 (shake256 h) s)

/-- The ledger is rebuilt when both its blocks are unreadable: FAILS 0, no entries; the totals are lost (free values, R440, log 9). -/
def rebuildLedger (s : State) : State :=
  let a := draw s
  let b := draw a.2
  b.2.modBoot fun x => { x with
    fails := 0, entries := [], clean := false, jgap := 0, starts := a.1.toNat, failTotal := b.1.toNat }

/-- The records that an escalation latched are appended to the persistent records (R473). -/
def persistFatal (s : State) : State :=
  if s.boot.kind != 5 then s
  else s.modRas fun r =>
    let new := r.fatal.filter fun e => !(r.persist.any fun p => p.seqStart == e.seqStart && p.seqCount == e.seqCount)
    { r with persist := r.persist ++ new.reverse.map fun e => { e with persisted := true } }

/-- The end of the fill: steps 2 and 3 of a start (R429, R431, R440, R441), and step 4 unless an image is to be activated first. -/
def fillDone (r : FillReport) (s : State) : State :=
  if s.boot.phase != .fill then s
  else if !r.fillOk then failStart 4 s
  else
    let s := s.modBoot fun b => { b with milestone := 1 }
    if !r.checkersOk then failStart 3 s
    else
      let s := s.modBoot fun b => { b with milestone := 2 }
      let s := (r.badArrays.filter fun x => decide (x.1 < s.variant.clusters ∧ x.2 < 16)).foldl (fun s x => failArray x.1 x.2 s) s
      let s := if r.ledgerOk then s else rebuildLedger s
      let s := if s.boot.kind = 0 then closeEntry 3 0 s else s
      let stop := lastStopOf r s.boot
      let s := s.modBoot fun b => { b with
        milestone := 3, lastStop := stop, limit := if stop = 0 ∨ stop = 3 then 180 else 600, tcause := 0 }
      let s := extendMeas 0 Config.romDigest (persistFatal s)
      if 3 ≤ s.boot.fails then enterTrickle 9 (appendEntry 4 9 s)
      else
        let s := appendEntry 0 0 s
        let s := s.modRas fun x => { x with seqStart := s.boot.starts, seqCount := 0 }
        if s.boot.marker then s.modBoot fun b => { b with phase := .copy } else verifySlot s

/-- The pending image takes the slot: 16 blocks (R449). -/
def activate (b : Boot) : Boot :=
  let img := b.bytesAt (2 ^ 26) (2 ^ 26)
  { b with flash := Mem.write 0xFF b.flash 0 img, made := [], spoiled := b.spoiled.filter (fun x => decide (2 ^ 26 ≤ x.1)), marker := false }

/-- The activation copy ends (R441, R449): a copy that failed leaves the marker set and the slot without a whole image. -/
def copyDone (passed : Bool) (s : State) : State :=
  if s.boot.phase != .copy then s
  else if passed then verifySlot (s.modBoot activate)
  else enterTrickle 8 (countFailure 8 s)

/-- What the write-back buffer held is on flash: after a dump in the dump reserve, at an entry into PS4 or a shutdown in a superblock
(R57, R345, R399). -/
def flushBuffer (slc : Bool) (s : State) : State :=
  let s := s.media.wb.foldl (fun s u =>
    let l := drawLoc slc none s
    (countUnits 0 1 (noteProgram l.1 1 l.2)).modMedia fun m => { m with
      map := (m.map.filter fun e => !(e.nsid == u.nsid && e.lba == u.lba)) ++ [⟨u.nsid, u.lba, false, l.1⟩] }) s
  s.modMedia fun m => { m with wb := [], dirty := [], late := [] }

/-- A unit is lost (R352, R433): its entry gets BAD. -/
def loseUnit (nsid lba : Nat) (s : State) : State :=
  let l := drawLoc false none s
  let e : MapE := match s.entry? nsid lba with
    | some e => { e with bad := true }
    | none => ⟨nsid, lba, true, l.1⟩
  let s := (match s.entry? nsid lba with | some _ => s | none => l.2)
  setEntry e (s.modMedia fun m => { m with wb := m.wb.filter fun u => !(u.nsid == nsid && u.lba == lba) })

/-- A unit reads as it stood before a change that replay discarded (R433). -/
def undoChange (u : Undo) (s : State) : State :=
  let s := modNs u.nsid (fun x => { x with mem := Mem.write 0 x.mem (u.lba * 4096) (slice u.old 0 4096) }) s
  s.modMedia fun m => { m with
    map := (m.map.filter fun e => !(e.nsid == u.nsid && e.lba == u.lba)) ++ u.was.toList
    wb := m.wb.filter fun w => !(w.nsid == u.nsid && w.lba == u.lba) }

/-- What replay recovers when the dump or the floors are not whole (R433); see log 90 (DEDUCED). -/
def recover (r : ReplayReport) (s : State) : State :=
  let s := s.modCis fun c => { c with dumpInc := c.dumpInc + 1 }
  match r.gapAt with
  | some g =>
    let s := ((s.media.undo.filter fun u => decide (g ≤ u.seq)).reverse).foldl (fun s u => undoChange u s) s
    let s := (s.modMedia fun m => { m with undo := m.undo.filter fun u => decide (u.seq < g) }).modBoot fun b => { b with jgap := g }
    smartEvent 2 s
  | none =>
    if r.lostUnits.isEmpty then s
    else
      let s := r.lostUnits.foldl (fun s u => loseUnit u.1 u.2 s) s
      addRecord { kind := 0x10, cls := 2, action := 8, detail := r.lostUnits.length } s

/-- The firmware's floor and revocations take effect at the first ready of a start (R481). -/
def firstReady (s : State) : State :=
  let x := s.sec
  let m := max x.minsvn x.floor_
  let k := x.revoked ||| x.toRevoke
  if m = x.minsvn ∧ k = x.revoked then s
  else measurePolicy (s.modSec fun x => { x with minsvn := m, revoked := k })

/-- Sanitize destroys what R69 names: user data with collections and indexes, the model store, the Reservoir but for its floors, the
staging image; every namespace key is replaced. A Block Erase also erases the blocks that held user data. -/
def destroyAll (block : Bool) (s : State) : State :=
  let s := s.modNss fun l => l.zipIdx.map fun n => { n.1 with mem := [], keyGen := s.keyGens + 1 + n.2 }
  let s := s.modKeyGens (· + s.nss.length)
  let s := s.modSec fun x => { x with storeKey := x.storeKey + 1 }
  let s := dropSets (fun _ => true) (s.modIdx fun _ => [])
  let s := s.modStore fun _ => Store.reset
  let above := (s.resv.units.filter fun u => u.cls == 2).map (·.key)
  let s := s.modMedia fun m => { m with
    map := [], wb := [], undo := [], late := []
    pages := m.pages.filter fun p => !above.contains p.1, dirty := m.dirty.filter fun p => !above.contains p
    wear := if block then m.wear.map (fun w => (w.1, w.2.1, w.2.2 +
      (if m.sbs.any fun b => b.set == w.1 && b.block == w.2.1 && b.slc then 3 else 20))) else m.wear
    sbs := if block then [] else m.sbs, victims := if block then [] else m.victims }
  let s := s.modResv fun r => { r with units := [], mem := [], poison := [] }
  s.modCfg fun g => if g.commit.isSome then g else { g with image := none, stageId := 0, checked := 0 }

/-- After ready, an interrupted sanitize runs again from its beginning (R70); see log 101 (DEDUCED). -/
def resumeSanitize (s : State) : State :=
  match s.mgmt.sanitize with
  | some k => if s.mgmt.sanResume then destroyAll (bits k 2 0 == 2) (s.modMgmt fun m => { m with sanResume := false }) else s
  | none => s

/-- Pinned models are loaded again (R304). -/
def reloadPinned (s : State) : State :=
  ((s.store.objs.filter fun o => o.model && o.pin).map (·.id)).foldl (fun s m => (startLoad m s).getD s) s

/-- Whether the wake-ups of step 6 have all been granted. -/
def State.awake (s : State) : Bool := !(s.pwr.surges.any fun g => g.cls == 2 || g.cls == 3)

/-- Milestone 6: the stacks and clusters are up (Table 16.4). -/
def noteAwake (s : State) : State :=
  if s.boot.phase == .replay && s.boot.milestone == 5 && s.awake then s.modBoot fun b => { b with milestone := 6 } else s

/-- Replay ends: step 7 of a start, once step 6 has ended, in which failed clusters and arrays were substituted (R229 to R231, R429, R430,
R433). -/
def replayEnds (r : ReplayReport) (s : State) : State :=
  if s.boot.phase != .replay || !s.awake then s
  else if !r.checkpointOk then failStart 6 s
  else if r.imageFails then failStart 7 (s.modRas fun x => { x with escal := sat32 x.escal })
  else
    let s := s.modMedia fun m => { m with pages := m.floor ++ m.pages, dirty := m.floorDirty ++ m.dirty, floor := [], floorDirty := [] }
    let s := (r.badClusters.filter fun c => decide (c < s.variant.clusters)).foldl (fun s c => failCluster c s) s
    let s := (List.range s.variant.clusters).foldl (fun s c => substituteIn c s) s
    let s := if s.boot.lastStop = 2 ∨ s.boot.lastStop = 4 then recover r s else s
    let s := if s.boot.lastStop ≤ 2 then flushBuffer true s else s
    let s := firstReady (s.modBoot fun b => { b with milestone := 7 })
    let s := s.modBoot fun b => { b with phase := .ready, milestone := 8 }
    let s := (closeEntry 1 0 s).modBoot fun b => { b with ended := some ((s.now - b.t0) / 1000), fails := 0 }
    let s := s.modNvm fun n => { n with rdy := n.en }
    resumeSanitize (reloadPinned s)

/-- The start timer reaches its limit (R430). -/
def timerExpires (s : State) : State :=
  match s.boot.phase with
  | .copy => failStart 5 s
  | .replay => failStart 5 s
  | _ => s

/-- A latched fatal fault causes a controller reset (R473, R474): before ready it fails the start with cause 07h. -/
def escalateNow (s : State) : State :=
  if !s.escalate then s
  else
    let s := (s.modEscalate fun _ => false).modRas fun x => { x with escal := sat32 x.escal }
    match s.boot.phase with
    | .replay => failStart 7 s
    | .ready => restart 5 s
    | .trickle => restart 5 s
    | _ => s

/-- Power-good (R429, R502): the bay straps are latched, and a power-on start begins. -/
def powerOn (s : State) : State :=
  beginStart 0 ((resetAll true s).modNvm fun n => { n with link := { n.link with up := false } })

/-- The host port is down and the controller disabled. -/
def hostGone (s : State) : State :=
  s.modNvm fun n => { n with link := { n.link with up := false }, en := false, rdy := false }

/-- The timestamp is saved as the sled shuts down (R351). -/
def saveStamp (s : State) : State := s.modMedia fun m => { m with offStamp := if s.nvm.tsSet then some s.stamp else none }

/-- A dump begins: commands end (R35), and the clusters, the Runnel ports and the host port stop (R399). -/
def beginDump (thermal : Bool) (s : State) : State :=
  let s := saveStamp (endCommands (settleWrites s))
  let s := (s.modClus fun l => l.mapIdx Clu.afterReset).modSigs fun _ => []
  let s := (s.modParts fun _ => List.replicate 8 Part.reset).modLnk fun l => { Lnk.reset with ports := l.ports.map Port.afterReset, sent := l.sent }
  (hostGone s).modBoot fun b => { b with phase := .dump thermal }

/-- A power-loss condition (R399); a spare string that waits is switched in. A dump that runs goes on (R400). Before step 5 and in
Trickle mode there is nothing to dump, and the sled is off at once. -/
def powerLoss (s : State) : State :=
  let s := switchSpare s
  match s.boot.phase with
  | .replay => beginDump false s
  | .ready => beginDump false s
  | .off => s
  | .dump _ => s
  | .hot => s
  | _ => (hostGone (endCommands s)).modBoot fun b => { b with phase := .off }

/-- A thermal shutdown (R412): the sled dumps on input power and stays off. -/
def thermalStop (s : State) : State :=
  let s := s.modPwr fun p => { p with tshut := sat32 p.tshut }
  match s.boot.phase with
  | .replay => beginDump true s
  | .ready => beginDump true s
  | .off => s
  | .dump _ => s.modBoot fun b => { b with phase := .dump true }
  | _ => (hostGone (endCommands s)).modBoot fun b => { b with phase := .hot }

/-- The dump ends (R399, R400, R412): the sled is off, after a thermal shutdown until its sensors are cool. -/
def dumpEnds (recordOk : Bool) (us j : Nat) (s : State) : State :=
  match s.boot.phase with
  | .dump t =>
    let s := s.modCis fun c => { c with dumps := sat32 c.dumps, lastDump := us, dumpJ := j }
    let s := s.modMedia fun m => { m with reserve := false }
    s.modBoot fun b => { b with phase := if t then .hot else .off, lastEnd := .power recordOk }
  | _ => s

/-- Every sensor is 10 °C below its throttle threshold (R412). -/
def coolEnough (t : List Int) : Bool := t.length == 7 && (t.zip throttleAt).all fun x => decide (x.1 + 100 ≤ x.2)

end Sys2Proof.Machine
end

