-- ==== Sys2Proof/Machine/Regs.lean ====
section
/-! DEFINITION. The register space: blocks, what each register reads, pairs, and reads with an effect (R7, R11 to R16, R435, R438, R505,
R510, R511). -/

namespace Sys2Proof.Machine

/-- The blocks of BAR2 (Table 20.1). -/
inductive Block where
  | gen | cad | cis | pwr | boot | ras | mem | med
  | lnk (n : Nat)
  | lnkc
  | clu (n : Nat)
  | sync (n : Nat)
  | sec
  deriving DecidableEq, Repr

/-- The block that an address lies in, its instance and the offset in it (Table 20.1). -/
def blockOf (a : Nat) : Option (Block × Nat) :=
  if a < 0x10000 then some (.gen, a)
  else if a < 0x20000 then some (.cad, a - 0x10000)
  else if a < 0x30000 then some (.cis, a - 0x20000)
  else if a < 0x40000 then some (.pwr, a - 0x30000)
  else if a < 0x80000 then some (.boot, a - 0x40000)
  else if a < 0x100000 then some (.ras, a - 0x80000)
  else if a < 0x200000 then some (.mem, a - 0x100000)
  else if a < 0x400000 then some (.med, a - 0x200000)
  else if a < 0x440000 then some (.lnk ((a - 0x400000) / 0x10000), a % 0x10000)
  else if 0x480000 ≤ a ∧ a < 0x490000 then some (.lnkc, a - 0x480000)
  else if 0x1000000 ≤ a ∧ a < 0x1200000 then some (.clu ((a - 0x1000000) / 0x10000), a % 0x10000)
  else if 0x2000000 ≤ a ∧ a < 0x2010000 then some (.sync ((a - 0x2000000) / 16), a % 16)
  else if 0x3000000 ≤ a ∧ a < 0x3010000 then some (.sec, a - 0x3000000)
  else none

/-- Whether an instance is present on the variant (R7). -/
def State.hasBlock (s : State) : Block → Bool
  | .lnk n => decide (n < s.variant.ports)
  | .clu n => decide (n < s.variant.clusters)
  | .sync n => decide (n < s.variant.syncObjects)
  | _ => true

/-- A signed value as 16 bits. -/
def s16 (v : Int) : Nat := (v % 65536).toNat

/-- Bytes in MiB, rounded down; see log 100 (DEDUCED). -/
def mib (n : Nat) : Nat := n / 2 ^ 20

/-- FAULT# (R505): released until step 5 of a start. -/
def State.faultOut (s : State) : Bool :=
  (s.boot.phase == .trickle || s.boot.phase == .replay || s.boot.phase == .ready) &&
  (s.boot.phase == .trickle || s.media.readOnly || s.gen.lost || s.gen.attn)

/-- GEN (Table 19.11). -/
def genReg (s : State) (off : Nat) : Nat :=
  match off with
  | 0x00 => 0x09000000 + Config.stepping.toNat * 256 + (match s.variant with | .d1024 => 1 | .d512 => 2)
  | 0x04 => b2n s.gen.i3c * 128 + s.gen.bay % 16
  | 0x08 => b2n s.gen.latchOpen * 16 + b2n s.faultOut * 8 + b2n s.gen.pwrloss * 4 + b2n s.gen.perst * 2 + b2n s.gen.cadact
  | 0x0C => b2n s.gen.lost * 8 + b2n s.media.readOnly * 4 + b2n (s.boot.phase == .trickle) * 2 + b2n s.gen.attn
  | _ => 0

/-- CAD (Table 14.9). -/
def cadReg (s : State) (off : Nat) : Nat :=
  match off with
  | 0x00 => s.cfg.conf.slot % 16 * 2 ^ 20 + s.cad.pidx % 16 * 2 ^ 16 + s.cad.src % 4
  | 0x04 => s.cad.tracked % 2 ^ 20
  | 0x10 => s.cad.viol
  | 0x14 => s.cad.loss
  | 0x18 => s.cad.surr
  | 0x1C => s.cad.reacq
  | 0x20 => s.cad.vstat % 16
  | 0x24 => s.cfg.conf.stepw * 2 ^ 16 + s.cfg.conf.release
  | 0x28 => s.pwr.surges.length * 2 ^ 16 + min (s.pwr.stagMax / 10) 0xFFFF
  | _ => 0

/-- Whether a start has passed its memory fill (R429); before that BACKUPFAIL and INPART hold the 0 of their "At reset" columns;
see log 2 (DESIGN CHOICE). -/
def State.pastFill (s : State) : Bool :=
  match s.boot.phase with
  | .off | .held | .fill => false
  | _ => true

/-- Bit i for each string in a state. -/
def stringMask (s : State) (st : Nat) : Nat := maskOf ((List.range 9).filter fun i => match s.cis.strings[i]? with | some x => x.st == st | none => false)

/-- The energy of a string in 0.1 J. -/
def CString.energy (x : CString) : Nat := x.cap * (x.mv * x.mv) / 2000000000

/-- CIS (Table 14.10). -/
def cisReg (s : State) (off : Nat) : Nat :=
  let str := s.cis.strings[(off - 0x40) / 8]?
  match off with
  | 0x00 => b2n s.cis.test.isSome * 2 ^ 30 + b2n s.cis.burst.isSome * 2 ^ 29 + b2n (s.pastFill && s.cis.allow == 0) * 2 ^ 28 +
      stringMask s 3 * 512 + stringMask s 0
  | 0x04 => s.cis.ePres / 1000 % 65536 * 65536 + s.cis.eMeas / 1000 % 65536
  | 0x08 => mib s.held * 65536 + s.cfg.conf.allowcap % 256 * 256 + s.cis.allow % 256
  | 0x0C => b2n (match s.cis.test with | some t => t.byReg | none => false)
  | 0x10 => s16 s.cis.temp
  | 0x14 => (s.now - s.cis.lastTest) / 60000000
  | 0x18 => s.cis.dumps
  | 0x1C => s.cis.dumpInc
  | _ => match str with
    | some x =>
      if off < 0x40 then 0
      else if off % 8 = 0 then x.esr * 65536 + x.cap
      else if off % 8 = 4 then x.st * 2 ^ 24 + x.energy % 65536
      else 0
    | none => 0

/-- THERM of PWR_STAT. -/
def State.therm (s : State) : Nat := if s.pwr.crit.any id then 2 else if s.pwr.throttled then 1 else 0

/-- PWR (Table 14.11). -/
def pwrReg (s : State) (off : Nat) : Nat :=
  match off with
  | 0x00 => s.therm * 16 + s.mgmt.ps
  | 0x04 => s.pwr.vin % 65536
  | 0x08 => s.pwr.pin1 % 65536 * 65536 + s.pwr.pin100 % 65536
  | 0x0C => s.ceiling * 65536 + s.drawD / 10
  | 0x10 => s.pwr.exc
  | 0x14 => s.pwr.trims
  | 0x18 => s.pwr.ploss
  | 0x1C => s.pwr.thrtl
  | _ => if 0x40 ≤ off ∧ off < 0x5C ∧ off % 4 = 0 then s16 (s.pwr.temps.getD ((off - 0x40) / 4) 0) else 0

/-- MODE of BOOT_STAT. -/
def State.bootMode (s : State) : Nat := if s.boot.phase == .ready then 1 else if s.boot.phase == .trickle then 2 else 0

/-- BOOT, but for the window (Table 16.10). -/
def bootReg (s : State) (off : Nat) : Nat :=
  let b := s.boot
  match off with
  | 0x00 => min b.fails 255 * 2 ^ 24 + b.milestone * 2 ^ 20 + b.tcause * 2 ^ 16 + b.lastStop * 2 ^ 13 + b2n b.marker * 2 ^ 12 + s.bootMode * 256
  | 0x04 => b.kind
  | 0x0C => s.elapsed
  | 0x10 => b.limit
  | 0x20 => b.paddr
  | 0x24 => b2n b.op.isSome * 256 + b.pop
  | 0x28 => b.pulses * 2 ^ 16 + b2n b.rcoll * 16 + b2n b.denied * 8 + b2n b.refused * 4 + b2n b.fail * 2 + b2n b.op.isSome
  | 0x2C => b.raddr
  | 0x30 => b.xoviol
  | _ =>
    if 0x40 ≤ off ∧ off < 0x60 ∧ off % 4 = 0 then
      let x := b.xo.getD ((off - 0x40) / 4) (false, 0, 0)
      b2n x.1 * 2 ^ 31 + x.2.1 * 4096 + x.2.2
    else if 0x400 ≤ off ∧ off < 0x600 ∧ off % 4 = 0 then field b.pbuf (off - 0x400) 4
    else 0

/-- SEQ of a record. -/
def ErrRec.seq (e : ErrRec) : Nat := e.seqStart % 2 ^ 32 * 2 ^ 32 + e.seqCount

/-- The 64 bytes of an error record (Table 17.3). -/
def ErrRec.bytes (e : ErrRec) : List Byte :=
  let flags := b2n e.nested + 2 * b2n e.coalesced + 4 * b2n e.persisted + 8 * b2n e.promise + 16 * b2n e.cmdValid + 32 * b2n e.injected
  leBytes 8 e.seq ++ leBytes 8 e.time ++ leBytes 8 e.tstamp ++ leBytes 1 e.cls ++ leBytes 1 flags ++ leBytes 1 e.slot ++
    leBytes 1 e.parent ++ leBytes 1 e.kind ++ leBytes 1 e.action ++ leBytes 2 e.inst ++ leBytes 8 (e.pseq.1 % 2 ^ 32 * 2 ^ 32 + e.pseq.2) ++
    leBytes 4 (if e.cmdValid then e.sqid * 65536 + e.cid else 0) ++ leBytes 1 e.part ++ leBytes 3 e.count ++ leBytes 8 e.addr ++
    leBytes 8 e.detail

/-- SEQ of the latest record, 0 without one. -/
def State.lastSeq (s : State) : Nat :=
  match s.ras.ring.find? fun e => e.slot == s.ras.head with | some e => e.seq | none => 0

/-- The 128 bytes of RAS_FATAL (R473). -/
def State.fatalBytes (s : State) : List Byte := slice (s.ras.fatal.flatMap ErrRec.bytes) 0 128

/-- RAS (Table 17.8). -/
def rasReg (s : State) (off : Nat) : Nat :=
  let r := s.ras
  match off with
  | 0x00 => r.head * 256 + r.hdepth % 16
  | 0x04 => b2n r.hbmScrub * 2 + b2n r.sramScrub
  | 0x08 => r.promise % 4096
  | 0x20 => r.cnt.getD 0 0
  | 0x24 => r.cnt.getD 1 0
  | 0x28 => r.cnt.getD 2 0
  | 0x2C => r.cnt.getD 3 0
  | 0x30 => r.nested
  | 0x34 => r.escal
  | 0x38 => r.suppr % 65536 * 65536 + r.expired % 65536
  | 0x3C => (s.now - r.sramAt) / 60000000
  | 0x40 => (s.now - r.hbmAt) / 60000000
  | 0x44 => r.fmcRst
  | 0x48 => r.injInst * 2 ^ 16 + r.injMem * 256 + b2n r.injArm * 4 + r.injType
  | _ => if 0x80 ≤ off ∧ off < 0x100 ∧ off % 4 = 0 then field s.fatalBytes (off - 0x80) 4 else 0

/-- Usage of a class of the pool in bytes (Table 11.7): class 2 counts every cached map page. -/
def State.classUse (s : State) (c : Nat) : Nat :=
  if c = 2 then s.media.pages.length * 16384 else sumOf ((s.resv.units.filter fun u => u.cls == c).map (·.bytes))

/-- MiB retired: a channel 1.5 GiB, a stack 48 GiB (R331). -/
def State.retiredMib (s : State) : Nat :=
  1536 * (s.resv.chRet.filter fun c => !s.resv.stkLost.contains c.1).length + 49152 * s.resv.stkLost.length

/-- MEM (Table 11.7). -/
def memReg (s : State) (off : Nat) : Nat :=
  let r := s.resv
  match off with
  | 0x00 => b2n s.variant.mirrored * 4096 + (2 ^ s.variant.stackCount - 1)
  | 0x04 => maskOf r.stkLost
  | 0x08 => r.chRet.length
  | 0x10 => s.variant.reservoirMiB - s.retiredMib
  | 0x14 => mib s.poolFree
  | 0x18 => 65536
  | 0x1C => 32768
  | 0x20 => s.variant.protFloorMiB
  | 0xC8 => r.exhaust
  | 0xCC => r.late
  | 0xD0 => r.mirRet
  | 0xD4 => r.nmFail
  | 0xD8 => r.tierFail
  | 0xDC => r.rowRep
  | 0xE0 => r.laneRep
  | 0xE4 => r.mirSkip
  | _ =>
    if 0x40 ≤ off ∧ off < 0x58 ∧ off % 4 = 0 then mib (s.classUse ((off - 0x40) / 4))
    else if 0x80 ≤ off ∧ off < 0xA0 ∧ off % 4 = 0 then
      mib (sumOf ((r.units.filter fun u => u.owner == (off - 0x80) / 4).map (·.bytes)))
    else 0

/-- The dies of a channel that have failed, as a map (Table 12.7). -/
def State.dieMap (s : State) (ch : Nat) : Nat := maskOf ((s.media.failed.filter fun d => d.1 == ch).map (·.2))

/-- MED (Table 12.7). -/
def medReg (s : State) (off : Nat) : Nat :=
  let m := s.media
  match off with
  | 0x00 => b2n m.ageUnk * 32 + b2n (!m.rebuilding.isEmpty) * 16 + b2n (decide (s.avSpare < 10)) * 8 + b2n (decide (100 < s.pctUsed)) * 4 +
      (if m.readOnly then 2 else 0)
  | 0x04 => b2n m.scrubEn
  | 0x08 => s.avSpare * 65536 + s.pctUsed
  | 0x0C => s.slcTarget / 1024
  | 0x10 => s.slcHeld / 1024
  | 0x14 => s.fill
  | 0x18 => m.pages.length / 64
  | 0x1C => m.dirty.length / 64
  | 0x30 => m.retired.length
  | 0x34 => m.failed.length
  | 0x38 => s.badUnits
  | 0x3C => s.scrubAge
  | 0x40 => m.latThr * 65536 + m.deepThr
  | _ => if 0x100 ≤ off ∧ off < 0x300 ∧ off % 4 = 0 then s.dieMap ((off - 0x100) / 4) else 0

/-- LNK of a port (Table 13.10). -/
def lnkReg (s : State) (n off : Nat) : Nat :=
  let p := s.port n
  match off with
  | 0x00 => p.cause * 2 ^ 24 + p.ifup % 32 * 2 ^ 19 + p.spares % 4 * 2 ^ 17 + p.width % 64 * 2 ^ 11 + p.st * 256 + p.mode
  | 0x04 => match p.peer with | some d => 2 ^ 31 + d % 2 ^ 14 | none => 0
  | 0x10 => p.swaps
  | 0x14 => p.trainFail
  | 0x20 => p.fecUnc
  | 0x24 => p.retry
  | _ => 0

/-- LNKC (Table 13.11). -/
def lnkcReg (s : State) (off : Nat) : Nat :=
  let l := s.lnk
  match off with
  | 0x00 => s.cfg.conf.devnum % 2 ^ 14
  | 0x0C => s.cfg.conf.rtmo
  | 0x10 => s.cfg.conf.vlan % 4096 * 65536 + s.cfg.conf.udpport % 65536
  | 0x14 => (l.peers.filter (·.lost)).length * 65536 + l.peers.length
  | 0x18 => l.retx
  | 0x1C => l.failover
  | 0x20 => l.dup
  | 0x24 => l.drop
  | 0x28 => l.timeout
  | 0x2C => l.unreach
  | 0x30 => l.wake
  | _ => 0

/-- CLU_ID without its reserved bits (Table 7.7). -/
def Clu.idReg (x : Clu) (n : Nat) : Nat :=
  x.afailed % 32 * 2 ^ 19 + b2n (x.afailed != 31) * 2 ^ 18 + b2n x.spare * 2 ^ 17 + x.die % 2 * 2 ^ 16 + x.phys % 256 * 256 + n

/-- Counters of tensors (Table 9.10). -/
def tensorCnt (l : List (Nat × Nat)) (t : Nat) : Nat := match l.find? fun p => p.1 == t with | some p => p.2 | none => 0

/-- CLU of a cluster (Tables 7.6 to 7.13 and 9.10). -/
def cluReg (s : State) (n off : Nat) : Nat :=
  let x := s.clu n
  let a := x.ar
  let part := if s.pastFill then s.partOfClu n else none
  match off with
  | 0x00 => x.idReg n
  | 0x04 => b2n x.lost * 512 + b2n x.reloadWait * 256 + b2n x.tdPend * 128 + b2n x.halted * 64 + b2n (s.quiescent n) * 32 + b2n x.run * 16 +
      b2n part.isSome * 8 + part.getD 0
  | 0x08 => b2n x.haltReq
  | 0x0C => x.imgen % 65536
  | 0x10 => x.improg
  | 0x14 => x.core.pc % 2 ^ 18
  | 0x18 => (x.q 2).queue.length * 2 ^ 20 + (x.q 1).queue.length * 2 ^ 10 + (x.q 0).queue.length
  | 0x1C => (x.q 4).queue.length * 2 ^ 10 + (x.q 3).queue.length
  | 0x20 => (s.remoteOf n).length % 256 * 256 + (x.q 4).out * 16 + (x.q 0).out
  | 0x30 => x.poisOrg
  | 0x34 => x.poisProp
  | 0x40 => x.tma
  | 0x44 => b2n x.tmPois * 4 + b2n x.tmRefused * 2
  | 0x100 => x.tf.pc % 2 ^ 18
  | 0x10C => b2n x.tf.valid * 2 ^ 31 + b2n x.tf.stale * 2 ^ 17 + b2n x.tf.empty * 2 ^ 16 + x.tf.slot % 32 * 256 + x.tf.arr % 32
  | 0x400 => a.satpol
  | 0x404 => a.undevt * 65536 + a.satevt
  | 0x408 => a.astat % 8
  | 0x438 => a.accSat
  | 0x43C => a.resFail
  | _ =>
    if 0x80 ≤ off ∧ off < 0xC0 ∧ off % 4 = 0 then field x.tmData (off - 0x80) 4
    else if 0x500 ≤ off ∧ off < 0x600 ∧ off % 4 = 0 then tensorCnt a.tsat ((off - 0x500) / 4)
    else if 0x600 ≤ off ∧ off < 0x700 ∧ off % 4 = 0 then tensorCnt a.tund ((off - 0x600) / 4)
    else 0

/-- Waits and takes pending on an object of a cluster (Table 7.14). -/
def Clu.waitersOf (x : Clu) (o : Nat) : Nat :=
  (match x.core.st with | .waiting _ k _ _ => b2n (k == o) | _ => 0) +
  sumOf ((List.range 5).map fun e => match (x.q e).queue.head? with
    | some k => b2n (k.wkind != 0 && !k.granted && k.wobj == o)
    | none => 0)

/-- SYNC of an object (Table 7.14). -/
def syncReg (s : State) (n off : Nat) : Nat :=
  let x := s.clu (n / 128)
  let o := x.obj (n % 128)
  match off with
  | 0x0 => o.value
  | 0x4 => o.dropped * 2 ^ 24 + x.ctxgen % 256 * 2 ^ 16 + x.waitersOf (n % 128) % 256 * 256 + b2n o.ovf
  | 0x8 => o.sigcnt
  | 0xC => o.lastDev % 2 ^ 14 * 2 ^ 16 + o.lastClu % 256
  | _ => 0

/-- SEC (Table 18.9). -/
def secReg (s : State) (off : Nat) : Nat :=
  match off with
  | 0x00 => s.sec.stat
  | 0x04 => s.sec.svn
  | 0x08 => s.sec.minsvn
  | 0x0C => s.sec.dbgCnt
  | 0x10 => s.sec.denied
  | _ =>
    if 0x40 ≤ off ∧ off < 0x80 ∧ off % 4 = 0 then field devid (off - 0x40) 4
    else if 0x100 ≤ off ∧ off < 0x280 ∧ off % 4 = 0 then field (s.sec.meas.getD ((off - 0x100) / 64) []) (off % 64) 4
    else 0

/-- The 64-bit values held in pairs, by the offset of their _LO register (R16). -/
def pairVal (s : State) (b : Block) (off : Nat) : Option Nat :=
  match b, off with
  | .gen, 0x10 => some s.ms
  | .cad, 0x08 => some s.cad.frames
  | .ras, 0x10 => some s.lastSeq
  | .mem, 0xC0 => some s.resv.evict
  | .med, 0x20 => some s.media.mapHit
  | .med, 0x28 => some s.media.mapMiss
  | .lnk n, 0x08 => some (maskOf (s.port n).lanes)
  | .lnk n, 0x18 => some (s.port n).fecCorr
  | .lnk n, 0x28 => some (s.port n).tx
  | .lnk n, 0x30 => some (s.port n).rx
  | .lnkc, 0x04 => some s.cfg.conf.sysid
  | .clu n, 0x104 => some (s.clu n).tf.cycle
  | .clu n, 0x410 => some (s.clu n).ar.satTile
  | .clu n, 0x418 => some (s.clu n).ar.satElem
  | .clu n, 0x420 => some (s.clu n).ar.undTile
  | .clu n, 0x428 => some (s.clu n).ar.replay
  | .clu n, 0x430 => some (s.clu n).ar.qTile
  | .sec, 0x18 => some s.sec.ownerSeq
  | _, _ => none

/-- A register that is not one of a pair. -/
def regVal (s : State) (b : Block) (off : Nat) : Nat :=
  match b with
  | .gen => genReg s off
  | .cad => cadReg s off
  | .cis => cisReg s off
  | .pwr => pwrReg s off
  | .boot => bootReg s off
  | .ras => rasReg s off
  | .mem => memReg s off
  | .med => medReg s off
  | .lnk n => lnkReg s n off
  | .lnkc => lnkcReg s off
  | .clu n => cluReg s n off
  | .sync n => syncReg s n off
  | .sec => secReg s off

/-- Whether an address of the boot flash lies in a locked region (R438). -/
def Boot.locked (b : Boot) (a n : Nat) : Bool :=
  b.xo.any fun x => x.1 && decide (a < (x.2.1 + 1) * 65536 ∧ x.2.2 * 65536 < a + n)

/-- A read of BOOT_RWIN (R435, R438): zero while an operation runs, which sets RCOLL, and in a locked region, which counts. What the
ledger, the security record and the persistent records hold as bytes the spec leaves open (free values, log 9);
see log 79 (DESIGN CHOICE). -/
def readWindow (j : Nat) (s : State) : Nat × State :=
  let a := s.boot.raddr + 4 * j
  if s.boot.op.isSome then (0, s.modBoot fun b => { b with rcoll := true })
  else if s.boot.locked a 4 then
    (0, s.modBoot fun b => { b with xoviol := sat32 b.xoviol })
  else if 0x08000000 ≤ a ∧ a < 0x0A000000 then
    let r := draw s
    (r.1.toNat % 2 ^ 32, r.2)
  else (leNat (s.boot.bytesAt a 4), s)

/-- Read a register of a block (R13, R16): a _LO latches the upper half, the next read of _HI returns it; see log 92 (DEDUCED). -/
def readReg (a : Nat) (b : Block) (off : Nat) (s : State) : Nat × State :=
  match pairVal s b off with
  | some v =>
    (v % 2 ^ 32, s.modGen fun g => { g with
      pairs := (g.pairs.filter fun p => p.1 != a + 4) ++ [(a + 4, BitVec.ofNat 32 (v / 2 ^ 32))] })
  | none =>
    match (if 4 ≤ off then pairVal s b (off - 4) else none) with
    | some v =>
      match s.gen.pairs.find? fun p => p.1 == a with
      | some p => (p.2.toNat, s.modGen fun g => { g with pairs := g.pairs.filter fun p => p.1 != a })
      | none => (v / 2 ^ 32 % 2 ^ 32, s)
    | none =>
      if b == .boot && decide (0x800 ≤ off ∧ off < 0xA00 ∧ off % 4 = 0) then readWindow ((off - 0x800) / 4) s
      else (regVal s b off % 2 ^ 32, s)

/-- Whether the sled answers on the host bus: from step 5, or in Trickle mode (R429). -/
def State.answers (s : State) : Bool :=
  s.boot.phase == .replay || s.boot.phase == .ready || s.boot.phase == .trickle

/-- Whether a BAR2 access reaches a block: absent instances, PS3 and PS4, and Trickle mode shut blocks out (R7, R59, R511). -/
def State.reaches (s : State) (b : Block) : Bool :=
  s.hasBlock b &&
  (s.boot.phase != .trickle || b == .gen || b == .boot || b == .ras) &&
  (decide (s.mgmt.ps < 3) || (match b with | .clu _ => false | .sync _ => false | .mem => false | _ => true))

/-- A BAR2 read (R12, R511): only an aligned one of 32 bits reads a register. -/
def busRead (a size : Nat) (s : State) : Nat × State :=
  if size != 4 || a % 4 != 0 then (0, s)
  else match blockOf a with
    | none => (0, s)
    | some (b, off) => if s.reaches b then readReg a b off s else (0, s)

end Sys2Proof.Machine
end

