-- ==== Sys2Proof/Machine/RegWrite.lean ====
section
/-! DEFINITION. Register writes (R11 to R14, R209, R216, R354, R435 to R439, R460, R461, R477, R491, R505). -/

namespace Sys2Proof.Machine

/-- A patrol or the media scrub is switched off, or on again (R354, R460, R461): while it is off its bit of RAS_PROMISE is set, with a
record whose KIND the spec does not state (log 33). -/
def scrubSwitch (promise : Nat) (old new : Bool) (s : State) : State :=
  if old && !new then
    let k := openKind s
    losePromise promise k.1 0xFFFF k.2
  else s

/-- RAS_CTL: a patrol that is enabled again begins a new pass (R453, R454). -/
def writeRasCtl (v : Nat) (s : State) : State :=
  let r := s.ras
  let s := scrubSwitch 8 r.sramScrub (bit v 0) (scrubSwitch 9 r.hbmScrub (bit v 1) s)
  s.modRas fun x => { x with
    sramScrub := bit v 0, hbmScrub := bit v 1
    sramPass := if !r.sramScrub && bit v 0 then s.now else x.sramPass
    hbmPass := if !r.hbmScrub && bit v 1 then s.now else x.hbmPass }

/-- MED_CTL (R354). -/
def writeMedCtl (v : Nat) (s : State) : State :=
  (scrubSwitch 10 s.media.scrubEn (bit v 0) s).modMedia fun m => { m with scrubEn := bit v 0 }

/-- RAS_INJ (R477, R491). -/
def writeInj (v : Nat) (s : State) : State :=
  if s.sec.debug < 2 then s.modSec fun x => { x with denied := sat32 x.denied }
  else
    let s := if bit v 2 then (debugAct 2 5 (bits v 23 16) 0x48 v s).1 else s
    s.modRas fun r => { r with
      injInst := bits v 23 16, injMem := bits v 15 8, injType := bits v 1 0, injArm := r.injArm || bit v 2 }

/-- CLU_CTL (Table 7.9, R209, R491). -/
def writeCluCtl (c v : Nat) (s : State) : State :=
  let s := if bit v 0 then
      let r := debugAct 1 2 c 8 v s
      if r.2 then modClu c (fun x => { x with haltReq := true }) r.1 else r.1
    else s
  if bit v 1 then
    let r := debugAct 2 3 c 8 v s
    if r.2 then modClu c (fun x =>
      if x.improg = 0 ∧ x.imkind ≠ 255 then x
      else { x with
        imgen := (x.imgen + 1) % 65536
        im := match s.stored? x.improg with
          | some o => if o.model then x.im else Mem.cells 0 0 (imgCode o.bytes)
          | none => x.im }) r.1
    else r.1
  else s

/-- CLU_TMCTL (Table 7.12, R491): a granule of a quiescent cluster is read, else REFUSED is set. -/
def writeTmctl (c v : Nat) (s : State) : State :=
  let s := if bit v 1 then modClu c (fun x => { x with tmRefused := false }) s else s
  if !bit v 0 then s
  else
    let refuse := modClu c (fun x => { x with tmRefused := true })
    if s.sec.debug < 1 then refuse (debugAct 1 1 c 0x44 v s).1
    else if !s.quiescent c then refuse s
    else modClu c (fun x => { x with
      tmData := Mem.read 0 x.tile x.tma 64, tmPois := x.tpois.contains (x.tma / 64) }) (debugAct 1 1 c 0x44 v s).1

/-- Whether START of BOOT_PCTL is refused (R435, R438, R439). -/
def startRefused (op a : Nat) (s : State) : Bool :=
  let n := if op = 3 then 2 ^ 22 else 512
  s.boot.op.isSome ||
  s.nvm.flights.any (fun f => f.sqid == 0 && f.opc == 0x10 && f.phase == .executing) ||
  decide (a < 0x0A000000 ∧ 0x08000000 < a + n) ||
  (op == 3 && a % 2 ^ 22 != 0) || s.boot.locked a n

/-- BOOT_PCTL (R439, R491). -/
def writePctl (v : Nat) (s : State) : State :=
  if s.sec.debug < 2 then
    (debugAct 2 4 0 0x24 v s).1.modBoot fun b => { b with denied := true }
  else
    let op := bits v 1 0
    let s := s.modBoot fun b => { b with pop := op }
    if !(bit v 8 && bits v 31 16 == 0x5047) || op == 0 then s
    else if startRefused op s.boot.paddr s then s.modBoot fun b => { b with refused := true }
    else (debugAct 2 4 0 0x24 v s).1.modBoot fun b => { b with op := some ⟨op, b.paddr, if op = 3 then [] else b.pbuf⟩ }

/-- The bits of a W1C field that stand after a write. -/
def w1c (old : Bool) (v n : Nat) : Bool := old && !bit v n

/-- BOOT (Table 16.10). -/
def writeBoot (off v : Nat) (s : State) : State :=
  match off with
  | 0x08 => if bits v 31 16 = 0x4352 ∧ bit v 0 then controllerReset 3 s else s
  | 0x20 => s.modBoot fun b => { b with paddr := bits v 27 9 * 512 }
  | 0x24 => writePctl v s
  | 0x28 => s.modBoot fun b => { b with
      rcoll := w1c b.rcoll v 4, denied := w1c b.denied v 3, refused := w1c b.refused v 2, fail := w1c b.fail v 1 }
  | 0x2C => s.modBoot fun b => { b with raddr := bits v 27 9 * 512 }
  | _ =>
    if 0x400 ≤ off ∧ off < 0x600 ∧ off % 4 = 0 then
      s.modBoot fun b => { b with pbuf := b.pbuf.take (off - 0x400) ++ leBytes 4 v ++ b.pbuf.drop (off - 0x400 + 4) }
    else s

/-- CLU of a cluster (Tables 7.9, 7.12, 7.13 and 9.10). -/
def writeClu (c off v : Nat) (s : State) : State :=
  match off with
  | 0x08 => writeCluCtl c v s
  | 0x40 => modClu c (fun x => { x with tma := bits v 23 6 * 64 }) s
  | 0x44 => writeTmctl c v s
  | 0x10C => modClu c (fun x => { x with tf := { x.tf with valid := w1c x.tf.valid v 31 } }) s
  | 0x404 => modClu c (fun x => { x with ar := { x.ar with undevt := bits v 31 16, satevt := bits v 15 0 } }) s
  | 0x408 => modClu c (fun x => { x with ar := { x.ar with
      astat := b2n (w1c (bit x.ar.astat 2) v 2) * 4 + b2n (w1c (bit x.ar.astat 1) v 1) * 2 + b2n (w1c (bit x.ar.astat 0) v 0) } }) s
  | _ => s

/-- SYNC of an object (R216, Table 7.14): VALUE only while its cluster has no job context. -/
def writeSync (n off v : Nat) (s : State) : State :=
  match off with
  | 0x0 => if (s.clu (n / 128)).run then s else modClu (n / 128) (Clu.modObj (n % 128) fun o => { o with value := v }) s
  | 0x4 => modClu (n / 128) (Clu.modObj (n % 128) fun o => { o with ovf := w1c o.ovf v 0 }) s
  | _ => s

/-- Write a register of a block: only fields that can be written change (R11, R13). -/
def writeReg (b : Block) (off v : Nat) (s : State) : State :=
  match b, off with
  | .gen, 0x0C => s.modGen fun g => { g with attn := bit v 0 }
  | .cad, 0x20 => s.modCad fun c => { c with
      vstat := b2n (w1c (bit c.vstat 3) v 3) * 8 + b2n (w1c (bit c.vstat 2) v 2) * 4 + b2n (w1c (bit c.vstat 1) v 1) * 2 +
        b2n (w1c (bit c.vstat 0) v 0) }
  | .cis, 0x0C => if bit v 0 then startTest (List.range 9) true true none s else s
  | .boot, off => writeBoot off v s
  | .ras, 0x04 => writeRasCtl v s
  | .ras, 0x48 => writeInj v s
  | .med, 0x04 => writeMedCtl v s
  | .med, 0x40 => checkHealth (s.modMedia fun m => { m with latThr := bits v 31 16, deepThr := bits v 15 0 })
  | .clu c, off => writeClu c off v s
  | .sync n, off => writeSync n off v s
  | _, _ => s

/-- A BAR2 write (R12, R511): any but an aligned one of 32 bits is discarded, and so is one that reaches no block. -/
def busWrite (a v size : Nat) (s : State) : State :=
  if size != 4 || a % 4 != 0 then s
  else match blockOf a with
    | none => s
    | some (b, off) => if s.reaches b then writeReg b off (v % 2 ^ 32) s else s

end Sys2Proof.Machine
end

