-- ==== Sys2Proof/Machine/Logs.lean ====
section
/-! DEFINITION. Identify and the log pages (R4, R36 to R38, R54, R70 to R76, R288, R314, R360, R385, R415, R416, R427, R451, R470, R514,
R519). The positions of the fields of the NVMe standard's own structures are PRESUMED (log 27); their fields that the spec does not
restate are free (`Config.standardByte`). -/

namespace Sys2Proof.Machine

/-- A structure whose bytes are free but for the fields given: offset and bytes, later ones on top. -/
def overlay (page n : Nat) (fs : List (Nat × List Byte)) : List Byte :=
  fs.foldl (fun (b : List Byte) f => b.take f.1 ++ f.2 ++ b.drop (f.1 + f.2.length)) ((List.range n).map (Config.standardByte page))

/-- ASCII text padded with spaces to `n` bytes. -/
def ascii (t : String) (n : Nat) : List Byte :=
  let b := t.toList.map fun c => BitVec.ofNat 8 c.toNat
  (b ++ List.replicate n 0x20).take n

/-- A text field of the sled's own: printable ASCII, padded with spaces (R38). -/
def textField (l : List (Fin 95)) (n : Nat) : List Byte :=
  ((l.map fun (x : Fin 95) => BitVec.ofNat 8 (x.val + 0x20)) ++ List.replicate n 0x20).take n

/-- FR: the revision of the image that runs, the one in the slot (R38, R65). -/
def State.runningRevision (s : State) : List Byte := textField (Config.firmwareRevision (s.boot.bytesAt 0 1024)) 8

/-- The capability register CAP, and CRTO.CRWMT (Table 2.3, R37). -/
def capReg : Nat :=
  0x0FFF + 1 * 2 ^ 16 + 1 * 2 ^ 17 + 0xFF * 2 ^ 24 + 1 * 2 ^ 36 + 1 * 2 ^ 37 + 0 * 2 ^ 48 + 4 * 2 ^ 52 + 1 * 2 ^ 59
def crwmt : Nat := 1200

/-- Limits of a power state (Table 2.6): watts, arithmetic clock in MHz, dies, Reservoir cap in GB/s on the D1024, ENLAT, EXLAT, excursion
ceiling in W (Table 19.6). -/
def psRow (p : Nat) : Nat × Nat × Nat × Nat × Nat × Nat × Nat :=
  match p with
  | 0 => (950, 1800, 1024, 24000, 48000, 48000, 1100)
  | 1 => (600, 1200, 512, 16000, 48000, 48000, 750)
  | 2 => (350, 600, 256, 8000, 48000, 48000, 500)
  | 3 => (60, 0, 0, 0, 10000, 130000, 60)
  | _ => (25, 0, 0, 0, 1500000, 342000, 25)

/-- A power state descriptor (R53, R54): MP in 0.01 W, FFFFh for PS0; NOPS; latencies; ACTP in 0.1 W. -/
def psDesc (p : Nat) : List (Nat × List Byte) :=
  let r := psRow p
  let at_ := 2048 + 32 * p
  [(at_, leBytes 2 (if p = 0 then 0xFFFF else r.1 * 100)), (at_ + 3, [if 3 ≤ p then 2 else 0]), (at_ + 4, leBytes 4 r.2.2.2.2.1),
   (at_ + 8, leBytes 4 r.2.2.2.2.2.1), (at_ + 20, leBytes 2 (r.1 * 10))]

/-- Identify Controller (R4, Table 2.4, R519). -/
def identifyController (s : State) : List Byte :=
  let cap := s.variant.exportedBlocks * 4096
  let used := sumOf (s.nss.map (·.size)) * 4096
  overlay 0x101 4096 ([
    (4, textField Config.serialNumber 20),
    (24, ascii (match s.variant with | .d1024 => "KS9-D1024" | .d512 => "KS9-D512") 40),
    (64, if s.boot.phase == .trickle then ascii "TRICKLE" 8 else s.runningRevision),
    (77, [9]), (78, leBytes 2 1), (128, zeros 6), (256, leBytes 2 0x5E), (258, [15, 7, 2]), (262, [63, 4]), (265, [0]),
    (266, leBytes 2 358 ++ leBytes 2 368), (272, zeros 8), (280, leBytes 16 cap), (296, leBytes 16 (cap - used)),
    (316, leBytes 2 90 ++ [1, 1]), (328, leBytes 4 3), (512, [0x66, 0x44]), (516, leBytes 4 128), (520, leBytes 2 0x5C),
    (522, zeros 2), (525, [0]), (526, leBytes 2 15 ++ leBytes 2 15), (531, [0]), (536, leBytes 4 1)] ++ (List.range 5).flatMap psDesc)

/-- Identify Namespace (R71, R123, R359, R519): 4,096-byte blocks, frames written whole, no thin provisioning, write protected when the media is read-only; without
a namespace, zeros but for the format. -/
def identifyNamespace (n : Option Ns) (s : State) : List Byte :=
  let size := match n with | some n => n.size | none => 0
  overlay 0x100 4096 [
    (0, leBytes 8 size ++ leBytes 8 size), (24, [Config.standardByte 0x100 24 &&& 0xFE ||| 2, 0, 0, 0, 0, 0]),
    (34, leBytes 2 15 ++ leBytes 2 15), (40, leBytes 2 15 ++ leBytes 2 0 ++ leBytes 2 15), (99, [if s.media.readOnly then 1 else 0]),
    (128, [0, 0, 12])]

/-- A list of namespace identifiers above one, and a controller list (the standard's forms, log 27). -/
def nsList (above : Nat) (l : List Nat) : List Byte :=
  slice ((sortBy id (l.filter fun i => decide (above < i))).flatMap (leBytes 4)) 0 4096
def controllerListOf (yes : Bool) (from_ : Nat) : List Byte :=
  slice (if yes && decide (from_ ≤ 1) then leBytes 2 1 ++ leBytes 2 1 else []) 0 4096

/-- Identify (R38, R72): the structure that CNS selects. -/
def effIdentify (c : Cmd) (s : State) : State :=
  let cns := bits c.cdw10.toNat 7 0
  let from_ := bits c.cdw10.toNat 31 16
  let give := fun (b : List Byte) => ok c (hostData c.sqid c.cid 0 b s)
  let one := s.nss.find? fun n => n.id == c.nsid
  let visible := match one with | some n => n.attached | none => false
  match cns with
  | 0x00 => if c.nsid = 0xFFFFFFFF then give (identifyNamespace none s)
      else if c.nsid = 0 ∨ 128 < c.nsid then done c .invalidNamespace s
      else if visible then give (identifyNamespace one s) else give (zeros 4096)
  | 0x01 => give (identifyController s)
  | 0x02 => if 0xFFFFFFFE ≤ c.nsid then done c .invalidNamespace s else give (nsList c.nsid ((s.nss.filter (·.attached)).map (·.id)))
  | 0x03 => if visible then give (overlay 0x103 4096 []) else done c .invalidNamespace s
  | 0x10 => if 0xFFFFFFFE ≤ c.nsid then done c .invalidNamespace s else give (nsList c.nsid (s.nss.map (·.id)))
  | 0x11 => if one.isSome then give (identifyNamespace one s) else done c .invalidNamespace s
  | 0x12 => if one.isSome then give (controllerListOf visible from_) else done c .invalidNamespace s
  | 0x13 => give (controllerListOf true from_)
  | _ => badField c s

/-- Page 01h (R74): the latest 64 errors; the record's ring index in the vendor's byte of an entry. The bytes on which the spec is silent
are free (log 27). -/
def errorPage (s : State) : List Byte :=
  let free := fun (i lo hi : Nat) => (List.range (hi - lo)).map fun k => Config.standardByte 1 (64 * i + lo + k)
  let ent := fun (e : ErrInfo) (i : Nat) => leBytes 8 e.count ++ leBytes 2 e.sqid ++ leBytes 2 e.cid ++
    leBytes 2 (2 * (e.status.code + (if e.record.isSome then 0x2000 else 0) + (if e.status.dnr then 0x4000 else 0))) ++ free i 14 24 ++
    leBytes 4 e.nsid ++ leBytes 1 (e.record.getD 0) ++ free i 29 64
  slice (s.nvm.errLog.zipIdx.flatMap fun x => ent x.1 x.2) 0 4096

/-- Page 02h (R357, R358, R410, R454). -/
def smartPage (s : State) : List Byte :=
  overlay 2 512 [
    (0, leBytes 1 s.criticalWarning ++ leBytes 2 s.composite ++ leBytes 1 s.avSpare ++ [10] ++ leBytes 1 s.pctUsed),
    (176, leBytes 16 s.nvm.errCount)]

/-- Page 03h (R65): one slot, which is active; it is activated anew at the next reset when an image is pending. -/
def slotPage (s : State) : List Byte :=
  slice ([if s.boot.marker then 0x11 else 0x01] ++ zeros 7 ++ s.runningRevision) 0 512

/-- Page 06h (R61): the running test and the latest 20 results. -/
def selfTestPage (s : State) : List Byte :=
  let ent := fun (r : TestResult) => slice ([BitVec.ofNat 8 (r.code * 16 + r.result), BitVec.ofNat 8 r.segment, 0, 0] ++ leBytes 8 r.hours) 0 28
  let cur := match s.mgmt.test with
    | some t =>
      let all := sumOf ((List.range (lastSegment t.code + 1)).map fun k => if k = 0 then 0 else s.segUnits k)
      [BitVec.ofNat 8 t.code, BitVec.ofNat 8 (t.done.length * 100 / all)]
    | none => [0, 0]
  let empty := [0x0F] ++ zeros 27
  cur ++ zeros 2 ++ s.mgmt.testLog.flatMap ent ++ (List.replicate (20 - s.mgmt.testLog.length) empty).flatten

/-- Page 81h (R70): a sanitize in progress, the last status, and the estimates of 5 minutes and 10 seconds. The progress field always reads
FFFFh: the spec gives the sled no measure of it; see log 110 (DESIGN CHOICE). -/
def sanitizePage (s : State) : List Byte :=
  slice (leBytes 2 0xFFFF ++ leBytes 2 (if s.mgmt.sanitize.isSome then 2 else s.mgmt.sanStatus % 65536) ++
    leBytes 4 (match s.mgmt.sanitize with | some a => a | none => s.mgmt.sanStatus / 65536) ++
    leBytes 4 0xFFFFFFFF ++ leBytes 4 300 ++ leBytes 4 10) 0 512

/-- C0h (Table 14.7). -/
def cadencePage (s : State) : List Byte :=
  let c := s.cad
  let p := s.pwr
  let caps := match s.variant with | .d1024 => 1 | .d512 => 2
  let row := fun i =>
    let r := psRow i
    leBytes 4 (r.1 * 10) ++ leBytes 2 r.2.1 ++ leBytes 2 r.2.2.1 ++ leBytes 4 (r.2.2.2.1 / caps) ++ leBytes 4 (r.2.2.2.2.2.2 * 10)
  slice (leBytes 2 1 ++ leBytes 1 c.src ++ leBytes 1 s.cfg.conf.slot ++ leBytes 4 (c.tracked * 10) ++ leBytes 8 c.frames ++ leBytes 4 c.viol ++
    leBytes 4 c.loss ++ leBytes 4 c.surr ++ leBytes 4 c.reacq ++ leBytes 4 p.stagMax ++ zeros 4 ++ leBytes 8 p.stagSum ++
    leBytes 2 (s.drawD / 10) ++ leBytes 2 s.ceiling ++ leBytes 2 p.vin ++ leBytes 2 p.pin1 ++ leBytes 4 p.exc ++ leBytes 4 p.trims ++
    leBytes 4 p.ploss ++ leBytes 4 p.thrtl ++ leBytes 4 p.tshut ++ leBytes 1 (b2n c.noacq) ++ zeros 3 ++
    ((List.range 7).flatMap fun i => leBytes 2 (s16 (p.temps.getD i 0))) ++ zeros 2 ++ (List.range 5).flatMap row) 0 256

/-- C1h (Table 14.8). -/
def cisternPage (s : State) : List Byte :=
  let c := s.cis
  let str := fun (x : CString) => leBytes 2 x.cap ++ leBytes 2 x.esr ++ leBytes 2 x.esr0 ++ leBytes 2 x.energy ++ leBytes 1 x.st ++ zeros 7
  slice (leBytes 2 1 ++ leBytes 2 (stringMask s 0) ++ leBytes 2 (stringMask s 3) ++ leBytes 1 c.allow ++ leBytes 1 s.cfg.conf.allowcap ++
    leBytes 2 (c.eMeas / 1000) ++ leBytes 2 (c.ePres / 1000) ++ leBytes 2 (mib s.held) ++ leBytes 2 (s16 c.temp) ++
    leBytes 4 ((s.now - c.lastTest) / 60000000) ++ leBytes 4 c.dumps ++ leBytes 4 c.dumpInc ++ leBytes 4 c.lastDump ++ leBytes 2 c.dumpJ ++
    zeros 30 ++ c.strings.flatMap str) 0 256

/-- C2h (Table 16.9). -/
def ledgerPage (s : State) : List Byte :=
  let b := s.boot
  let ent := fun (e : StartEntry) => leBytes 4 e.start ++ leBytes 1 e.kind ++ leBytes 1 e.outcome ++ leBytes 1 e.cause ++ leBytes 1 e.milestone ++
    leBytes 2 e.limit ++ leBytes 4 e.elapsed ++ slice e.imgId 0 8 ++ leBytes 2 e.err ++ zeros 8
  slice (leBytes 2 1 ++ leBytes 1 (b2n (b.phase == .trickle)) ++ leBytes 1 b.fails ++ leBytes 1 b.tcause ++ leBytes 1 b.lastStop ++
    leBytes 2 b.entries.length ++ leBytes 8 b.starts ++ leBytes 8 b.failTotal ++ leBytes 8 b.jgap ++ zeros 32 ++ b.entries.flatMap ent) 0 1088

/-- C3h (Table 17.5). -/
def recordPage (s : State) : List Byte :=
  let r := s.ras
  let slot := fun k => match r.ring.find? fun e => e.slot == k with | some e => e.bytes | none => zeros 64
  leBytes 2 1 ++ leBytes 2 r.ring.length ++ leBytes 1 r.head ++ leBytes 1 r.hdepth ++ zeros 2 ++ leBytes 8 s.lastSeq ++
    ((List.range 4).flatMap fun c => leBytes 8 (r.cnt.getD c 0)) ++ leBytes 4 r.nested ++ leBytes 4 r.escal ++ leBytes 4 r.promise ++
    zeros 4 ++ (List.range 256).flatMap slot

/-- The write amplification of the last 24 hours, times 1,000 (Table 12.6). -/
def State.waf (s : State) : Nat :=
  let l := s.media.waf.filter fun x => decide (s.now < x.1 + 86400000000)
  let h := sumOf (l.map (·.2.1))
  if h = 0 then 0 else sumOf (l.map (·.2.2)) * 1000 / h

/-- C4h (Table 12.6). -/
def mediaPage (s : State) : List Byte :=
  let m := s.media
  let chan := fun k =>
    let st := (m.chans.find? fun x => x.ch == k).getD ⟨k, 0, 0⟩
    leBytes 2 (s.dieMap k) ++ zeros 2 ++ leBytes 4 (m.retired.filter fun r => r.ch == k).length ++ leBytes 8 st.stepSum ++ leBytes 8 st.reads ++
      zeros 8
  let reb := if m.rebuilding.isEmpty then [0] else [Config.standardByte 0xC4 0x2C]
  leBytes 2 1 ++ leBytes 1 (if m.readOnly then 2 else if m.rebuilding.isEmpty then 0 else 1) ++
    leBytes 1 (b2n m.ageUnk + 2 * b2n m.scrubEn + 4 * b2n (decide (100 < s.pctUsed))) ++ leBytes 1 s.pctUsed ++ leBytes 1 s.avSpare ++ [10, 0] ++
    leBytes 4 s.wearMean ++ leBytes 4 s.wearMax ++ leBytes 8 (Variant.spareInit s.variant) ++ leBytes 8 s.spareLeft ++ leBytes 8 m.retired.length ++
    leBytes 2 m.failed.length ++ leBytes 2 m.rebuilding.length ++ reb ++ zeros 3 ++ leBytes 8 s.badUnits ++ leBytes 4 (s.slcTarget / 1024) ++
    leBytes 4 (s.slcHeld / 1024) ++ leBytes 4 s.fill ++ leBytes 4 (m.pages.length / 64) ++ leBytes 8 m.hitAll ++ leBytes 8 m.missAll ++
    leBytes 4 s.waf ++ zeros 4 ++ leBytes 8 m.hostW ++ leBytes 8 m.mediaW ++ leBytes 8 m.refreshed ++ leBytes 4 s.scrubAge ++ zeros 4 ++
    ((List.range 9).flatMap fun k => leBytes 8 (m.hist.getD k 0)) ++ leBytes 8 m.lost ++
    ([5000, 9900, 9990, 9999].flatMap fun p => leBytes 4 (s.latencyAt p)) ++ zeros 288 ++ (List.range 128).flatMap chan

/-- STATE of a partition (Table 10.7). -/
def State.partState (s : State) (p : Nat) : Nat :=
  let x := s.part p
  if !s.present p then 0
  else if x.resetting then 4
  else if (s.clustersOf p).isEmpty then 5
  else if x.batch.isSome then 3
  else if x.run.isSome then 2
  else 1

/-- RUNNING of a partition (Table 10.7). -/
def State.runningOf (s : State) (p : Nat) : Nat :=
  let x := s.part p
  match x.run, x.batch with
  | some r, _ => match r.job.kind with | .fan _ _ => 0xFFFFFFFE | _ => r.job.sqid * 65536 + r.job.cid % 65536
  | none, some b => match b.members.head? with | some m => m.job.sqid * 65536 + m.job.cid % 65536 | none => 0xFFFFFFFF
  | none, none => 0xFFFFFFFF

/-- The entry of a partition (Tables 10.7 and 10.8). -/
def partEntry (s : State) (p : Nat) : List Byte :=
  let x := s.part p
  let c := x.cnt
  let bound := match x.run, x.batch with | some r, _ => r.bound | none, some b => b.limit * 4 / 5 | none, none => 0
  let q := fun i =>
    let k := s.cfg.conf.queues.getD (16 * p + i) (false, 0)
    leBytes 1 (b2n k.1) ++ leBytes 1 k.2 ++ zeros 2 ++ leBytes 4 (x.queues.getD i []).length ++
      leBytes 8 ((x.deficit.getD i 0) % 2 ^ 64).toNat ++ leBytes 8 (x.dispatched.getD i 0) ++ leBytes 8 (x.charged.getD i 0)
  if !s.present p then zeros 640
  else leBytes 4 (s.cfg.conf.clusters.getD p 0) ++ leBytes 2 (s.cfg.conf.share.getD p 0) ++ leBytes 1 (s.partState p) ++ zeros 1 ++ leBytes 8 c.jobs ++
    leBytes 8 c.busy ++ leBytes 4 (s.runningOf p) ++ zeros 4 ++ leBytes 8 bound ++ leBytes 8 c.teardowns ++ leBytes 8 c.watchdog ++ leBytes 8 c.dlAdmit ++
    leBytes 8 c.dlRefused ++ leBytes 8 c.deferred ++ leBytes 4 c.maxDefer ++ leBytes 4 c.presets ++ leBytes 8 c.joinDefer ++ leBytes 8 c.trunc ++
    leBytes 8 c.loadWait ++ zeros 16 ++ (List.range 16).flatMap q

/-- The hot set, most recent use first, loads last (Table 10.9). -/
def hotEntries (s : State) : List Byte :=
  let l := (sortBy (fun h => 2 ^ 64 - h.lastUse) (s.store.hot.filter fun h => !h.loading)) ++ s.store.hot.filter (·.loading)
  l.flatMap fun h => leBytes 4 h.id ++ leBytes 1 (b2n (s.pinned h.id) + 2 * b2n h.loading + 4 * b2n (h.inUse != 0)) ++ zeros 3 ++ leBytes 8 h.bytes ++
    leBytes 8 h.lastUse ++ leBytes 8 h.uses

/-- C5h (Table 10.6). -/
def partsPage (s : State) : List Byte :=
  let map := fun c =>
    if s.variant.clusters ≤ c then 0x80
    else
      let p := s.partOfClu c
      p.getD 0 + 64 * b2n (s.clu c).lost + 128 * b2n p.isNone
  let spares := b2n (s.clus.any fun x => x.spare && x.die == 0) + b2n (s.clus.any fun x => x.spare && x.die == 1)
  slice (leBytes 2 1 ++ leBytes 1 ((List.range 8).filter s.present).length ++ leBytes 1 (s.store.hot.filter fun h => !h.loading).length ++ zeros 4 ++
    leBytes 8 s.presets ++ leBytes 1 spares ++ leBytes 1 (s.clus.filter (·.lost)).length ++ zeros 14 ++
    ((List.range 32).flatMap fun c => leBytes 1 (map c)) ++ ((List.range 8).flatMap (partEntry s)) ++ hotEntries s) 0 7232

/-- The entry of a port (Table 13.12). -/
def portEntry (s : State) (n : Nat) : List Byte :=
  let p := s.port n
  if s.variant.ports ≤ n then zeros 128
  else slice (leBytes 4 (lnkReg s n 0) ++ leBytes 4 (lnkReg s n 4) ++ leBytes 8 (maskOf p.lanes) ++ leBytes 4 p.swaps ++ leBytes 4 p.trainFail ++
    leBytes 8 p.fecCorr ++ leBytes 4 p.fecUnc ++ leBytes 4 p.retry ++ leBytes 8 p.tx ++ leBytes 8 p.rx) 0 128

/-- C6h (Table 13.12). -/
def linksPage (s : State) : List Byte :=
  let l := s.lnk
  slice (leBytes 2 1 ++ leBytes 2 s.cfg.conf.devnum ++ leBytes 4 s.cfg.conf.rtmo ++ leBytes 8 s.cfg.conf.sysid ++ leBytes 2 l.peers.length ++
    leBytes 2 (l.peers.filter (·.lost)).length ++ leBytes 2 (min l.lostLog.length 256) ++ zeros 2 ++
    ([l.retx, l.failover, l.dup, l.drop, l.timeout, l.unreach, l.wake].flatMap (leBytes 4)) ++ zeros 4 ++ zeros 8 ++
    ((List.range 4).flatMap (portEntry s)) ++ (l.lostLog.take 256).flatMap fun x => leBytes 8 (x.1 % 2 ^ 14 + x.2 % 2 ^ 48 * 65536)) 0 2624

/-- C7h (Table 9.11). -/
def arithPage (s : State) : List Byte :=
  let xs := s.clus.take s.variant.clusters
  let sum := fun (f : Arith → Nat) => sumOf (xs.map fun x => f x.ar)
  let five := [fun (a : Arith) => a.satTile, fun a => a.satElem, fun a => a.undTile, fun a => a.replay, fun a => a.qTile]
  let clu := fun (x : Clu) => (five.flatMap fun f => leBytes 8 (f x.ar)) ++ leBytes 4 x.ar.accSat ++ leBytes 4 x.ar.resFail ++
    leBytes 1 (128 * b2n (x.afailed != 31) + x.afailed % 32) ++ zeros 15
  let tens := fun t => leBytes 8 (sumOf (xs.map fun x => tensorCnt x.ar.tsat t)) ++ leBytes 8 (sumOf (xs.map fun x => tensorCnt x.ar.tund t))
  leBytes 2 1 ++ leBytes 2 s.variant.clusters ++ zeros 4 ++ (five.flatMap fun f => leBytes 8 (sum f)) ++ leBytes 4 (sum (·.accSat)) ++
    leBytes 4 (sum (·.resFail)) ++ zeros 8 ++ xs.flatMap clu ++ zeros (64 * (32 - xs.length)) ++ (List.range 64).flatMap tens

/-- A log page (Tables 2.13 and 20.3): none for a page that the sled does not support. In Trickle mode only 01h, 03h, C2h and C3h are
served. -/
def logPage (id : Nat) (s : State) : Option (List Byte) :=
  if s.boot.phase == .trickle && !([0x01, 0x03, 0xC2, 0xC3].contains id) then none
  else match id with
  | 0x01 => some (errorPage s)
  | 0x02 => some (smartPage s)
  | 0x03 => some (slotPage s)
  | 0x05 => some (overlay 5 4096 [])
  | 0x06 => some (selfTestPage s)
  | 0x07 => some (overlay 7 512 [(0, [0x07])])
  | 0x08 => some (overlay 8 512 [(0, [0x08])])
  | 0x0D => some (overlay 0xD 512 [(0, [0x0D])])
  | 0x81 => some (sanitizePage s)
  | 0xC0 => some (cadencePage s)
  | 0xC1 => some (cisternPage s)
  | 0xC2 => some (ledgerPage s)
  | 0xC3 => some (recordPage s)
  | 0xC4 => some (mediaPage s)
  | 0xC5 => some (partsPage s)
  | 0xC6 => some (linksPage s)
  | 0xC7 => some (arithPage s)
  | 0xC8 => some (checkPage s)
  | _ => none

/-- Get Log Page (R75, R514): one snapshot; bytes past the end of the page read as zero; a read that starts beyond its last byte is
refused; with Retain Asynchronous Event clear the page's event is no longer masked. -/
def effLogPage (c : Cmd) (s : State) : State :=
  let id := bits c.cdw10.toNat 7 0
  let n := (bits c.cdw10.toNat 31 16 + bits c.cdw11.toNat 15 0 * 65536 + 1) * 4
  let off := c.cdw12.toNat + c.cdw13.toNat * 2 ^ 32
  match logPage id s with
  | none => done c (if s.boot.phase == .trickle then .trickle else .invalidLogPage) s
  | some b =>
    if off % 4 != 0 || decide (b.length ≤ off) then badField c s
    else
      let s := hostData c.sqid c.cid 0 (slice b off n) s
      ok c (if bit c.cdw10.toNat 15 then s else unmask id s)

end Sys2Proof.Machine
end

