-- ==== Sys2Proof/Machine/Models.lean ====
section
/-! DEFINITION. The model store: Model Install, Model Remove, Program Install (R299 to R304, R489, R490). -/

namespace Sys2Proof.Machine

/-- Whether an image has a well-formed header (Table 8.18), of the length that its parts need. `tail` is the length of its
signature block. -/
def imageForm (kinds : List Nat) (b : List Byte) (tail : Nat) : Bool :=
  field b 0 4 == 0x474D494B && field b 4 1 == 1 && kinds.contains (imgKind b) && decide (imgUnit b ≤ 2) &&
    decide (field b 7 1 < 2) && decide (imgLen b ≤ 0x40000) && decide (imgDmLen b ≤ 0xFE00) && zeroAt b 0x1C 4 && zeroAt b 0x28 8 &&
    ((List.range 12).all fun r => zeroAt b (0x38 + 16 * r) 8) && decide (imgHead + imgLen b + imgDmLen b + tail ≤ b.length)

/-- Whether a program or scan program is well formed (R258, R489): header, content, data, signature block. -/
def programForm (b : List Byte) : Bool :=
  match sigBlock b with
  | none => false
  | some (at_, n) => imageForm [0, 1] b (16 + 192 * n) && at_ == imgHead + imgLen b + imgDmLen b

/-- Whether a model package is well formed (Table 10.3, R301, R489). -/
def packageForm (b : List Byte) : Bool :=
  let o : Stored := ⟨0, true, b, false⟩
  let kind := field b 5 1
  let nimg := field b 6 1
  let reg := field b 0x1C 4
  (sigBlock b).isSome && field b 0 4 == 0x4C444D4B && field b 4 1 == 1 && decide (kind ≤ 1) && decide (1 ≤ nimg ∧ nimg ≤ 8) &&
    (if kind == 1 then decide (1 ≤ pkgNout o ∧ pkgNout o ≤ 16) && pkgDim o == 0
      else pkgNout o == 0 && decide (64 ≤ pkgDim o ∧ pkgDim o ≤ 8192)) &&
    zeroAt b 0xA 2 && zeroAt b 0x38 8 && reg % 65536 == 0 && decide (reg ≤ 2 ^ 24) && decide (field b 0x30 8 ≤ 2 ^ 36) &&
    decide (seqUnits o (pkgMaxTok o) * 65536 ≤ reg) &&
    (List.range nimg).all fun i =>
      let at_ := field b (0x40 + 16 * i) 8
      let n := field b (0x48 + 16 * i) 8
      decide (at_ + n ≤ b.length) && imageForm [2] (slice b at_ n) 0

/-- Whether the store would exceed its limits with an object of `n` bytes under `id` (R299). -/
def storeFull (s : State) (id n : Nat) : Bool :=
  let rest := s.store.objs.filter fun o => o.id != id
  decide (1024 ≤ rest.length ∨ 1536 * 2 ^ 30 < sumOf (rest.map (·.bytes.length)) + n)

/-- Whether a PIN exceeds the limits of R304. -/
def pinFull (s : State) (id n : Nat) : Bool :=
  let rest := s.store.objs.filter fun o => o.id != id && o.model && o.pin
  decide (8 ≤ rest.length ∨ s.variant.pinnedMiB * 2 ^ 20 < sumOf (rest.map (·.bytes.length)) + n)

/-- Put an object into the store in place of any under its identifier, and extend MEAS3 (R301, R302, R482). -/
def storeObject (o : Stored) (s : State) : State :=
  let s := if o.model then orphanModel o.id s else s
  extendMeas 3 (shake256 o.bytes) (s.modStore fun t => { t with
    objs := sortBy (·.id) ((t.objs.filter fun x => x.id != o.id) ++ [o]), lost := t.lost.filter fun x => x.1 != o.id })

/-- An installation under an identifier ends. -/
def endInstall (id : Nat) (s : State) : State :=
  s.modStore fun t => { t with installing := t.installing.filter (· != id), staged := t.staged.filter fun x => x.id != id }

/-- The bytes of a package from its pieces: none while one is missing. -/
def assemble (len : Nat) (pieces : List (Nat × List Byte)) : Option (List Byte) :=
  let l := sortBy (·.1) pieces
  let b := l.flatMap (·.2)
  if b.length = len then some b else none

/-- The last piece of a package is stored (R301): the package is checked, and stored or refused. -/
def finishInstall (c : Cmd) (id : Nat) (st : StagedModel) (s : State) : State :=
  let pin := bit c.cdw13.toNat 2
  match assemble st.len st.pieces with
  | none => badDword 13 c (endInstall id s)
  | some b =>
    if !packageForm b then badDword 13 c (endInstall id s)
    else if storeFull s id b.length then badDword 10 c (endInstall id s)
    else if pin && pinFull s id b.length then badDword 13 c (endInstall id s)
    else if !signatureOk s.sec b then
      done c .accessDenied (endInstall id (s.modSec fun x => { x with denied := sat32 x.denied }))
    else
      let s := storeObject ⟨id, true, b, pin⟩ (s.modStore fun t => { t with staged := t.staged.filter fun x => x.id != id })
      if !pin then ok c (endInstall id s)
      else match startLoad id s with
        | some s => setPhase c.sqid c.cid .executing s
        | none => done c .poolExhausted (endInstall id (exhausted s))

/-- Model Install (Table 10.2, R301). -/
def effModelInstall (c : Cmd) (s : State) : State :=
  let id := c.cdw10.toNat
  let off := c.cdw11.toNat * 4096
  let n := c.cdw12.toNat * 4096
  let fl := c.cdw13.toNat
  let first := bit fl 0
  let old := s.store.staged.find? fun x => x.id == id
  let other := match s.stored? id with | some o => !o.model | none => false
  match firstBad [
      (id != 0 && !other, Bad.dword 10), (decide (1 ≤ c.cdw12.toNat ∧ c.cdw12.toNat ≤ 512), .dword 12), (decide (fl < 8), .dword 13),
      (!first || c.cdw14 != 0, .dword 14), (c.cdw15 == 0, .dword 15), (!s.media.readOnly, .status .writeProtected)] with
  | some b => failWith b c s
  | none =>
    let fresh := s.store.staged.filter fun x => x.id != id
    let start : Option StagedModel := if first then some ⟨id, c.cdw14.toNat * 4096, bit fl 2, []⟩ else old
    match start with
    | none => done c .commandSequence s
    | some st =>
      if first && decide (4 ≤ fresh.length) then done c .commandSequence s
      else
        let s := s.modStore fun t => { t with
          staged := fresh ++ [st], installing := (t.installing.filter (· != id)) ++ [id] }
        if st.pieces.any fun x => overlap off n x.1 x.2.length then done c .overlappingRange s
        else if st.len < off + n then badDword 11 c s
        else
          let st := { st with
            pieces := st.pieces ++ [(off, slice c.data 0 n)] }
          let s := s.modStore fun t => { t with staged := fresh ++ [st] }
          if bit fl 1 then finishInstall c id st s else ok c s

/-- Program Install (R301): one image of KIND 0 or 1. -/
def effProgramInstall (c : Cmd) (s : State) : State :=
  let id := c.cdw10.toNat
  let n := c.cdw11.toNat
  let other := match s.stored? id with | some o => o.model | none => false
  match firstBad [
      (id != 0 && !other && !storeFull s id n, Bad.dword 10), (decide (1 ≤ n ∧ n ≤ 2 ^ 21), .dword 11), (c.cdw12 == 0, .dword 12),
      (c.cdw13 == 0, .dword 13), (c.cdw14 == 0, .dword 14), (c.cdw15 == 0, .dword 15),
      (!s.media.readOnly, .status .writeProtected), (programForm (slice c.data 0 n), .dword 13)] with
  | some b => failWith b c s
  | none =>
    let b := slice c.data 0 n
    if !signatureOk s.sec b then done c .accessDenied (s.modSec fun x => { x with denied := sat32 x.denied })
    else ok c (storeObject ⟨id, false, b, false⟩ s)

/-- Model Remove (R302): it completes at once. -/
def effModelRemove (c : Cmd) (s : State) : State :=
  let id := c.cdw10.toNat
  match firstBad [
      ((s.stored? id).isSome, Bad.dword 10), (c.cdw11 == 0, .dword 11), (c.cdw12 == 0, .dword 12), (c.cdw13 == 0, .dword 13),
      (c.cdw14 == 0, .dword 14), (c.cdw15 == 0, .dword 15)] with
  | some b => failWith b c s
  | none =>
    let s := orphanModel id s
    ok c (extendMeas 3 (shake256 (leBytes 4 id)) (s.modStore fun t => { t with
      objs := t.objs.filter fun o => o.id != id, loadQ := t.loadQ.filter (· != id), lost := t.lost.filter fun x => x.1 != id }))

end Sys2Proof.Machine
end

