-- ==== Sys2Proof/Machine/Manage.lean ====
section
/-! DEFINITION. Firmware update, Sanitize, Format NVM, namespaces, the register commands, Cistern Test, Start Ledger Clear, NVMe-MI
(R64 to R72, R406, R436, R444, R449, R476, R512, R513, R519). -/

namespace Sys2Proof.Machine

/-- Firmware Image Download (R64): a piece in whole units of 4 KiB; its length and offset are counted in dwords (log 27);
see log 87 (DEDUCED). -/
def effFirmwareDownload (c : Cmd) (s : State) : State :=
  let n := (c.cdw10.toNat + 1) * 4
  let off := c.cdw11.toNat * 4
  if n % 4096 != 0 then badField c s
  else if off % 4096 != 0 then badField c s
  else if 2 ^ 26 < off + n then badField c s
  else if s.mgmt.fw.any fun p => overlap off n p.1 p.2.length then done c .overlappingRange s
  else ok c (s.modMgmt fun m => { m with fw := m.fw ++ [(off, slice c.data 0 n)] })

/-- The downloaded image: none while it is incomplete (R66). -/
def State.stagedImage (s : State) : Option (List Byte) :=
  let l := sortBy (·.1) s.mgmt.fw
  let b := l.flatMap (·.2)
  let whole := l.foldl (fun (a : Option Nat) p => match a with
    | some n => if p.1 = n then some (n + p.2.length) else none
    | none => none) (some 0)
  if whole.isSome && decide (1024 ≤ b.length ∧ field b 0x10 4 + 1024 ≤ b.length) then some b else none

/-- The pending area is erased and programmed, the marker programmed last (R436, R449). `passed` tells whether every erase and program
stayed within the limits of R436; if not, the marker is clear and the area holds what the spec leaves open. -/
def writePending (img : List Byte) (passed : Bool) (s : State) : State :=
  let s := s.modBoot fun b =>
    ((List.range 16).foldl (fun (b : Boot) k => b.erase (16 + k)) b)
  if passed then s.modBoot fun b => { b.program (2 ^ 26) img with marker := true }
  else (spoil (2 ^ 26) (2 ^ 26) s).modBoot fun b => { b with marker := false }

/-- Firmware Commit (R65, R66, R436, R442, R449). -/
def effFirmwareCommit (c : Cmd) (s : State) : State :=
  let act := bits c.cdw10.toNat 5 3
  if 1 < bits c.cdw10.toNat 2 0 then done c .invalidFwSlot s
  else if act = 2 then ok c s
  else if act ≠ 1 then badField c s
  else match s.stagedImage with
    | none => done c .invalidFwImage s
    | some b =>
      if (firmwareCheck (slice b) s.sec).isSome then done c .invalidFwImage s
      else if !c.ok then done c .internalError (writePending b false s)
      else
        let s := writePending b true s
        ok c (if s.boot.phase == .trickle then s.modBoot fun x => { x with fails := 0 } else s)

/-- Sanitize (R63, R69, R70): the command completes when the sanitize has begun, which then runs until SANITIZE_DONE. -/
def effSanitize (c : Cmd) (s : State) : State :=
  let act := bits c.cdw10.toNat 2 0
  if act = 2 ∨ act = 4 then
    let s := endSelfTest 9 0 s
    ok c (destroyAll (act == 2) (s.modMgmt fun m => { m with sanitize := some c.cdw10.toNat }))
  else badField c s

/-- The sanitize ends (R70): the log page gives the last one as completed. -/
def sanitizeOver (s : State) : State :=
  match s.mgmt.sanitize with
  | some a => s.modMgmt fun m => { m with sanitize := none, sanResume := false, sanStatus := 1 + a * 65536 }
  | none => s

/-- The contents of a namespace are gone: its collections, its indexes with their pending entries (R71, R72). -/
def destroyContents (nsid : Nat) (s : State) : State :=
  let s := (s.idxOf nsid).foldl (fun s i => removeIndex nsid i.id s) s
  match s.nss.find? fun n => n.id == nsid with
  | some n => dropUnits nsid 0 n.size s
  | none => s

/-- A new key for a namespace (R71, R493); see log 15 (DESIGN CHOICE). -/
def newKey (nsid : Nat) (s : State) : State :=
  modNs nsid (fun n => { n with keyGen := s.keyGens + 1 }) (s.modKeyGens (· + 1))

/-- Format NVM (R63, R71); see log 64 (DESIGN CHOICE). -/
def effFormat (c : Cmd) (s : State) : State :=
  let dw := c.cdw10.toNat
  let ses := bits dw 11 9
  let all := c.nsid = 0xFFFFFFFF
  if !all ∧ !(s.nss.any fun n => n.id == c.nsid && n.gone.isNone) then done c .invalidNamespace s
  else if bits dw 3 0 ≠ 0 ∨ bits dw 13 12 ≠ 0 ∨ bits dw 8 4 ≠ 0 then done c .invalidFormat s
  else if 2 < ses then badField c s
  else
    let ids := if all then s.nss.map (·.id) else [c.nsid]
    let s := endSelfTest 4 0 s
    ok c (ids.foldl (fun s i => if ses = 0 then destroyContents i s else newKey i (destroyContents i s)) s)

/-- The namespaces have changed: the Notice event Namespace Attribute Changed, where feature 0Bh enables it (R75, R76). It names log page
04h, as NVMe prescribes, though Table 2.13 does not list that page; see log 109 (DESIGN CHOICE). -/
def nsChanged (s : State) : State := if bit (s.feat 0x0B) 8 then raiseEvent 2 0 4 s else s

/-- Namespace Management, create (R493, R519): the lowest NSID that is free. -/
def nsCreate (c : Cmd) (s : State) : State :=
  let nsze := field c.data 0 8
  let ncap := field c.data 8 8
  let free := (List.range 128).find? fun i => !(s.nss.any fun n => n.id == i + 1)
  if field c.data 26 1 ≠ 0 ∨ field c.data 29 1 ≠ 0 then done c .invalidFormat s
  else if nsze = 0 ∨ nsze ≠ ncap then badField c s
  else if s.variant.exportedBlocks < sumOf (s.nss.map (·.size)) + nsze then done c .nsCapacity s
  else match free with
    | none => done c .nsIdUnavailable s
    | some i =>
      let ns : Ns := { id := i + 1, size := nsze, attached := false, keyGen := s.keyGens + 1, gone := none, mem := [] }
      doneWith c .success (i + 1) 0 ((s.modKeyGens (· + 1)).modNss (· ++ [ns]))

/-- Whether an admin command is a namespace delete or detach. -/
def endsNs (opc : Nat) (c : Cmd) : Bool := (opc == 0x0D || opc == 0x15) && bits c.cdw10.toNat 3 0 == 1

/-- At the fetch of a namespace delete or detach its namespace is closed to the commands fetched later (R72). -/
def closeNs (order : Nat) (c : Cmd) (s : State) : State :=
  s.modNss (·.map fun n =>
    if (n.id == c.nsid || c.nsid == 0xFFFFFFFF) && n.gone.isNone then { n with gone := some order } else n)

/-- A delete or detach that fails opens its namespaces again (R72). -/
def reopenNs (order : Nat) (s : State) : State :=
  s.modNss (·.map fun n => if n.gone == some order then { n with gone := none } else n)

/-- Namespace Management (R72, R519): a delete waits for the commands fetched before it that name the namespace. -/
def effNsManagement (c : Cmd) (s : State) : State :=
  let order := s.orderOf c
  match bits c.cdw10.toNat 3 0 with
  | 0 => nsCreate c s
  | 1 => if s.nss.any fun n => n.gone == some order then setPhase c.sqid c.cid .executing s else done c .invalidNamespace s
  | _ => badField c s

/-- Namespace Attachment (R72): the controller list holds exactly 0001h. -/
def effNsAttachment (c : Cmd) (s : State) : State :=
  let order := s.orderOf c
  let one := s.nss.find? fun n => n.id == c.nsid
  let list := field c.data 0 2 == 1 && field c.data 2 2 == 1
  match bits c.cdw10.toNat 3 0, one with
  | 0, some n =>
    if n.gone.isSome then done c .invalidNamespace s
    else if !list then done c .controllerList s
    else if n.attached then done c .nsAttached s
    else nsChanged (ok c (modNs c.nsid (fun x => { x with attached := true }) s))
  | 1, some n =>
    if n.gone != some order then done c .invalidNamespace s
    else if !list then done c .controllerList (reopenNs order s)
    else if !n.attached then done c .nsNotAttached (reopenNs order s)
    else setPhase c.sqid c.cid .executing s
  | 0, none => done c .invalidNamespace s
  | 1, none => done c .invalidNamespace (reopenNs order s)
  | _, _ => badField c (reopenNs order s)

/-- The delete or detach that waits and whose namespaces no earlier command names any more (R72). -/
def readyNsEnd (s : State) : Option Flight :=
  s.nvm.flights.find? fun f => f.sqid == 0 && endsNs f.opc.toNat f.cmd && f.phase == .executing &&
    !(s.nvm.flights.any fun g => decide (g.order < f.order) &&
      s.nss.any fun n => n.gone == some f.order && (g.cmd.nsid == n.id || g.cmd.nsid == 0xFFFFFFFF))

/-- A delete takes effect: the key, the contents and the result sets of the namespace are gone; a detach releases its result sets and
keeps the rest (R72). -/
def nsEnds (f : Flight) (s : State) : State :=
  let ids := (s.nss.filter fun n => n.gone == some f.order).map (·.id)
  let s := ids.foldl (fun s i =>
    let s := dropSets (fun r => r.nsid == i) s
    if f.opc == 0x0D then (destroyContents i s).modNss (·.filter fun n => n.id != i)
    else modNs i (fun n => { n with attached := false, gone := none }) s) s
  nsChanged (complete f.sqid f.cid .success 0 0 s)

/-- What makes a register command fail before it accesses a register (R442, R512); see log 62 (DEDUCED). -/
def regCheck (c : Cmd) (s : State) : Option (Status × Nat) :=
  let off := c.cdw10.toNat
  let n := bits c.cdw11.toNat 10 0
  let blk := blockOf off
  let fault : Option (Status × Nat) := firstBad [
    (c.cdw2 == 0, (.invalidField, 2)), (c.cdw3 == 0, (.invalidField, 3)),
    (off % 4 == 0 && decide (off < 0x4000000), (.invalidField, 10)),
    (decide (1 ≤ n ∧ n ≤ 1024 ∧ c.cdw11.toNat < 2048), (.invalidField, 11)),
    (blk.isSome && (blockOf (off + 4 * (n - 1))).map (·.1) == blk.map (·.1), (.invalidField, 11)),
    (c.cdw12 == 0, (.invalidField, 12)), (c.cdw13 == 0, (.invalidField, 13)), (c.cdw14 == 0, (.invalidField, 14)),
    (c.cdw15 == 0, (.invalidField, 15)),
    ((match blk with | some b => s.hasBlock b.1 | none => true), (.invalidField, 0))]
  let shut := s.boot.phase == .trickle && (match blk with | some b => !(b.1 == .gen || b.1 == .boot || b.1 == .ras) | none => true)
  if shut then some (.trickle, 0) else fault

/-- Register Read (R512, R513): one aligned access for each register, in ascending order. -/
def effRegisterRead (c : Cmd) (s : State) : State :=
  match regCheck c s with
  | some b => doneWith c b.1 b.2 0 s
  | none =>
    let r := (List.range (bits c.cdw11.toNat 10 0)).foldl (fun (a : List Nat × State) i =>
      let v := busRead (c.cdw10.toNat + 4 * i) 4 a.2
      (a.1 ++ [v.1], v.2)) ([], s)
    doneWith c .success (r.1.headD 0) 0 (hostData c.sqid c.cid 0 (r.1.flatMap (leBytes 4)) r.2)

/-- Register Write (R512, R513). A write that resets the controller ends the command with the others. -/
def effRegisterWrite (c : Cmd) (s : State) : State :=
  match regCheck c s with
  | some b => doneWith c b.1 b.2 0 s
  | none =>
    let s := (List.range (bits c.cdw11.toNat 10 0)).foldl (fun s i =>
      if (s.flight? c.sqid c.cid).isSome then busWrite (c.cdw10.toNat + 4 * i) (field c.data (4 * i) 4) 4 s else s) s
    if (s.flight? c.sqid c.cid).isSome then ok c s else s

/-- The first reserved dword, from dword 11 on, that is not zero. -/
def reservedFrom11 (c : Cmd) : Option Nat :=
  ([c.cdw11, c.cdw12, c.cdw13, c.cdw14, c.cdw15].findIdx? (· != 0)).map (11 + ·)

/-- Cistern Test (R406): it waits for the test that it starts or joins. -/
def effCisternTest (c : Cmd) (s : State) : State :=
  let sel := c.cdw10.toNat
  let strings := if sel = 0 then List.range 9 else (List.range 9).filter fun i => bit sel i
  if 512 ≤ sel then badDword 10 c s
  else match reservedFrom11 c with
    | some d => badDword d c s
    | none => startTest strings (sel == 0 || sel == 511) false (some (keyOf c)) (setPhase c.sqid c.cid .executing s)

/-- Start Ledger Clear (R444): HIST also clears the entries, JGAP and what Critical Warning bit 2 reports of the journal gap. -/
def effLedgerClear (c : Cmd) (s : State) : State :=
  if 2 ≤ c.cdw10.toNat then badDword 10 c s
  else match reservedFrom11 c with
    | some d => badDword d c s
    | none =>
      let was := s.boot.fails
      let s := s.modBoot fun b => { b with fails := 0 }
      doneWith c .success was 0
        (if bit c.cdw10.toNat 0 then s.modBoot fun b => { b with entries := [], jgap := 0 } else s)

/-- The health status poll of the management bus (R476): the SMART Critical Warning and the composite temperature in kelvin. -/
def healthStatus (s : State) : List Byte := leBytes 1 s.criticalWarning ++ leBytes 2 s.composite

/-- NVMe-MI Send (R38): a management request is taken; the spec describes no request that changes the sled. -/
def effMiSend (c : Cmd) (s : State) : State := ok c s

/-- NVMe-MI Receive (R38, R476): the health status poll returns its report; the response to any other request is a free value
(log 48). -/
def effMiReceive (c : Cmd) (s : State) : State :=
  if bits c.cdw11.toNat 7 0 = 1 then ok c (hostData c.sqid c.cid 0 (healthStatus s) s)
  else
    let r := draw s
    doneWith c .success (r.1.toNat % 2 ^ 32) 0 r.2

end Sys2Proof.Machine
end

