-- ==== Sys2Proof/Machine/Fetch.lean ====
section
/-! DEFINITION. Fetching commands, the two classes of admin commands, and what follows from a change: commands that waited run or
complete (R40 to R43, R48, R50, R57 to R60, R68, R70, R72, R164, R518). -/

namespace Sys2Proof.Machine

/-- The effect of an I/O command; an opcode that the sled does not implement is refused (R44, R77, R515). -/
def runIo (opc : Nat) (c : Cmd) : State → State :=
  match opc with
  | 0x00 => effFlush c
  | 0x01 => effWrite c
  | 0x02 => effRead c
  | 0x08 => effWriteZeroes c
  | 0x09 => effDatasetManagement c
  | 0x99 => effIndexDelete c
  | 0x9C => effIndexPublish c
  | 0xA0 => effIndexCompact c
  | 0xAA => effResultFetch c
  | 0xAC => effResultRelease c
  | _ => if hasParams opc then effJob opc c else done c .invalidOpcode

/-- The effect of an admin command (R38, R48, R515). -/
def runAdmin (opc : Nat) (c : Cmd) : State → State :=
  match opc with
  | 0x00 => effDeleteSq c
  | 0x01 => effCreateSq c
  | 0x02 => effLogPage c
  | 0x04 => effDeleteCq c
  | 0x05 => effCreateCq c
  | 0x06 => effIdentify c
  | 0x08 => effAbort c
  | 0x09 => effSetFeatures c
  | 0x0A => effGetFeatures c
  | 0x0C => effAer c
  | 0x0D => effNsManagement c
  | 0x10 => effFirmwareCommit c
  | 0x11 => effFirmwareDownload c
  | 0x14 => effSelfTest c
  | 0x15 => effNsAttachment c
  | 0x1D => effMiSend c
  | 0x1E => effMiReceive c
  | 0x80 => effFormat c
  | 0x84 => effSanitize c
  | 0xC1 => effStage c
  | 0xC4 => effCheck c
  | 0xC8 => effCommit c
  | 0xCC => effDiscard c
  | 0xD1 => effModelInstall c
  | 0xD4 => effModelRemove c
  | 0xD5 => effProgramInstall c
  | 0xDA => effRegisterRead c
  | 0xDD => effRegisterWrite c
  | 0xE3 => effAttest c
  | 0xE8 => effCisternTest c
  | 0xED => effIndexCreate c
  | 0xF0 => effIndexDrop c
  | 0xF4 => effLedgerClear c
  | _ => done c .invalidOpcode

/-- Whether Trickle mode accepts a command (Table 16.5). -/
def trickleTakes (sqid opc : Nat) (c : Cmd) : Bool :=
  sqid == 0 && match opc with
    | 0x06 => bits c.cdw10.toNat 7 0 == 1
    | 0x02 => [0x01, 0x03, 0xC2, 0xC3].contains (bits c.cdw10.toNat 7 0)
    | 0x08 => true
    | 0x0C => true
    | 0x11 => true
    | 0x10 => bits c.cdw10.toNat 5 3 == 1 || bits c.cdw10.toNat 5 3 == 2
    | 0xF4 => true
    | 0xDA => true
    | _ => false

/-- The commands that NVMe permits while a sanitize runs (R70; the list is the standard's, log 27). -/
def sanitizeTakes (sqid opc : Nat) : Bool :=
  sqid == 0 && [0x00, 0x01, 0x02, 0x04, 0x05, 0x06, 0x08, 0x09, 0x0A, 0x0C, 0x1D, 0x1E].contains opc

/-- Whether a command is a Set Features that starts an entry into PS3 or PS4 (R57); see log 63 (DEDUCED). -/
def startsEntry (sqid opc : Nat) (c : Cmd) : Bool :=
  let ps := bits c.cdw11.toNat 4 0
  sqid == 0 && opc == 0x09 && bits c.cdw10.toNat 7 0 == 2 && (ps == 3 || ps == 4)

/-- Whether a command makes the sled leave PS3 or PS4 (R59). -/
def causesExit (sqid opc : Nat) (c : Cmd) : Bool :=
  sqid != 0 || (isSerial opc && !startsEntry sqid opc c) ||
  (opc == 0xDA && match blockOf c.cdw10.toNat with
    | some (.clu _, _) => true
    | some (.sync _, _) => true
    | some (.mem, _) => true
    | _ => false)

/-- Whether a command names a namespace whose delete or detach has been fetched (R72). -/
def namesClosed (sqid opc : Nat) (c : Cmd) (s : State) : Bool :=
  (sqid != 0 || [0x80, 0x15, 0xED, 0xF0].contains opc || endsNs opc c ||
    (opc == 0x06 && [0x00, 0x03, 0x11, 0x12].contains (bits c.cdw10.toNat 7 0))) &&
  s.nss.any fun n => (n.id == c.nsid || (opc == 0x80 && c.nsid == 0xFFFFFFFF)) && n.gone.isSome

/-- Whether a command is refused because a sanitize runs (R70). -/
def State.sanitizeBars (s : State) (sqid opc : Nat) : Bool := s.mgmt.sanitize.isSome && !sanitizeTakes sqid opc

/-- The first of the reserved dwords 2 and 3 of a vendor admin command that is not zero (R11, R300, R512). -/
def reservedHead (opc : Nat) (c : Cmd) : Option Nat :=
  if 0xC0 ≤ opc ∧ opc ≠ 0xDA ∧ opc ≠ 0xDD then ([c.cdw2, c.cdw3].findIdx? (· != 0)).map (2 + ·) else none

/-- An admin command acts: as of its fetch, unless a sanitize that began meanwhile bars it or a reserved dword is not zero. -/
def adminTurn (f : Flight) (s : State) : State :=
  let opc := f.opc.toNat
  if s.sanitizeBars f.sqid opc then done f.cmd .sanitizeInProgress (undoFetch f.order s)
  else match reservedHead opc f.cmd with
    | some d => badDword d f.cmd (undoFetch f.order s)
    | none => asFetched f.order (runAdmin opc f.cmd) s

/-- A command that the sled may act on: an I/O command and a concurrent admin command run, a serial one waits its turn; an entry into a
non-operational state begins at once (R48, R57). -/
def route (f : Flight) (s : State) : State :=
  let opc := f.opc.toNat
  let s := setPhase f.sqid f.cid .waiting s
  if f.sqid != 0 then
    if s.sanitizeBars f.sqid opc then done f.cmd .sanitizeInProgress s else asFetched f.order (runIo opc f.cmd) s
  else if startsEntry f.sqid opc f.cmd then effSetFeatures f.cmd s
  else if isSerial opc then s
  else adminTurn f s

/-- What the fetch of a command closes to the commands fetched later (R72, R164). -/
def closings (f : Flight) (s : State) : State :=
  if f.sqid == 0 && f.opc == 0xF0 then closeIndex f.order f.cmd s
  else if f.sqid == 0 && endsNs f.opc.toNat f.cmd then closeNs f.order f.cmd s
  else s

/-- An exit from PS3 or PS4 begins (R59, R396): the stacks and clusters ask for their wake-ups. -/
def beginExit (s : State) : State :=
  if s.mgmt.exiting then s
  else
    let s := s.modMgmt fun m => { m with exiting := true }
    let s := (List.range s.variant.stackCount).foldl (fun s n =>
      if s.resv.stkLost.contains n then s else askSurge 2 (.stack n) 150 s) s
    wakeClusters ((List.range s.variant.clusters).filter fun c => !(s.clu c).lost) s

/-- A command is fetched (R41 to R43, R59, R60, R68, R70, R72, R465): it is entered in the audit, then refused, held, or routed. -/
def fetched (sqid : Nat) (e : Sqe) (s : State) : State :=
  let c := { e.cmd with sqid := sqid }
  let opc := e.opc.toNat
  let f : Flight := ⟨sqid, c.cid, e.opc, c, s.nvm.orders, s.now, s.now + 10000000, .waiting, none⟩
  if (s.flight? sqid c.cid).isSome then completeFlight f .cidConflict 0 0 s
  else
    let s := s.modNvm fun n => { n with flights := n.flights ++ [f], orders := n.orders + 1 }
    if s.boot.phase == .trickle && !trickleTakes sqid opc c then done c .trickle s
    else if s.sanitizeBars sqid opc then done c .sanitizeInProgress s
    else if sqid == 0 && c.flags != 0 then badField c s
    else if namesClosed sqid opc c s then done c .invalidNamespace s
    else
      let s := closings f s
      if s.mgmt.entry.isSome then setPhase sqid c.cid .held s
      else if decide (3 ≤ s.mgmt.ps) && causesExit sqid opc c then
        setPhase sqid c.cid .held (beginExit s)
      else route f s

/-- Whether the controller fetches commands. -/
def State.fetching (s : State) : Bool := s.nvm.en && s.nvm.rdy && (s.boot.phase == .ready || s.boot.phase == .trickle)

/-- Commands in flight: admin, and I/O (R41, R42). -/
def State.adminFlights (s : State) : Nat := (s.nvm.flights.filter fun f => f.sqid == 0).length
def State.ioFlights (s : State) : Nat := (s.nvm.flights.filter fun f => f.sqid != 0).length

/-- Whether the next command of a queue can be fetched. -/
def State.canFetch (s : State) (q : Sq) : Bool :=
  !q.unfetched.isEmpty && if q.id == 0 then decide (s.adminFlights < 64) else decide (s.ioFlights < 16384)

/-- The next queue of a round robin: the queue fetched from last while its burst lasts, else the one that follows it. -/
def turn (last burst limit : Nat) (ids : List Nat) : Option Nat :=
  let l := sortDedup ids
  if l.contains last && decide (burst < limit) then some last
  else match l.find? fun i => decide (last < i) with
    | some i => some i
    | none => l.head?

/-- The class that a weighted round robin fetches from: the first with a queue and credit left (R40). -/
def classTurn (credits : List Nat) (ready : Nat → Bool) : Option Nat :=
  [1, 2, 3].find? fun k => ready k && credits.getD (k - 1) 0 != 0

/-- The queue to fetch from next, and the credits that are left (R40): the admin queue first, then the urgent class, then the classes by
weight; or all queues in turn. -/
def pickQueue (s : State) : Option (Nat × List Nat) :=
  let qs := s.nvm.sqs.filter s.canFetch
  let go := fun (k : Nat) (l : List Sq) => turn (s.nvm.rrLast.getD k 0) (s.nvm.burst.getD k 0) s.burstLimit (l.map (·.id))
  if bits s.nvm.cc.toNat 13 11 ≠ 1 then (go 0 qs).map fun i => (i, s.nvm.credits)
  else if qs.any fun q => q.id == 0 then some (0, s.nvm.credits)
  else
    let of := fun (k : Nat) => qs.filter fun q => q.prio == k
    let ready := fun (k : Nat) => !(of k).isEmpty
    if ready 0 then (go 0 (of 0)).map fun i => (i, s.nvm.credits)
    else
      let fresh := [s.weight 1, s.weight 2, s.weight 3]
      let pick := match classTurn s.nvm.credits ready with
        | some k => some (k, s.nvm.credits)
        | none => (classTurn fresh ready).map fun k => (k, fresh)
      match pick with
      | some (k, cr) => (go k (of k)).map fun i => (i, cr.modify (k - 1) (· - 1))
      | none => none

/-- The class in whose round robin a queue takes its turn (R40): class 0 for all of them without weights; beyond the classes for the admin
queue, which with weights has no turn to take. -/
def State.classOf (s : State) (q : Sq) : Nat := if bits s.nvm.cc.toNat 13 11 ≠ 1 then 0 else if q.id == 0 then 4 else q.prio

/-- Fetch one command. -/
def fetchOne (s : State) : Option State :=
  if !s.fetching then none
  else match pickQueue s with
    | none => none
    | some (i, cr) => match s.nvm.sqs.find? fun q => q.id == i with
      | none => none
      | some q => match q.unfetched with
        | [] => none
        | e :: rest =>
          let k := s.classOf q
          let s := s.modNvm fun n => { n with
            sqs := n.sqs.map fun x => if x.id == i then { x with unfetched := rest, head := (x.head + 1) % x.size } else x
            burst := n.burst.set k (if n.rrLast.getD k 0 == i then n.burst.getD k 0 + 1 else 1)
            rrLast := n.rrLast.set k i
            credits := cr }
          some (fetched i e s)

/-- Fetch while commands can be fetched; `n` bounds them. -/
def fetchLoop : Nat → State → State
  | 0, s => s
  | n + 1, s => match fetchOne s with
    | some s => fetchLoop n s
    | none => s

/-- Entries that wait in submission queues. -/
def State.waitingEntries (s : State) : Nat := sumOf (s.nvm.sqs.map fun q => q.unfetched.length)

/-- The serial command that runs next (R48). -/
def nextSerial (s : State) : Option Flight :=
  let busy := match s.nvm.serial with
    | some k => s.nvm.flights.any fun (f : Flight) => f.order == k && f.phase != Phase.ending
    | none => false
  if busy then none
  else s.nvm.flights.find? fun (f : Flight) => f.sqid == 0 && isSerial f.opc.toNat && f.phase == Phase.waiting

/-- Run it. -/
def serialStep (s : State) : State :=
  match nextSerial s with
  | none => s
  | some f => adminTurn f (s.modNvm fun n => { n with serial := some f.order })

/-- An Index Drop whose index no earlier command names takes effect (R164). -/
def dropStep (s : State) : State :=
  match readyDrop s with
  | some f => complete f.sqid f.cid .success 0 0 (removeIndex f.cmd.nsid f.cmd.cdw10.toNat s)
  | none => s

/-- A namespace delete or detach that no earlier command holds up takes effect (R72). -/
def nsStep (s : State) : State :=
  match readyNsEnd s with
  | some f => nsEnds f s
  | none => s

/-- A submission queue whose delete waits for no command any more is gone (R518). -/
def sqStep (s : State) : State :=
  match s.nvm.flights.find? fun (f : Flight) => f.sqid == 0 && f.opc == 0x00 && f.phase == .executing &&
      !(s.nvm.flights.any fun g => g.sqid == f.cmd.cdw10.toNat % 65536) with
  | some f => complete f.sqid f.cid .success 0 0 (s.modNvm fun n => { n with
      sqs := n.sqs.filter fun q => q.id != f.cmd.cdw10.toNat % 65536 })
  | none => s

/-- An Abort whose caught target has been completed completes (R51). -/
def abortStep (s : State) : State :=
  match s.nvm.flights.find? fun (f : Flight) => f.sqid == 0 && f.opc == 0x08 && f.phase == .executing &&
      (s.flight? (f.cmd.cdw10.toNat % 65536) (f.cmd.cdw10.toNat / 65536)).isNone with
  | some f => complete f.sqid f.cid .success 0 0 s
  | none => s

/-- Publishes that wait begin (R168, R171). -/
def publishStep (s : State) : State :=
  (s.idx.filter fun ix => (match ix.work with | .none => true | _ => false) && !ix.waiting.isEmpty).foldl
    (fun s ix => nextPublish ix.nsid ix.id s) s

/-- Entries of pending logs whose command has completed stay (R165, R175). -/
def markDone (s : State) : State :=
  if s.idx.all fun ix => ix.pend.all (·.done) then s
  else s.modIdx (·.map fun ix => { ix with pend := s.settled ix.pend })

/-- What shows that a round of `settle` changed something: the commands in flight and how far each has come. -/
def State.progress (s : State) : Nat × List (Nat × Phase) := (s.nvm.orders, s.nvm.flights.map fun f => (f.order, f.phase))

/-- Everything that follows from a change, in rounds until nothing follows; `n` bounds the rounds. -/
def settleLoop : Nat → State → State
  | 0, s => s
  | n + 1, s =>
    let before := s.progress
    let s := serialStep (escalateNow s)
    let s := abortStep (sqStep (nsStep (dropStep s)))
    let s := bindStep (markDone (kickAll (postWrites (publishStep s))))
    let s := fetchLoop s.waitingEntries s
    if s.progress == before then s else settleLoop n s

/-- Everything that follows from a change. -/
def settle (s : State) : State := settleLoop (2 * s.nvm.flights.length + s.waitingEntries + 4) s

/-- The host puts an entry into a submission queue. Without the queue, with the queue full or being deleted, nothing is there to take it
(log 6). -/
def enqueue (e : Sqe) (s : State) : State :=
  s.modNvm fun n => { n with
    sqs := n.sqs.map fun q =>
      if q.id == e.cmd.sqid && decide (q.unfetched.length + 1 < q.size) && !s.deleting q.id then
        { q with unfetched := q.unfetched ++ [e], tail := (q.tail + 1) % q.size }
      else q }

/-- The host submits one command. -/
def submit (opc : BitVec 8) (c : Cmd) (s : State) : State := enqueue ⟨opc, c⟩ s

/-- A command row: the host submits the command, and the sled goes as far as it can (log 49). -/
def command (opc : BitVec 8) (c : Cmd) (s : State) : State := settle (submit opc c s)

end Sys2Proof.Machine
end

