-- ==== Sys2Proof/Machine/Commands.lean ====
section
/-! DEFINITION. The NVMe command rows: the host submits the command, the sled fetches it when it can, and goes as far as it can. An
admin command is submitted to the admin queue, an I/O command to an I/O queue. A row that the table gives one feature, code or action
has that one. -/

namespace Sys2Proof.Machine

/-- A word with a field set. -/
def withField (w : Word) (hi lo v : Nat) : Word := BitVec.ofNat 32 (w.toNat - bits w.toNat hi lo * 2 ^ lo + v * 2 ^ lo)

/-- A command with a field of dword 10 set. -/
def withDw10 (c : Cmd) (hi lo v : Nat) : Cmd := { c with cdw10 := withField c.cdw10 hi lo v }

/-- What the machine answers when something has changed it. -/
def answer (s : State) : Host.Outcome State Fault Refusal := .next (settle s)

/-- An admin command row. -/
def adminRow (opc : BitVec 8) (c : Cmd) (s : State) : Host.Outcome State Fault Refusal :=
  answer (submit opc { c with sqid := 0 } s)

/-- An I/O command row: an I/O opcode that is put into the admin queue is no command of the row, and nothing happens (log 6). -/
def ioRow (opc : BitVec 8) (c : Cmd) (s : State) : Host.Outcome State Fault Refusal :=
  if c.sqid = 0 then .next s else answer (submit opc c s)

/-- Abort (R49). -/
def execAdminAbort (c : Cmd) (s : State) : Host.Outcome State Fault Refusal := adminRow 0x08 c s

/-- Asynchronous Event Request (R75). -/
def execAsynchronousEventRequest (c : Cmd) (s : State) : Host.Outcome State Fault Refusal := adminRow 0x0C c s

/-- Create I/O Submission Queue (R39). -/
def execCreateIoSubmissionQueue (c : Cmd) (s : State) : Host.Outcome State Fault Refusal := adminRow 0x01 c s

/-- Create I/O Completion Queue (R39). -/
def execCreateIoCompletionQueue (c : Cmd) (s : State) : Host.Outcome State Fault Refusal := adminRow 0x05 c s

/-- Delete I/O Submission Queue (R518). -/
def execDeleteIoSubmissionQueue (c : Cmd) (s : State) : Host.Outcome State Fault Refusal := adminRow 0x00 c s

/-- Delete I/O Completion Queue (R39). -/
def execDeleteIoCompletionQueue (c : Cmd) (s : State) : Host.Outcome State Fault Refusal := adminRow 0x04 c s

/-- Identify (R38). -/
def execIdentify (c : Cmd) (s : State) : Host.Outcome State Fault Refusal := adminRow 0x06 c s

/-- Get Log Page (R76, R514). -/
def execGetLogPage (c : Cmd) (s : State) : Host.Outcome State Fault Refusal := adminRow 0x02 c s

/-- Get Features (R76). -/
def execGetFeatures (c : Cmd) (s : State) : Host.Outcome State Fault Refusal := adminRow 0x0A c s

/-- Set Features, Power Management (R55 to R57). -/
def execSetFeaturesPowerManagement (c : Cmd) (s : State) : Host.Outcome State Fault Refusal := adminRow 0x09 (withDw10 c 7 0 0x02) s

/-- Set Features, Arbitration: feature 07h, as R40 numbers it. -/
def execSetFeaturesArbitration (c : Cmd) (s : State) : Host.Outcome State Fault Refusal := adminRow 0x09 (withDw10 c 7 0 0x07) s

/-- Set Features, Timestamp (R351). -/
def execSetFeaturesTimestamp (c : Cmd) (s : State) : Host.Outcome State Fault Refusal := adminRow 0x09 (withDw10 c 7 0 0x0E) s

/-- Set Features, Vendor Event Enable (R75). -/
def execSetFeaturesVendorEventEnable (c : Cmd) (s : State) : Host.Outcome State Fault Refusal := adminRow 0x09 (withDw10 c 7 0 0xC0) s

/-- Set Features, with the feature that dword 10 names (R76). -/
def execSetFeatures (c : Cmd) (s : State) : Host.Outcome State Fault Refusal := adminRow 0x09 c s

/-- Device Self-test, code 1h (R61). -/
def execDeviceSelfTestShort (c : Cmd) (s : State) : Host.Outcome State Fault Refusal := adminRow 0x14 (withDw10 c 3 0 1) s

/-- Device Self-test, code 2h (R61). -/
def execDeviceSelfTestExtended (c : Cmd) (s : State) : Host.Outcome State Fault Refusal := adminRow 0x14 (withDw10 c 3 0 2) s

/-- Device Self-test, code Fh (R61, R63). -/
def execDeviceSelfTestStop (c : Cmd) (s : State) : Host.Outcome State Fault Refusal := adminRow 0x14 (withDw10 c 3 0 15) s

/-- Firmware Image Download (R64). -/
def execFirmwareImageDownload (c : Cmd) (s : State) : Host.Outcome State Fault Refusal := adminRow 0x11 c s

/-- Firmware Commit, action 001b (R65, R449). -/
def execFirmwareCommitReplaceActivate (c : Cmd) (s : State) : Host.Outcome State Fault Refusal := adminRow 0x10 (withDw10 c 5 3 1) s

/-- Firmware Commit, action 010b, or one that the sled refuses (R65). -/
def execFirmwareCommitActivate (c : Cmd) (s : State) : Host.Outcome State Fault Refusal := adminRow 0x10 (if bits c.cdw10.toNat 5 3 = 1 then withDw10 c 5 3 2 else c) s

/-- Sanitize, Crypto Erase (R69). -/
def execSanitizeCryptoErase (c : Cmd) (s : State) : Host.Outcome State Fault Refusal := adminRow 0x84 (withDw10 c 2 0 4) s

/-- Sanitize, Block Erase (R69). -/
def execSanitizeBlockErase (c : Cmd) (s : State) : Host.Outcome State Fault Refusal := adminRow 0x84 (withDw10 c 2 0 2) s

/-- Format NVM (R71). -/
def execFormatNvm (c : Cmd) (s : State) : Host.Outcome State Fault Refusal := adminRow 0x80 c s

/-- Namespace Management, create (R519). -/
def execNamespaceCreate (c : Cmd) (s : State) : Host.Outcome State Fault Refusal := adminRow 0x0D (withDw10 c 3 0 0) s

/-- Namespace Management, delete (R72). -/
def execNamespaceDelete (c : Cmd) (s : State) : Host.Outcome State Fault Refusal := adminRow 0x0D (withDw10 c 3 0 1) s

/-- Namespace Attachment, attach (R72). -/
def execNamespaceAttach (c : Cmd) (s : State) : Host.Outcome State Fault Refusal := adminRow 0x15 (withDw10 c 3 0 0) s

/-- Namespace Attachment, detach (R72). -/
def execNamespaceDetach (c : Cmd) (s : State) : Host.Outcome State Fault Refusal := adminRow 0x15 (withDw10 c 3 0 1) s

/-- NVMe-MI Send (R38). -/
def execNvmeMiSend (c : Cmd) (s : State) : Host.Outcome State Fault Refusal := adminRow 0x1D c s

/-- NVMe-MI Receive (R38). -/
def execNvmeMiReceive (c : Cmd) (s : State) : Host.Outcome State Fault Refusal := adminRow 0x1E c s

/-- Read (R46). -/
def execRead (c : Cmd) (s : State) : Host.Outcome State Fault Refusal := ioRow 0x02 c s

/-- Write (R46, R47). -/
def execWrite (c : Cmd) (s : State) : Host.Outcome State Fault Refusal := ioRow 0x01 c s

/-- Write Zeroes (R46). -/
def execWriteZeroes (c : Cmd) (s : State) : Host.Outcome State Fault Refusal := ioRow 0x08 c s

/-- Dataset Management (R46). -/
def execDatasetManagement (c : Cmd) (s : State) : Host.Outcome State Fault Refusal := ioRow 0x09 c s

/-- Flush (R47). -/
def execFlush (c : Cmd) (s : State) : Host.Outcome State Fault Refusal := ioRow 0x00 c s

/-- Scan (R77, R127). -/
def execScan (c : Cmd) (s : State) : Host.Outcome State Fault Refusal := ioRow 0x82 c s

/-- Embed (R77, R305). -/
def execEmbed (c : Cmd) (s : State) : Host.Outcome State Fault Refusal := ioRow 0x87 c s

/-- Score (R77, R305). -/
def execScore (c : Cmd) (s : State) : Host.Outcome State Fault Refusal := ioRow 0x8A c s

/-- Search (R77, R178). -/
def execSearch (c : Cmd) (s : State) : Host.Outcome State Fault Refusal := ioRow 0x8F c s

/-- Near Join (R77, R196). -/
def execNearJoin (c : Cmd) (s : State) : Host.Outcome State Fault Refusal := ioRow 0x93 c s

/-- Index Insert (R165). -/
def execIndexInsert (c : Cmd) (s : State) : Host.Outcome State Fault Refusal := ioRow 0x95 c s

/-- Index Delete (R99). -/
def execIndexDelete (c : Cmd) (s : State) : Host.Outcome State Fault Refusal := ioRow 0x99 c s

/-- Index Publish (R100). -/
def execIndexPublish (c : Cmd) (s : State) : Host.Outcome State Fault Refusal := ioRow 0x9C c s

/-- Index Compact (R101). -/
def execIndexCompact (c : Cmd) (s : State) : Host.Outcome State Fault Refusal := ioRow 0xA0 c s

/-- Job Run (R103). -/
def execJobRun (c : Cmd) (s : State) : Host.Outcome State Fault Refusal := ioRow 0xA7 c s

/-- Result Fetch (R113). -/
def execResultFetch (c : Cmd) (s : State) : Host.Outcome State Fault Refusal := ioRow 0xAA c s

/-- Result Release (R114). -/
def execResultRelease (c : Cmd) (s : State) : Host.Outcome State Fault Refusal := ioRow 0xAC c s

/-- Recall Estimate (R77). -/
def execRecallEstimate (c : Cmd) (s : State) : Host.Outcome State Fault Refusal := ioRow 0xB2 c s

/-- Index Create (R159). -/
def execIndexCreate (c : Cmd) (s : State) : Host.Outcome State Fault Refusal := adminRow 0xED c s

/-- Index Drop (R164). -/
def execIndexDrop (c : Cmd) (s : State) : Host.Outcome State Fault Refusal := adminRow 0xF0 c s

/-- Configuration Stage (R418). -/
def execConfigurationStage (c : Cmd) (s : State) : Host.Outcome State Fault Refusal := adminRow 0xC1 c s

/-- Configuration Check (R420). -/
def execConfigurationCheck (c : Cmd) (s : State) : Host.Outcome State Fault Refusal := adminRow 0xC4 c s

/-- Configuration Commit (R423). -/
def execConfigurationCommit (c : Cmd) (s : State) : Host.Outcome State Fault Refusal := adminRow 0xC8 c s

/-- Configuration Discard (R418). -/
def execConfigurationDiscard (c : Cmd) (s : State) : Host.Outcome State Fault Refusal := adminRow 0xCC c s

/-- Model Install (R301). -/
def execModelInstall (c : Cmd) (s : State) : Host.Outcome State Fault Refusal := adminRow 0xD1 c s

/-- Model Remove (R302). -/
def execModelRemove (c : Cmd) (s : State) : Host.Outcome State Fault Refusal := adminRow 0xD4 c s

/-- Program Install (R301). -/
def execProgramInstall (c : Cmd) (s : State) : Host.Outcome State Fault Refusal := adminRow 0xD5 c s

/-- Register Read (R512, R513). -/
def execRegisterRead (c : Cmd) (s : State) : Host.Outcome State Fault Refusal := adminRow 0xDA c s

/-- Register Write (R512, R513). -/
def execRegisterWrite (c : Cmd) (s : State) : Host.Outcome State Fault Refusal := adminRow 0xDD c s

/-- Attest, certificates. -/
def execAttestCertificates (c : Cmd) (s : State) : Host.Outcome State Fault Refusal := adminRow 0xE3 (withDw10 c 3 0 0) s

/-- Attest, quote. -/
def execAttestQuote (c : Cmd) (s : State) : Host.Outcome State Fault Refusal := adminRow 0xE3 (withDw10 c 3 0 1) s

/-- Attest, owner. -/
def execAttestOwner (c : Cmd) (s : State) : Host.Outcome State Fault Refusal := adminRow 0xE3 (withDw10 c 3 0 2) s

/-- Cistern Test (R406). -/
def execCisternTest (c : Cmd) (s : State) : Host.Outcome State Fault Refusal := adminRow 0xE8 c s

/-- Start Ledger Clear (R444). -/
def execStartLedgerClear (c : Cmd) (s : State) : Host.Outcome State Fault Refusal := adminRow 0xF4 c s

end Sys2Proof.Machine
end

