-- ==== Sys2Proof/Machine/ControlCore.lean ====
section
/-! DEFINITION. The instructions of the control core (R233 to R243, R250 to R253): one meaning for each. The row of an
instruction gives the cluster and the words; it is admitted when the core runs and fetches these words (log 34). -/

namespace Sys2Proof.Machine

/-- The word of instruction memory at an address. -/
def Clu.imWord (x : Clu) (a : Nat) : Nat := leNat (Mem.read 0 x.im a 4)

/-- Fields of an instruction word (Tables 8.4 and 8.6). -/
def opOf (w : Nat) : Nat := bits w 31 26
def rdOf (w : Nat) : Nat := bits w 25 21
def rs1Of (w : Nat) : Nat := bits w 20 16
def rs2Of (w : Nat) : Nat := bits w 15 11
def immOf (w : Nat) : Nat := w % 65536

/-- A signed field of `n` bits as 64 bits. -/
def sext (n v : Nat) : BitVec 64 := BitVec.ofInt 64 (signedN n v)

/-- Instructions of 64 bits (Table 8.5). -/
def isLong (op : Nat) : Bool := op == 8 || op == 9 || decide (0x30 ≤ op ∧ op ≤ 0x34)

/-- Opcodes that Table 8.5 lists. -/
def listed (op : Nat) : Bool :=
  decide (op ≤ 9) || decide (0x10 ≤ op ∧ op ≤ 0x22) || decide (0x24 ≤ op ∧ op ≤ 0x26) ||
  decide (0x28 ≤ op ∧ op ≤ 0x2B) || decide (0x30 ≤ op ∧ op ≤ 0x34) || decide (0x38 ≤ op ∧ op ≤ 0x3C)

/-- A register: g0 reads 0 and discards writes (Table 8.1). -/
def Core.reg (k : Core) (r : Nat) : BitVec 64 := if r = 0 then 0 else k.g.getD r 0
def Core.regPois (k : Core) (r : Nat) : Bool := r != 0 && k.pois.getD r false
def Core.setReg (r : Nat) (v : BitVec 64) (pois : Bool) (k : Core) : Core :=
  if r = 0 then k else { k with g := k.g.set r v, pois := k.pois.set r pois }

/-- The low 32 bits of a register, as a count. -/
def Core.count (k : Core) (r : Nat) : Nat := (k.reg r).toNat % 2 ^ 32

/-- A branch or an address taken from a poisoned register sets PSTICKY (R226). -/
def Core.stick (pois : Bool) (k : Core) : Core := { k with sticky := k.sticky || pois }

/-- What an instruction does to control flow. -/
inductive Ctl where
  | seq
  | jump (target : Nat)
  | stay
  | fault (cause code : Nat)
  deriving DecidableEq, Repr

/-- A signal or engine command that an instruction sends once it retires. -/
inductive Post where
  | none
  | signal (kind obj n dev : Nat)
  deriving DecidableEq, Repr

/-- The effect of an instruction: cluster, control flow, signal; the registers read, the register written, the cycles to retire
and until the result is ready (Table 8.13). -/
structure Eff where
  clu : Clu
  ctl : Ctl := .seq
  post : Post := .none
  srcs : List Nat := []
  rd : Nat := 0
  cost : Nat := 1
  lat : Nat := 1

/-- An effect on the core alone. -/
def Clu.on (x : Clu) (f : Core → Core) : Clu := x.modCore f

/-- The loops that end at the word before `next` (R238): the innermost repeats or ends, and only when it ends is the next
one tested. The loops left and the next PC. -/
def loopEnd (next : Nat) : List HwLoop → List HwLoop × Nat
  | [] => ([], next)
  | l :: ls =>
    if l.last + 4 = next then
      if l.idx + 1 < l.n then ({ l with idx := l.idx + 1 } :: ls, l.start) else loopEnd next ls
    else (l :: ls, next)

/-- The loops left by a taken branch (R239): a loop whose body does not hold the target is abandoned with every loop inside
it. -/
def loopsAfterJump (t : Nat) (ls : List HwLoop) : List HwLoop :=
  (ls.reverse.takeWhile fun l => decide (l.start ≤ t ∧ t ≤ l.last)).reverse

/-- Advance the core past an instruction of `size` bytes that was not a taken branch. -/
def Core.advance (size : Nat) (k : Core) : Core :=
  let r := loopEnd (k.pc + size) k.loops
  { k with loops := r.1, pc := r.2 % 2 ^ 18 }

/-- Retire an instruction: time (R253), the next PC and loops, the signal, or the fault; see log 77 (DEDUCED). -/
def retire (c size : Nat) (f : Clu → Eff) (s : State) : State :=
  let x := s.clu c
  let e := f x
  let pc := x.core.pc
  let begin_ := e.srcs.foldl (fun t r => max t (x.core.ready.getD r 0)) x.core.cycles
  let ends := begin_ + e.cost
  let timed := fun (k : Core) => { k with
    cycles := ends
    ready := if e.rd = 0 then k.ready else k.ready.set e.rd (begin_ + max e.cost e.lat) }
  match e.ctl with
  | .fault cause code => contextFault c pc cause code s
  | .stay => modClu c (fun _ => e.clu.modCore timed) s
  | .jump t =>
    if x.imlen ≤ t ∨ t % 4 ≠ 0 then contextFault c pc 3 0 s
    else modClu c (fun _ => e.clu.modCore fun k =>
      { timed k with cycles := begin_ + 2, pc := t, loops := loopsAfterJump t k.loops }) s
  | .seq =>
    let s := modClu c (fun _ => e.clu.modCore fun k => (timed k).advance size) s
    match e.post with
    | .none => s
    | .signal kind o n d => sendSignal c 5 0 kind o n d s

/-- A fetch that meets another generation of instruction memory (R206, R209): the record names both. -/
def genFault (c : Nat) (s : State) : State :=
  let x := s.clu c
  programFault c x.core.pc (x.gen + x.imgen * 65536) .internalError s

/-- Run one instruction row on a cluster (log 34). The row of ALU also stands for the words whose opcode no table
lists. -/
def runCore (c : Nat) (op : Nat) (w : Word) (w1 : Option Word) (f : Clu → Eff) (s : State) :
    Host.Outcome State Fault Refusal :=
  if !s.hasClu c then .fault .absentUnit
  else
    let x := s.clu c
    let o := opOf w.toNat
    if !(x.run && x.core.st == .running) then .next s
    else if x.gen != x.imgen then .next (genFault c s)
    else if o != op && !(op == 0 && !listed o) then .next s
    else if x.imWord x.core.pc != w.toNat then .next s
    else if (match w1 with | some v => x.imWord (x.core.pc + 4) != v.toNat | none => false) then .next s
    else .next (retire c (if isLong op then 8 else 4) f s)

/-- The register operations (Table 8.5 FUNC); none for a FUNC that is not listed. -/
def aluFn (fn : Nat) (a b : BitVec 64) : Option (BitVec 64) :=
  let sh := b.toNat % 64
  match fn with
  | 0x000 => some (a + b)
  | 0x001 => some (a - b)
  | 0x002 => some (a &&& b)
  | 0x003 => some (a ||| b)
  | 0x004 => some (a ^^^ b)
  | 0x005 => some (a <<< sh)
  | 0x006 => some (a >>> sh)
  | 0x007 => some (a.sshiftRight sh)
  | 0x008 => some (a * b)
  | 0x009 => some (if a.slt b then 1 else 0)
  | 0x00A => some (if a.ult b then 1 else 0)
  | 0x00B => some (if a.slt b then a else b)
  | 0x00C => some (if a.slt b then b else a)
  | 0x00D => some (if a.ult b then a else b)
  | 0x00E => some (if a.ult b then b else a)
  | 0x00F => some (BitVec.ofNat 64 ((List.range 64).foldl (fun n i => n + b2n (a.getLsbD i)) 0))
  | 0x010 => some (BitVec.ofNat 64 (a.toNat * b.toNat / 2 ^ 64))
  | _ => none

/-- ALU: RD := RS1 op RS2. -/
def aluEff (w : Nat) (x : Clu) : Eff :=
  let fn := bits w 10 0
  let slow := fn == 8 || fn == 0x10
  match (if opOf w = 0 then aluFn fn (x.core.reg (rs1Of w)) (x.core.reg (rs2Of w)) else none) with
  | none => { clu := x, ctl := .fault 1 0 }
  | some v =>
    let p := x.core.regPois (rs1Of w) || (fn != 0xF && x.core.regPois (rs2Of w))
    { clu := x.on (Core.setReg (rdOf w) v p), srcs := [rs1Of w, rs2Of w], rd := rdOf w, lat := if slow then 3 else 1 }

/-- RD := a value made of RS1 and the immediate. -/
def immEff (w : Nat) (g : BitVec 64 → BitVec 64) (x : Clu) : Eff :=
  { clu := x.on (Core.setReg (rdOf w) (g (x.core.reg (rs1Of w))) (x.core.regPois (rs1Of w)))
    srcs := [rs1Of w], rd := rdOf w }

/-- The I format: sign-extended and zero-extended immediates, shift amounts (R237). -/
def simm (w : Nat) : BitVec 64 := sext 16 (immOf w)
def zimm (w : Nat) : BitVec 64 := BitVec.ofNat 64 (immOf w)
def shamt (w : Nat) : Nat := immOf w % 64

/-- A data memory address and whether it is valid for an access of `n` bytes (R237). -/
def dmAddr (w n : Nat) (k : Core) : Nat × Bool :=
  let a := (k.reg (rs1Of w) + simm w).toNat
  (a, decide (a + n ≤ 65536 ∧ a % n = 0))

/-- A load of `n` bytes, zero-extended; see log 73 (DEDUCED). -/
def loadEff (n w : Nat) (x : Clu) : Eff :=
  let a := dmAddr w n x.core
  if !a.2 then { clu := x, ctl := .fault 2 0 }
  else
    let v := BitVec.ofNat 64 (leNat (Mem.read 0 x.core.dm a.1 n))
    let p := x.core.regPois (rs1Of w)
    let q := x.core.dmPois.any fun b => decide (a.1 ≤ b ∧ b < a.1 + n)
    { clu := x.on fun k => (k.setReg (rdOf w) v (p || q)).stick p, srcs := [rs1Of w], rd := rdOf w, lat := 3 }

/-- A store of the low `n` bytes of RD. -/
def storeEff (n w : Nat) (x : Clu) : Eff :=
  let a := dmAddr w n x.core
  if !a.2 then { clu := x, ctl := .fault 2 0 }
  else
    let p := x.core.regPois (rs1Of w)
    let q := x.core.regPois (rdOf w)
    let v := (x.core.reg (rdOf w)).toNat
    { clu := x.on fun k => Core.stick p { k with
        dm := Mem.write 0 k.dm a.1 (leBytes n v)
        dmPois := (k.dmPois.filter fun b => !decide (a.1 ≤ b ∧ b < a.1 + n)) ++
          (if p || q then (List.range n).map (· + a.1) else []) }
      srcs := [rs1Of w, rdOf w] }

/-- A branch of the B format: RS1 in bits 25:21, RS2 in bits 20:16. -/
def branchEff (w : Nat) (test : BitVec 64 → BitVec 64 → Bool) (x : Clu) : Eff :=
  let a := x.core.reg (rdOf w)
  let b := x.core.reg (rs1Of w)
  let p := x.core.regPois (rdOf w) || x.core.regPois (rs1Of w)
  let t := (BitVec.ofNat 64 x.core.pc + 4 * simm w).toNat
  { clu := x.on (Core.stick p), ctl := if test a b then .jump t else .seq, srcs := [rdOf w, rs1Of w] }

/-- The size in bytes of the instruction at an address, and whether a body of `left` bytes from there ends where an instruction
ends (R238). -/
def bodyEnds (x : Clu) : Nat → Nat → Nat → Bool
  | 0, _, left => left == 0
  | n + 1, a, left =>
    if left = 0 then true
    else
      let k := if isLong (opOf (x.imWord a)) then 8 else 4
      if left < k then false else bodyEnds x n (a + k) (left - k)

/-- LOOP and LOOPI (R238, R239): a count of 0 skips the body; otherwise counter `lc` becomes active. A skipped body counts as ended
for the loop around it (DEDUCED, log 35). -/
def loopEff (lc count len : Nat) (p : Bool) (srcs : List Nat) (x : Clu) : Eff :=
  let pc := x.core.pc
  let k := x.core.stick p
  let start := pc + 4
  let last := pc + 4 * len
  if x.core.loops.any (fun l => l.lc == lc) then { clu := x, ctl := .fault 4 0 }
  else if x.imlen ≤ last then { clu := x, ctl := .fault 3 0 }
  else if count = 0 then
    { clu := x.on fun _ => { k with pc := pc + 4 * len }, srcs := srcs }
  else if decide (len = 0) || !bodyEnds x len start (4 * len) ||
      (match x.core.loops.head? with | some l => decide (start < l.start ∨ l.last < last) | none => false) then
    { clu := x, ctl := .fault 4 0 }
  else { clu := x.on fun _ => { k with loops := ⟨lc, start, last, 0, count⟩ :: k.loops }, srcs := srcs }

/-- The address of AGLD and AGST, aligned to 64 bytes. -/
def agAddr (w : Nat) (k : Core) : Nat × Bool :=
  let a := (k.reg (bits w 22 18) + simm w).toNat
  (a, decide (a + 64 ≤ 65536 ∧ a % 64 = 0))

/-- A signal count: 1 to 65,535 (R237). -/
def countOk (n : Nat) : Bool := decide (1 ≤ n ∧ n ≤ 65535)

/-- SWAIT and STAKE (R250): met at once when VALUE ≥ n. -/
def waitEff (take : Bool) (w : Nat) (x : Clu) : Eff :=
  let o := bits w 25 19
  let n := x.core.count (bits w 18 14)
  if bits w 12 0 != 0 then { clu := x, ctl := .fault 1 0 }
  else if n ≤ (x.obj o).value then
    { clu := if take then x.modObj o (fun y => { y with value := y.value - n }) else x, srcs := [bits w 18 14] }
  else
    { clu := x.on fun k => { k with st := .waiting take o n (bit w 13) }, ctl := .stay, srcs := [bits w 18 14], cost := 0 }

/-- SSIG (R250): SKIND 1 local, 2 device, 3 remote. -/
def ssigEff (c w : Nat) (x : Clu) : Eff :=
  let kind := bits w 25 24
  let o := bits w 23 12
  let n := x.core.count (bits w 11 7)
  let d := (x.core.reg (bits w 6 2)).toNat % 2 ^ 14
  if kind = 0 ∨ bits w 1 0 ≠ 0 then { clu := x, ctl := .fault 1 0 }
  else if !countOk n ∨ (kind = 1 ∧ o / 128 ≠ c) then { clu := x, ctl := .fault 9 0 }
  else { clu := x, post := .signal kind o n d, srcs := [bits w 11 7, bits w 6 2] }

/-- BAR (R251): the core waits at the barrier; HALTREQ stops it there (Table 7.9). -/
def barEff (w : Nat) (x : Clu) : Eff :=
  let mode := bits w 25 24
  if mode = 3 ∨ bits w 18 0 ≠ 0 then { clu := x, ctl := .fault 1 0 }
  else
    let x := if x.haltReq then { x with haltReq := false, halted := true } else x
    { clu := x.on fun k => { k with st := .barrier mode (k.count (bits w 23 19)) }, ctl := .stay, srcs := [bits w 23 19]
      cost := 0 }

/-- The command that an ISSUE writes (Table 8.9). -/
def issued (w w1 : Nat) (e : Nat) (x : Clu) : ECmd :=
  let k := x.core
  let wk := bits w1 31 30
  { eop := bits w 25 20, wkind := wk, wobj := bits w1 29 23
    wcnt := if wk = 0 then 0 else k.count (bits w 6 2)
    skind := bits w1 22 21, sobj := bits w1 20 9, scnt := bits w1 8 5
    sdev := (k.reg (bits w1 4 0)).toNat % 2 ^ 14
    seq := (x.q e).seq, opa := k.reg (bits w 19 15), opb := k.reg (bits w 14 10), pc := k.pc
    desc := if e = 2 ∨ e = 3 then zeros 64 else k.ag.getD (bits w 9 7) (zeros 64)
    sticky := k.sticky || k.regPois (bits w 19 15) || k.regPois (bits w 14 10), granted := wk == 0 }

/-- ISSUE (R210, R242, R243): while the queue holds 512 commands the core stalls. -/
def issueEff (c e w w1 : Nat) (x : Clu) : Eff :=
  let cmd := issued w w1 e x
  if bits w 1 0 ≠ 0 ∨ cmd.wkind = 3 then { clu := x, ctl := .fault 1 0 }
  else if cmd.skind ≠ 0 ∧ (cmd.scnt = 0 ∨ (cmd.skind = 1 ∧ cmd.sobj / 128 ≠ c)) then { clu := x, ctl := .fault 9 0 }
  else if 512 ≤ (x.q e).queue.length then { clu := x, ctl := .stay, cost := 0 }
  else
    let x := x.modQ e fun q => { q with queue := q.queue ++ [cmd], seq := (q.seq + 1) % 2 ^ 32 }
    { clu := x.on (Core.stick cmd.sticky), cost := 2
      srcs := [bits w 19 15, bits w 14 10, bits w 6 2, bits w1 4 0] }

/-- AGSET's change of a descriptor (Table 8.6, Table 8.7): none for a field number that is not listed. -/
def agSet (d : List Byte) (fld v : Nat) : Option (List Byte) :=
  if fld = 0 then some (patch d 0 (leBytes 8 v))
  else if fld = 1 then some (patch d 0xC (leBytes 2 v))
  else if 2 ≤ fld ∧ fld < 8 then some (patch d (0x10 + 8 * (fld - 2)) (leBytes 2 ((v + 65535) % 65536)))
  else if 8 ≤ fld ∧ fld < 14 then some (patch d (0x10 + 8 * (fld - 8) + 2) (leBytes 6 v))
  else none

def execAlu (c : Nat) (w : Word) (s : State) : Host.Outcome State Fault Refusal :=
  runCore c 0x00 w none (aluEff w.toNat) s

def execAddi (c : Nat) (w : Word) (s : State) : Host.Outcome State Fault Refusal :=
  runCore c 0x01 w none (immEff w.toNat (· + simm w.toNat)) s

def execAndi (c : Nat) (w : Word) (s : State) : Host.Outcome State Fault Refusal :=
  runCore c 0x02 w none (immEff w.toNat (· &&& zimm w.toNat)) s

def execOri (c : Nat) (w : Word) (s : State) : Host.Outcome State Fault Refusal :=
  runCore c 0x03 w none (immEff w.toNat (· ||| zimm w.toNat)) s

def execXori (c : Nat) (w : Word) (s : State) : Host.Outcome State Fault Refusal :=
  runCore c 0x04 w none (immEff w.toNat (· ^^^ zimm w.toNat)) s

def execSlli (c : Nat) (w : Word) (s : State) : Host.Outcome State Fault Refusal :=
  runCore c 0x05 w none (immEff w.toNat (· <<< shamt w.toNat)) s

def execSrli (c : Nat) (w : Word) (s : State) : Host.Outcome State Fault Refusal :=
  runCore c 0x06 w none (immEff w.toNat (· >>> shamt w.toNat)) s

def execSrai (c : Nat) (w : Word) (s : State) : Host.Outcome State Fault Refusal :=
  runCore c 0x07 w none (immEff w.toNat fun a => a.sshiftRight (shamt w.toNat)) s

/-- LI32: RD := word 1, sign-extended. Bits 20:0 of word 0 name nothing. -/
def execLi32 (c : Nat) (w w1 : Word) (s : State) : Host.Outcome State Fault Refusal :=
  runCore c 0x08 w (some w1) (fun x =>
    { clu := x.on (Core.setReg (rdOf w.toNat) (sext 32 w1.toNat) false), rd := rdOf w.toNat, cost := 2 }) s

/-- LIH: bits 63:32 of RD := word 1; bits 31:0 kept. -/
def execLih (c : Nat) (w w1 : Word) (s : State) : Host.Outcome State Fault Refusal :=
  runCore c 0x09 w (some w1) (fun x =>
    let r := rdOf w.toNat
    let v := BitVec.ofNat 64 ((x.core.reg r).toNat % 2 ^ 32 + w1.toNat * 2 ^ 32)
    { clu := x.on (Core.setReg r v (x.core.regPois r)), srcs := [r], rd := r, cost := 2 }) s

def execLd (c : Nat) (w : Word) (s : State) : Host.Outcome State Fault Refusal :=
  runCore c 0x10 w none (loadEff 8 w.toNat) s

def execLw (c : Nat) (w : Word) (s : State) : Host.Outcome State Fault Refusal :=
  runCore c 0x11 w none (loadEff 4 w.toNat) s

def execLh (c : Nat) (w : Word) (s : State) : Host.Outcome State Fault Refusal :=
  runCore c 0x12 w none (loadEff 2 w.toNat) s

def execLb (c : Nat) (w : Word) (s : State) : Host.Outcome State Fault Refusal :=
  runCore c 0x13 w none (loadEff 1 w.toNat) s

def execSt (c : Nat) (w : Word) (s : State) : Host.Outcome State Fault Refusal :=
  runCore c 0x14 w none (storeEff 8 w.toNat) s

def execSw (c : Nat) (w : Word) (s : State) : Host.Outcome State Fault Refusal :=
  runCore c 0x15 w none (storeEff 4 w.toNat) s

def execSh (c : Nat) (w : Word) (s : State) : Host.Outcome State Fault Refusal :=
  runCore c 0x16 w none (storeEff 2 w.toNat) s

def execSb (c : Nat) (w : Word) (s : State) : Host.Outcome State Fault Refusal :=
  runCore c 0x17 w none (storeEff 1 w.toNat) s

def execBeq (c : Nat) (w : Word) (s : State) : Host.Outcome State Fault Refusal :=
  runCore c 0x18 w none (branchEff w.toNat fun a b => a == b) s

def execBne (c : Nat) (w : Word) (s : State) : Host.Outcome State Fault Refusal :=
  runCore c 0x19 w none (branchEff w.toNat fun a b => a != b) s

def execBlt (c : Nat) (w : Word) (s : State) : Host.Outcome State Fault Refusal :=
  runCore c 0x1A w none (branchEff w.toNat fun a b => a.slt b) s

def execBge (c : Nat) (w : Word) (s : State) : Host.Outcome State Fault Refusal :=
  runCore c 0x1B w none (branchEff w.toNat fun a b => !a.slt b) s

def execBltu (c : Nat) (w : Word) (s : State) : Host.Outcome State Fault Refusal :=
  runCore c 0x1C w none (branchEff w.toNat fun a b => a.ult b) s

def execBgeu (c : Nat) (w : Word) (s : State) : Host.Outcome State Fault Refusal :=
  runCore c 0x1D w none (branchEff w.toNat fun a b => !a.ult b) s

/-- JAL: RD := address + 4; OFF is in words from the instruction's own address. -/
def execJal (c : Nat) (w : Word) (s : State) : Host.Outcome State Fault Refusal :=
  runCore c 0x1E w none (fun x =>
    let pc := BitVec.ofNat 64 x.core.pc
    { clu := x.on (Core.setReg (rdOf w.toNat) (pc + 4) false)
      ctl := .jump (pc + 4 * sext 21 (w.toNat % 2 ^ 21)).toNat, rd := rdOf w.toNat }) s

/-- JALR: PC := g[RS1] + 4 × IMM, read before RD is written. -/
def execJalr (c : Nat) (w : Word) (s : State) : Host.Outcome State Fault Refusal :=
  runCore c 0x1F w none (fun x =>
    let pc := BitVec.ofNat 64 x.core.pc
    let t := x.core.reg (rs1Of w.toNat) + 4 * simm w.toNat
    let p := x.core.regPois (rs1Of w.toNat)
    { clu := x.on fun k => (k.setReg (rdOf w.toNat) (pc + 4) false).stick p, ctl := .jump t.toNat
      srcs := [rs1Of w.toNat], rd := rdOf w.toNat }) s

def execLoop (c : Nat) (w : Word) (s : State) : Host.Outcome State Fault Refusal :=
  runCore c 0x20 w none (fun x =>
    let r := bits w.toNat 23 19
    if bits w.toNat 18 16 ≠ 0 then { clu := x, ctl := .fault 1 0 }
    else loopEff (bits w.toNat 25 24) (x.core.count r) (immOf w.toNat) (x.core.regPois r) [r] x) s

def execLoopi (c : Nat) (w : Word) (s : State) : Host.Outcome State Fault Refusal :=
  runCore c 0x21 w none (fun x =>
    loopEff (bits w.toNat 25 24) (bits w.toNat 23 12) (bits w.toNat 11 0) false [] x) s

/-- LCIDX: idx of an active counter, otherwise 0. -/
def execLcidx (c : Nat) (w : Word) (s : State) : Host.Outcome State Fault Refusal :=
  runCore c 0x22 w none (fun x =>
    if bits w.toNat 20 2 ≠ 0 then { clu := x, ctl := .fault 1 0 }
    else
      let i := match x.core.loops.find? fun l => l.lc == bits w.toNat 1 0 with
        | some l => l.idx
        | none => 0
      { clu := x.on (Core.setReg (rdOf w.toNat) (BitVec.ofNat 64 i) false), rd := rdOf w.toNat }) s

def execAgld (c : Nat) (w : Word) (s : State) : Host.Outcome State Fault Refusal :=
  runCore c 0x24 w none (fun x =>
    let a := agAddr w.toNat x.core
    let r := bits w.toNat 22 18
    if bits w.toNat 17 16 ≠ 0 then { clu := x, ctl := .fault 1 0 }
    else if !a.2 then { clu := x, ctl := .fault 2 0 }
    else
      let hurt := x.core.dmPois.any fun b => decide (a.1 ≤ b ∧ b < a.1 + 64)
      { clu := x.on fun k => Core.stick (k.regPois r || hurt) { k with
          ag := k.ag.set (bits w.toNat 25 23) (Mem.read 0 k.dm a.1 64) }
        srcs := [r], cost := 8 }) s

def execAgst (c : Nat) (w : Word) (s : State) : Host.Outcome State Fault Refusal :=
  runCore c 0x25 w none (fun x =>
    let a := agAddr w.toNat x.core
    let r := bits w.toNat 22 18
    if bits w.toNat 17 16 ≠ 0 then { clu := x, ctl := .fault 1 0 }
    else if !a.2 then { clu := x, ctl := .fault 2 0 }
    else
      { clu := x.on fun k => Core.stick (k.regPois r) { k with
          dm := Mem.write 0 k.dm a.1 (k.ag.getD (bits w.toNat 25 23) (zeros 64))
          dmPois := k.dmPois.filter fun b => !decide (a.1 ≤ b ∧ b < a.1 + 64) }
        srcs := [r], cost := 8 }) s

/-- AGSET: COUNT of a level is held less 1 (Table 8.7). -/
def execAgset (c : Nat) (w : Word) (s : State) : Host.Outcome State Fault Refusal :=
  runCore c 0x26 w none (fun x =>
    let n := bits w.toNat 25 23
    let r := bits w.toNat 22 18
    match (if bits w.toNat 13 0 = 0 then
        agSet (x.core.ag.getD n (zeros 64)) (bits w.toNat 17 14) (x.core.reg r).toNat else none) with
    | none => { clu := x, ctl := .fault 1 0 }
    | some d => { clu := x.on fun k => Core.stick (k.regPois r) { k with ag := k.ag.set n d }, srcs := [r] }) s

def execSwait (c : Nat) (w : Word) (s : State) : Host.Outcome State Fault Refusal :=
  runCore c 0x28 w none (waitEff false w.toNat) s

def execStake (c : Nat) (w : Word) (s : State) : Host.Outcome State Fault Refusal :=
  runCore c 0x29 w none (waitEff true w.toNat) s

def execSsig (c : Nat) (w : Word) (s : State) : Host.Outcome State Fault Refusal :=
  runCore c 0x2A w none (ssigEff c w.toNat) s

/-- SSET: VALUE of an own object := the low 32 bits of a register. -/
def execSset (c : Nat) (w : Word) (s : State) : Host.Outcome State Fault Refusal :=
  runCore c 0x2B w none (fun x =>
    let r := bits w.toNat 18 14
    if bits w.toNat 13 0 ≠ 0 then { clu := x, ctl := .fault 1 0 }
    else { clu := x.modObj (bits w.toNat 25 19) fun y => { y with value := x.core.count r }, srcs := [r] }) s

def execIssueF (c : Nat) (w w1 : Word) (s : State) : Host.Outcome State Fault Refusal :=
  runCore c 0x30 w (some w1) (issueEff c 0 w.toNat w1.toNat) s

def execIssueM (c : Nat) (w w1 : Word) (s : State) : Host.Outcome State Fault Refusal :=
  runCore c 0x31 w (some w1) (issueEff c 1 w.toNat w1.toNat) s

def execIssueV (c : Nat) (w w1 : Word) (s : State) : Host.Outcome State Fault Refusal :=
  runCore c 0x32 w (some w1) (issueEff c 2 w.toNat w1.toNat) s

def execIssueH (c : Nat) (w w1 : Word) (s : State) : Host.Outcome State Fault Refusal :=
  runCore c 0x33 w (some w1) (issueEff c 3 w.toNat w1.toNat) s

def execIssueS (c : Nat) (w w1 : Word) (s : State) : Host.Outcome State Fault Refusal :=
  runCore c 0x34 w (some w1) (issueEff c 4 w.toNat w1.toNat) s

/-- BAR in DRAIN mode; the invalid mode 11b faults here as well. -/
def execBarDrain (c : Nat) (w : Word) (s : State) : Host.Outcome State Fault Refusal :=
  if bits w.toNat 25 24 = 1 ∨ bits w.toNat 25 24 = 2 then (if s.hasClu c then .next s else .fault .absentUnit)
  else runCore c 0x38 w none (barEff w.toNat) s

def execBarStage (c : Nat) (w : Word) (s : State) : Host.Outcome State Fault Refusal :=
  if bits w.toNat 25 24 ≠ 1 then (if s.hasClu c then .next s else .fault .absentUnit)
  else runCore c 0x38 w none (barEff w.toNat) s

def execBarEnd (c : Nat) (w : Word) (s : State) : Host.Outcome State Fault Refusal :=
  if bits w.toNat 25 24 ≠ 2 then (if s.hasClu c then .next s else .fault .absentUnit)
  else runCore c 0x38 w none (barEff w.toNat) s

/-- RECB: clears PSTICKY (R226, R252). -/
def execRecb (c : Nat) (w : Word) (s : State) : Host.Outcome State Fault Refusal :=
  runCore c 0x39 w none (fun x =>
    if bits w.toNat 25 0 ≠ 0 then { clu := x, ctl := .fault 1 0 }
    else { clu := x.on fun k => { k with sticky := false } }) s

/-- VERD: the verdict for the next record; only in a scan program (R252). -/
def execVerd (c : Nat) (w : Word) (s : State) : Host.Outcome State Fault Refusal :=
  runCore c 0x3A w none (fun x =>
    let r := rdOf w.toNat
    if bits w.toNat 20 0 ≠ 0 then { clu := x, ctl := .fault 1 0 }
    else if x.imkind ≠ 1 then { clu := x, ctl := .fault 0xC 0 }
    else { clu := x.on fun k => { k with verds := k.verds ++ [(k.reg r != 0, k.sticky || k.regPois r)] }, srcs := [r] }) s

/-- RDCYC: RD := the context's cycle count. -/
def execRdcyc (c : Nat) (w : Word) (s : State) : Host.Outcome State Fault Refusal :=
  runCore c 0x3B w none (fun x =>
    if bits w.toNat 20 0 ≠ 0 then { clu := x, ctl := .fault 1 0 }
    else { clu := x.on (Core.setReg (rdOf w.toNat) (BitVec.ofNat 64 x.core.cycles) false), rd := rdOf w.toNat }) s

/-- TRAP: cause 0Ah with CODE. -/
def execTrap (c : Nat) (w : Word) (s : State) : Host.Outcome State Fault Refusal :=
  runCore c 0x3C w none (fun x =>
    if bits w.toNat 25 16 ≠ 0 then { clu := x, ctl := .fault 1 0 } else { clu := x, ctl := .fault 0xA (immOf w.toNat) }) s

/-- Whether the resources that a command names are free (R211): fewer than 8 transfers outstanding, the arrays of a matrix command, a vector
or Hamming engine that runs no command. -/
def engineFree (e : Nat) (x : Clu) (k : ECmd) : Bool :=
  if e == 0 || e == 4 then decide ((x.q e).out < 8)
  else if e == 1 then (x.q 1).act.all fun a => a.fin || a.arrays &&& field k.desc 0 2 == 0
  else (x.q e).out == 0

/-- The waiters of a cluster on an object that can be granted now, in the order of R220: 5 stands for the core, 0 to 4 for
the head of an engine's queue. -/
def waiterMet (x : Clu) (who : Nat) : Bool :=
  if who == 5 then
    match x.core.st with
    | .waiting _ o n _ => decide (n ≤ (x.obj o).value)
    | _ => false
  else
    match (x.q who).queue.head? with
    | some k => !k.granted && decide (k.wcnt ≤ (x.obj k.wobj).value) && engineFree who x k
    | none => false

/-- Control core, fetch, matrix, vector, Hamming, store (R220). -/
def grantOrder : List Nat := [5, 0, 1, 2, 3, 4]

/-- The object a waiter waits for. -/
def waiterObj (x : Clu) (who : Nat) : Nat :=
  if who == 5 then (match x.core.st with | .waiting _ o _ _ => o | _ => 128)
  else match (x.q who).queue.head? with | some k => k.wobj | none => 128

/-- Grant a waiter: a TAKE subtracts its count (Table 7.3); the wait of the core retires (Table 8.13). -/
def grant (who : Nat) (x : Clu) : Clu :=
  if who == 5 then
    match x.core.st with
    | .waiting take o n _ =>
      let x := if take then x.modObj o (fun y => { y with value := y.value - n }) else x
      x.modCore fun k => { k with st := .running, cycles := k.cycles + 1 }.advance 4
    | _ => x
  else
    match (x.q who).queue with
    | k :: ks =>
      let x := if k.wkind == 2 then x.modObj k.wobj (fun y => { y with value := y.value - k.wcnt }) else x
      x.modQ who fun q => { q with queue := { k with granted := true } :: ks }
    | [] => x

/-- SYNC_WAIT_MET: the first waiter of R220's order whose wait is met is granted and resumes. -/
def execSyncWaitMet (c : Nat) (s : State) : Host.Outcome State Fault Refusal :=
  if !s.hasClu c then .fault .absentUnit
  else
    let x := s.clu c
    if !x.run || (match s.jobPart c with | some p => s.tearing p | none => true) then .next s
    else match grantOrder.find? (waiterMet x) with
      | some w => .next (modClu c (fun y => grant w y) s)
      | none => .next s

/-- DEVICE_SIGNAL: the oldest signal on its way to the object arrives; it is dropped when its CTXGEN is not the object's (R222), and
refused on overflow (R219). -/
def execDeviceSignal (o : Nat) (s : State) : Host.Outcome State Fault Refusal :=
  if !s.hasClu (o / 128) then .fault .absentUnit
  else match s.sigs.find? fun g => g.obj == o with
    | none => .next s
    | some g =>
      let s := s.modSigs fun l => l.eraseP fun x => x.obj == o
      if g.ctxgen != (s.clu (o / 128)).ctxgen then .next (dropSignal o s)
      else .next (applySignal o g.n 0x3FFF g.clu s)

end Sys2Proof.Machine
end

