-- ==== Sys2Proof/Machine/Transfers.lean ====
section
/-! DEFINITION. Engine queues, and the fetch and store engines (R211 to R215, R240 to R246, R249). -/

namespace Sys2Proof.Machine

/-- Whether a cluster's context runs and is not being torn down. -/
def State.active (s : State) (c : Nat) : Bool :=
  (s.clu c).run && (match s.jobPart c with | some p => !s.tearing p && !(s.part p).resetting | none => false)

/-- Whether the head of an engine's queue may start as far as its wait goes (R211, R220): granted, or met now with no waiter
before it in R220's order that the same object could serve. -/
def waitOk (x : Clu) (e : Nat) (k : ECmd) : Bool :=
  k.granted || (decide (k.wcnt ≤ (x.obj k.wobj).value) &&
    (grantOrder.takeWhile (· != e)).all fun w => !(waiterMet x w && waiterObj x w == k.wobj))

/-- The head of an engine's queue, when an operation of `ops` can start it now: `free` says that its resources are free. -/
def startable (c e : Nat) (ops : Nat → Bool) (free : Clu → ECmd → Bool) (s : State) : Option ECmd :=
  if s.active c then
    let x := s.clu c
    match (x.q e).queue.head? with
    | some k => if ops k.eop && waitOk x e k && free x k then some k else none
    | none => none
  else none

/-- Take the head off the queue as it starts: its TAKE subtracts, it becomes active. -/
def begin_ (c e arrays : Nat) (k : ECmd) (s : State) : State :=
  modClu c (fun x =>
    let x := if k.granted then x else grant e x
    x.modQ e fun q => { q with queue := q.queue.drop 1, act := q.act ++ [⟨k, false, [], arrays⟩] }) s

/-- Apply the signals of the commands that have finished, in queue order (R212). `n` bounds the commands. -/
def applyFinished (c e : Nat) : Nat → State → State
  | 0, s => s
  | n + 1, s =>
    match ((s.clu c).q e).act with
    | a :: as =>
      if a.fin then
        let s := modClu c (Clu.modQ e fun q => { q with act := as }) s
        applyFinished c e n (sendSignal c e a.cmd.seq a.cmd.skind a.cmd.sobj a.cmd.scnt a.cmd.sdev s)
      else s
    | [] => s

/-- A started command finishes: it holds its signal until those before it have applied theirs; in a context that is being torn
down it sends none (R228). -/
def finish (c e seq : Nat) (s : State) : State :=
  let tear := !s.active c
  let s := modClu c (fun x => x.modQ e fun q => { q with
    act := if tear then q.act.filter (fun a => a.cmd.seq != seq)
      else q.act.map fun a => if a.cmd.seq == seq then { a with fin := true } else a }) s
  if tear then s else applyFinished c e ((s.clu c).q e).act.length s

/-- An address-generator descriptor (Table 8.7). -/
structure AgDesc where
  base : Nat
  space : Nat
  nlev : Nat
  elem : Nat
  peer : Nat
  levels : List (Nat × Int)
  ok : Bool

/-- Read a descriptor; `ok` is false for a reserved bit, or NLEV, ELEM, BASE or STRIDE out of range (cause 05h). -/
def agDesc (d : List Byte) : AgDesc :=
  let n := field d 9 1
  let lv := (List.range n).map fun l =>
    (field d (0x10 + 8 * l) 2 + 1, signedN 48 (field d (0x12 + 8 * l) 6))
  let b := field d 0 8
  { base := b % 2 ^ 48, space := field d 8 1, nlev := n, elem := field d 0xA 2, peer := field d 0xC 2 % 2 ^ 14
    levels := lv
    ok := b / 2 ^ 48 == 0 && b % 64 == 0 && decide (1 ≤ n ∧ n ≤ 6) && field d 0xA 2 != 0 &&
      field d 0xC 2 / 2 ^ 14 == 0 && field d 0xE 2 == 0 && lv.all fun l => l.2 % 64 == 0 }

/-- The start addresses of the elements, level 0 varying fastest (R241). -/
def elemAddrs (start : Int) (levels : List (Nat × Int)) : List Int :=
  levels.reverse.foldl (fun as l => as.flatMap fun a => (List.range l.1).map fun (i : Nat) => a + (i : Int) * l.2) [start]

/-- The number of elements, and the lowest start and highest end of the footprint. -/
def AgDesc.count (d : AgDesc) : Nat := d.levels.foldl (fun n l => n * l.1) 1
def AgDesc.low (d : AgDesc) (off : Int) : Int :=
  d.levels.foldl (fun (a : Int) (l : Nat × Int) => if l.2 < 0 then a + ((l.1 - 1 : Nat) : Int) * l.2 else a)
    ((d.base : Int) + off)
def AgDesc.high (d : AgDesc) (off : Int) : Int :=
  d.levels.foldl (fun (a : Int) (l : Nat × Int) => if 0 < l.2 then a + ((l.1 - 1 : Nat) : Int) * l.2 else a)
    ((d.base : Int) + off) + d.elem * 64

/-- The regions of the job that runs on a cluster (Table 8.3), and its input bytes. -/
def State.regionsOf (s : State) (c : Nat) : List (Nat × Nat) :=
  match s.runOf c with
  | some r => r.regions
  | none => []
def State.inputBytes (s : State) (c : Nat) : List Byte :=
  match s.runOf c with
  | some r => inputOf r.job.cmd
  | none => []

/-- Whether a footprint lies where its space allows (R241). -/
def footOk (s : State) (c space : Nat) (lo hi : Int) : Bool :=
  decide (0 ≤ lo) &&
  (if space == 0 then
    (s.regionsOf c).any fun r => decide ((r.1 : Int) ≤ lo ∧ hi ≤ r.1 + r.2) && r.2 != 0
  else if space == 1 then decide (hi ≤ s.variant.stSlots * 65536)
  else if space == 3 then decide (hi ≤ roundUp (s.inputBytes c).length 64)
  else true)

/-- A tile address operand: bits 23:0 from `lo`, a multiple of 64; none otherwise. -/
def tileOf (v : BitVec 64) (lo : Nat) : Option Nat :=
  let a := (v.toNat >>> lo) % 2 ^ 24
  if a % 64 = 0 then some a else none

/-- OPA as the signed offset OFF. -/
def offOf (k : ECmd) : Int := k.opa.toInt

/-- The elements of a transfer: address in its space and tile address of each, in generation order; or the cause of R257. -/
def xferElems (s : State) (c e : Nat) (k : ECmd) : Except Nat (AgDesc × List (Int × Nat)) :=
  let d := agDesc k.desc
  let gather := e == 0 && k.eop == 1
  let spaces := if e == 4 then [0, 2, 4] else if k.eop == 2 then [1] else [0, 1, 2, 3]
  if !d.ok || !spaces.contains d.space || (gather && d.nlev != 1) then .error 5
  else
    let len := d.elem * 64 * d.count
    if 4 * 2 ^ 20 < len then .error 7
    else
      match tileOf k.opb 0, (if gather then tileOf k.opb 32 else some 0) with
      | some t, some l =>
        if 2 ^ 24 < t + len ∨ (gather ∧ 2 ^ 24 < l + 8 * d.count) then .error 7
        else
          let x := s.clu c
          let list := (List.range d.count).map fun i => leNat (x.tileRead (l + 8 * i) 8)
          let starts := if gather then list.map fun (o : Nat) => d.base + offOf k + (o : Int)
            else elemAddrs (d.base + offOf k) d.levels
          let size : Int := d.elem * 64
          let lo := if gather then starts.foldl min (starts.headD 0) else d.low (offOf k)
          let hi := if gather then starts.foldl max (starts.headD 0) + size else d.high (offOf k)
          if gather && (list.any (fun o => o % 64 != 0) || starts.any fun a => a % 64 != 0) then .error 8
          else if !footOk s c d.space lo hi then .error 6
          else .ok (d, starts.zipIdx.map fun p => (p.1, t + p.2 * (d.elem * 64)))
      | _, _ => .error 8

/-- Pieces of at most 8,192 bytes of the elements of a remote transfer (Table 13.5): address, tile address, length. -/
def piecesOf (elem : Nat) (es : List (Int × Nat)) : List (Nat × Nat × Nat) :=
  es.flatMap fun p => (List.range ((elem * 64 + 8191) / 8192)).map fun i =>
    (p.1.toNat + 8192 * i, p.2 + 8192 * i, min 8192 (elem * 64 - 8192 * i))

/-- Start a fetch (R244, R249): an invalid command faults the context; a peer's data is asked for by RREAD, which carries the
length in its payload (DESIGN CHOICE, log 32). -/
def startFetch (c : Nat) (k : ECmd) (s : State) : State :=
  match xferElems s c 0 k with
  | .error cause => contextFault c k.pc cause 0 s
  | .ok (d, es) =>
    let s := begin_ c 0 0 k s
    if d.space == 2 then
      let ps := piecesOf d.elem es
      let msgs := ps.map fun p =>
        { s.opMsg 0x12 d.peer c 0 0 with addr := BitVec.ofNat 64 p.1, payload := leBytes 8 p.2.2 }
      startOp c 0 k.seq d.peer 0 ps msgs s
    else s

/-- The poisoned granules, counted from the start, of `n` bytes at a tile address. -/
def Clu.poisAt (x : Clu) (a n : Nat) : List Nat :=
  (x.tpois.filter fun g => decide (a / 64 ≤ g ∧ g * 64 < a + n)).map (· - a / 64)

/-- The records that a VAPPEND packs: each with its length at byte 0; or the cause of R257 when a length is invalid or a record passes
the end of tile memory (R244). -/
def vrecords (x : Clu) : Nat → Nat → Except Nat (List (Nat × Nat))
  | 0, _ => .ok []
  | n + 1, a =>
    let len := leNat (x.tileRead a 4)
    if len % 8 ≠ 0 ∨ len < 16 then .error 8
    else if 2 ^ 24 < a + len then .error 7
    else match vrecords x n (a + len) with
      | .ok l => .ok ((a, len) :: l)
      | .error e => .error e

/-- The records of an APPEND or VAPPEND: tile address, length and the offset of the item ID; or the cause of R257. -/
def appended (x : Clu) (k : ECmd) : Except Nat (List (Nat × Nat × Nat)) :=
  let n := k.opa.toNat % 2 ^ 32
  match tileOf k.opb 0 with
  | none => .error 8
  | some t =>
    if k.eop == 1 then
      let rsz := (k.opb.toNat >>> 32) % 65536
      if rsz < 8 ∨ rsz % 8 ≠ 0 then .error 8
      else if 2 ^ 24 < t + n * rsz then .error 7
      else .ok ((List.range n).map fun i => (t + i * rsz, rsz, 0))
    else if 2 ^ 24 < t + 16 * n then .error 7
    else match vrecords x n t with
      | .ok l => .ok (l.map fun p => (p.1, p.2, 8))
      | .error e => .error e

/-- Start a store (R244, R249). A peer's data goes out as RWRITE. -/
def startStore (c : Nat) (k : ECmd) (s : State) : State :=
  let x := s.clu c
  if k.eop == 0 then
    match xferElems s c 4 k with
    | .error cause => contextFault c k.pc cause 0 s
    | .ok (d, es) =>
      let s := begin_ c 4 0 k s
      if d.space == 2 then
        let ps := piecesOf d.elem es
        let msgs := ps.map fun p =>
          { s.opMsg 0x14 d.peer c 4 0 with
            addr := BitVec.ofNat 64 p.1, payload := x.tileRead p.2.1 p.2.2
            poison := if k.sticky then List.range (p.2.2 / 64) else x.poisAt p.2.1 p.2.2 }
        startOp c 4 k.seq d.peer 1 [] msgs s
      else s
  else if k.eop == 1 || k.eop == 2 then
    match appended x k with
    | .error cause => contextFault c k.pc cause 0 s
    | .ok _ => begin_ c 4 0 k s
  else if k.eop == 3 then
    let n := k.opa.toNat % 2 ^ 32
    match tileOf k.opb 0 with
    | none => contextFault c k.pc 8 0 s
    | some t => if 2 ^ 24 < t + 8 * n then contextFault c k.pc 7 0 s else begin_ c 4 0 k s
  else contextFault c k.pc 8 0 s

/-- The rows that start a fetch or store. The first row of an engine also takes a head whose EOP no table lists. -/
def runFetch (c : Nat) (ops : Nat → Bool) (s : State) : Host.Outcome State Fault Refusal :=
  if !s.hasClu c then .fault .absentUnit
  else match startable c 0 ops (engineFree 0) s with
    | some k => .next (if k.eop ≤ 2 then startFetch c k s else contextFault c k.pc 8 0 s)
    | none => .next s
def runStore (c : Nat) (ops : Nat → Bool) (s : State) : Host.Outcome State Fault Refusal :=
  if !s.hasClu c then .fault .absentUnit
  else match startable c 4 ops (engineFree 4) s with
    | some k => .next (startStore c k s)
    | none => .next s

def execFetchCopy (c : Nat) (s : State) : Host.Outcome State Fault Refusal :=
  runFetch c (fun e => e == 0 || decide (2 < e)) s

def execFetchGather (c : Nat) (s : State) : Host.Outcome State Fault Refusal := runFetch c (· == 1) s

def execFetchCopyrel (c : Nat) (s : State) : Host.Outcome State Fault Refusal := runFetch c (· == 2) s

def execStoreCopy (c : Nat) (s : State) : Host.Outcome State Fault Refusal :=
  runStore c (fun e => e == 0 || decide (3 < e)) s

def execStoreAppend (c : Nat) (s : State) : Host.Outcome State Fault Refusal := runStore c (· == 1) s

def execStoreVappend (c : Nat) (s : State) : Host.Outcome State Fault Refusal := runStore c (· == 2) s

def execStorePlist (c : Nat) (s : State) : Host.Outcome State Fault Refusal := runStore c (· == 3) s

/-- `n` bytes of a space of Table 8.8 with the poisoned granules among them, counted from the start. What the Reservoir did not deliver
to the cluster has no stated value (R330, log 9). -/
def sourceRead (s : State) (c space a n : Nat) : List Byte × List Nat :=
  let near := fun (l : List Nat) => (l.filter fun g => decide (a / 64 ≤ g ∧ g * 64 < a + n)).map (· - a / 64)
  if space == 1 then (Mem.read 0 (s.clu c).ring.mem a n, near (s.clu c).ring.pois)
  else if space == 3 then (slice (s.inputBytes c) a n, [])
  else
    let hurt := s.resv.undelivered.filter fun u => u.1 == c && decide (a / 64 ≤ u.2.1 ∧ u.2.1 * 64 < a + n)
    let bs := hurt.foldl (fun bs u => patch bs ((u.2.1 - a / 64) * 64) (freeBytes u.2.2 64)) (Mem.read 0 s.resv.mem a n)
    (bs, sortDedup (near s.resv.poison ++ hurt.map fun u => u.2.1 - a / 64))

/-- Write bytes and poison into the Reservoir; a clean granule loses its poison (R224). -/
def resvWrite (a : Nat) (bs : List Byte) (pois : List Nat) (s : State) : State :=
  s.modResv fun r => { r with
    mem := Mem.write 0 r.mem a bs
    poison := (r.poison.filter fun g => !decide (a / 64 ≤ g ∧ g * 64 < a + bs.length)) ++ pois.map (· + a / 64) }

/-- Write bytes into tile memory with the poison of each granule. -/
def Clu.tileFill (a : Nat) (bs : List Byte) (pois : List Nat) (x : Clu) : Clu :=
  pois.foldl (fun x g => x.setPois (a / 64 + g) 1 true) (x.tileWrite a bs false)

/-- Add item IDs to the poison list, each once (R107, R227), and count those that enter it for a cluster. With POISTRICT the first
ends the command. -/
def addPoison (p c : Nat) (ids : List Nat) (s : State) : State :=
  ids.foldl (fun s id =>
    match (s.part p).run with
    | some r =>
      if r.poison.contains id then s
      else
        let s := modClu c (fun x => { x with poisProp := sat32 x.poisProp })
          (modRun p (fun r => { r with poison := r.poison ++ [id] }) s)
        if poistrictOf r.job.cmd then tearJob p .poisonedResult s else s
    | none => s) s

/-- Bytes written at an offset of the record area; what was not written inside it reads as zero (R246). -/
def outWrite (out : List Byte) (off : Nat) (bs : List Byte) : List Byte :=
  (out ++ zeros (off - out.length)).take off ++ bs ++ out.drop (off + bs.length)

/-- The slots whose last byte the reads covered are released (COPYREL, R245): slot k of the frames staged. -/
def releaseSlots (slots : Nat) (spans : List (Nat × Nat)) (r : Ring) : Ring :=
  let hit := (List.range slots).filter fun i => spans.any fun p =>
    decide (p.1 ≤ i * 65536 + 65535 ∧ i * 65536 + 65535 < p.1 + p.2)
  let ks := (List.range r.staged).filter fun k => hit.contains (k % slots) && !r.released.contains k
  { r with released := r.released ++ ks
           mem := hit.foldl (fun m i => Mem.clear m (i * 65536) 65536) r.mem
           pois := r.pois.filter fun g => !hit.contains (g / 1024) }

/-- The data of a local fetch moves (R213); see log 12 (DESIGN CHOICE). -/
def moveFetch (c : Nat) (k : ECmd) (s : State) : State :=
  match xferElems s c 0 k with
  | .error _ => s
  | .ok (d, es) =>
    if d.space == 2 then s
    else
      let n := d.elem * 64
      let s := es.foldl (fun s p =>
        let r := sourceRead s c d.space p.1.toNat n
        modClu c (Clu.tileFill p.2 r.1 (if k.sticky then List.range d.elem else r.2)) s) s
      let s := if d.space == 0 then s.modResv fun r => { r with undelivered := r.undelivered.filter fun u =>
          !(u.1 == c && es.any fun p => decide (p.1.toNat / 64 ≤ u.2.1 ∧ u.2.1 * 64 < p.1.toNat + n)) } else s
      if k.eop == 2 then
        modClu c (fun x => { x with ring := releaseSlots s.variant.stSlots (es.map fun p => (p.1.toNat, n)) x.ring }) s
      else s

/-- The data of a local store moves (R213, R227, R246). -/
def moveStore (c : Nat) (k : ECmd) (s : State) : State :=
  match s.jobPart c with
  | none => s
  | some p =>
    let x := s.clu c
    if k.eop == 0 then
      match xferElems s c 4 k with
      | .error _ => s
      | .ok (d, es) =>
        let n := d.elem * 64
        if d.space == 2 then s
        else es.foldl (fun s e =>
          let bs := x.tileRead e.2 n
          let ps := if k.sticky then List.range d.elem else x.poisAt e.2 n
          if d.space == 0 then resvWrite e.1.toNat bs ps s
          else
            let s := modRun p (fun r => { r with out := outWrite r.out e.1.toNat bs }) s
            addPoison p c (ps.map fun g => 0xC000000000000000 + 0x40 + e.1.toNat + 64 * g) s) s
    else if k.eop == 3 then
      match tileOf k.opb 0 with
      | none => s
      | some t =>
        addPoison p c ((List.range (k.opa.toNat % 2 ^ 32)).map fun i => leNat (x.tileRead (t + 8 * i) 8)) s
    else
      match appended x k with
      | .error _ => s
      | .ok rs =>
        let bs := rs.flatMap fun r => x.tileRead r.1 r.2.1
        let hurt := (rs.filter fun r => k.sticky || x.poisIn r.1 r.2.1).map fun r => leNat (x.tileRead (r.1 + r.2.2) 8)
        let s := modRun p (fun r => { r with
          out := outWrite r.out r.cursor bs, cursor := r.cursor + bs.length, nrec := r.nrec + rs.length
          marks := r.marks ++ (rs.foldl (fun (a : Nat × List (Nat × Nat × Bool)) q =>
            (a.1 + q.2.1, a.2 ++ [(a.1, q.2.1, k.eop == 2)])) (r.cursor, [])).2 }) s
        addPoison p c hurt s

/-- TRANSFER_COMPLETE: the last granule of a started transfer is written. A transfer with a peer ends with its last reply; its
data has moved with the replies. -/
def execTransferComplete (c : Nat) (e : Engine) (seq : Nat) (s : State) : Host.Outcome State Fault Refusal :=
  if !s.hasClu c then .fault .absentUnit
  else
    let i := engIdx e
    match (if i == 0 || i == 4 then ((s.clu c).q i).act.find? fun a => a.cmd.seq == seq && !a.fin && a.ops.isEmpty
      else none) with
    | none => .next s
    | some a =>
      if s.active c then .next (finish c i seq (if i == 0 then moveFetch c a.cmd s else moveStore c a.cmd s))
      else .next (finish c i seq s)

/-- ENGINE_COMMAND_FINISH: the vector or Hamming command that runs finishes. -/
def execEngineCommandFinish (c : Nat) (e : Engine) (s : State) : Host.Outcome State Fault Refusal :=
  if !s.hasClu c then .fault .absentUnit
  else
    let i := engIdx e
    match (if i == 2 || i == 3 then ((s.clu c).q i).act.find? fun a => !a.fin else none) with
    | none => .next s
    | some a => .next (finish c i a.cmd.seq s)

end Sys2Proof.Machine
end

