-- ==== Sys2Proof/Machine/JobSteps.lean ====
section
/-! DEFINITION. What the events of jobs do: load ends, batch steps, watchdogs, teardown and reset ends, barriers, staged frames
(R208, R223, R228, R245, R251, R298, R303, R307 to R313). -/

namespace Sys2Proof.Machine

/-- The wait for quiescence has run out (R208): the waiting job completes with Program Busy. -/
def quiescenceOut (p : Nat) (s : State) : State :=
  match (s.part p).sel with
  | some j =>
    let cs := (s.clustersOf p).filter fun c => (s.clu c).reloadWait
    if cs.isEmpty then s
    else
      let s := cs.foldl (fun s c => modClu c (fun x => { x with reloadWait := false }) s) s
      kick p (endFor j .programBusy 0 0 (takeJob j s))
  | none => s

/-- Bytes that ask for a mirror as index heads (header, centroids, codebooks, plot tables) and as images of hot-set models (Table 11.4). -/
def State.headBytes (s : State) : Nat :=
  sumOf (s.idx.map fun ix => ix.regionOff 4 * 65536) +
  sumOf (s.store.hot.map fun h => match s.stored? h.id with
    | some o => if h.loading then 0 else sumOf ((pkgImages o).map (·.length))
    | none => 0)

/-- What was loaded last beyond 8 GiB is not mirrored, and counts (R326). -/
def countMirror (s : State) : State :=
  if s.variant == .d1024 && decide (2 ^ 33 < s.headBytes) then s.modResv fun r => { r with mirSkip := sat32 r.mirSkip } else s

/-- Units of 4 KiB of a package that the store could not deliver reach the Reservoir poisoned, as zero bytes (R317). -/
def poisonPackage (m : Nat) (s : State) : State :=
  match s.resv.units.find? fun u => u.cls == 3 && u.key == m with
  | none => s
  | some u =>
    let gs := (sortDedup ((s.store.lost.filter fun x => x.1 == m).map (·.2))).flatMap fun k => if k * 4096 < u.bytes then (List.range 64).map (· + poolBase u.order / 64 + 64 * k) else []
    s.modResv fun r => { r with poison := r.poison ++ gs.filter fun g => !r.poison.contains g }

/-- A model load completes (R303): the model is resident, its age runs from now, waiting loads start; the units of its
package that the store lost reach the Reservoir poisoned (R317). -/
def loadDone (m : Nat) (s : State) : State :=
  match s.hot? m with
  | none => s
  | some h =>
    if !h.loading then s
    else
      let s := poisonPackage m s
      let s := modUnit 3 m (fun u => { u with users := u.users - 1, age := s.now }) (modHot m (fun h => { h with loading := false }) s)
      let s := pumpLoads (s.store.loadQ.length + 1) s
      kickAll (endPins m .success (countMirror s))

/-- The cycles of a step charged to the members active in it (R309). -/
def chargeStep (p : Nat) (o : Stored) (b : Batch) (s : State) : State :=
  let t := sumOf (b.active.map (stepTokens o))
  let mine := fun (m : Member) => sumOf ((b.active.filter fun x => (x.sqid, x.cid) == (m.job.sqid, m.job.cid)).map (stepTokens o))
  let act := b.members.filter fun m => b.active.any fun x => (x.sqid, x.cid) == (m.job.sqid, m.job.cid)
  let shares := act.map fun m => (m.job, if t = 0 then 0 else b.cycles * mine m / t)
  let rest := b.cycles - sumOf (shares.map (·.2))
  let first := (sortBy (fun x => x.1.order) shares).head?
  let all := shares ++ (match first with | some f => [(f.1, rest)] | none => [])
  all.foldl (fun s x => chargeQueue p x.1.jq x.2 s) s

/-- The sequences that finished leave, their records go to their members (R307 step 1). -/
def leaveStep (o : Stored) (b : Batch) : Batch :=
  let after := afterStep o b.active
  let gone := after.filter fun x => x.left == 0
  { b with
    active := after.filter fun x => x.left != 0
    members := b.members.map fun m => { m with
      done := m.done ++ (gone.filter fun x => (x.sqid, x.cid) == (m.job.sqid, m.job.cid)).map fun x => (x.ord, x.item) } }

/-- The tiles of the sequences that leave count (R279). -/
def leaveTiles (o : Stored) (b : Batch) (s : State) : State :=
  ((afterStep o b.active).filter fun x => x.left == 0).foldl (fun s x =>
    match b.members.find? fun m => (x.sqid, x.cid) == (m.job.sqid, m.job.cid) with
    | none => s
    | some m => match m.job.stages.head? with
      | none => s
      | some d =>
        let pr := m.job.cmd.params
        countTiles b.clusters (drainedTiles (d.pol pr) (tilesOf o m.schema pr d x.item)) s) s

/-- The records of a step that poisoned weights have touched are listed for their members (R107). -/
def stepPoison (p : Nat) (b : Batch) (s : State) : State :=
  if s.weightHurt b.clusters b.model b.copy then
    let mine := fun (m : Member) => (b.active.filter fun x => (x.sqid, x.cid) == (m.job.sqid, m.job.cid)).map (·.item.id)
    modBatch p (fun b => { b with members := b.members.map fun m => { m with
      poison := m.poison ++ (mine m).filter fun i => !m.poison.contains i } }) (metUndelivered b.clusters (s.modelUnits b.model b.copy) s)
  else s

/-- The members that an Abort caught leave at a step boundary (R313). -/
def dropLeavers (p : Nat) (s : State) : State :=
  match (s.part p).batch with
  | none => s
  | some b =>
    let ls := b.members.filter fun m => m.leaving.isSome
    let gone := fun (x : BSeq) => ls.any fun m => (x.sqid, x.cid) == (m.job.sqid, m.job.cid)
    let s := modBatch p (fun b => { b with active := b.active.filter fun x => !gone x }) s
    ls.foldl (fun s m => endFor m.job (m.leaving.getD .abortRequested) 0 0 (leaveBatch p b.copy m s)) s

/-- The end of a batch step (R307): a cluster whose instruction memory was loaded anew faults at its next fetch (R206, R209). -/
def stepEnd (p : Nat) (s : State) : State :=
  match (s.part p).batch with
  | none => s
  | some b =>
    if b.teardown.isSome then s
    else match b.clusters.find? fun c => (s.clu c).gen != (s.clu c).imgen with
      | some c => genFault c s
      | none =>
        let o := batchModel b
        let s := stepPoison p b (chargeStep p o b s)
        let s := modBatch p (fun b => { leaveStep o b with cycles := 0 }) (leaveTiles o b s)
        let b := (s.part p).batch.getD b
        let s := b.members.foldl (fun s m => writeLeft p o m s) s
        match stepFault o b with
        | some st => tearJob p st s
        | none => nextStep p (dropLeavers p s)

/-- A job that overran (R298, R308) or hung (R223): the fault, and the teardown with Job Watchdog. -/
def overrun (p kind inst : Nat) (s : State) : State := contextError p { kind := kind, inst := inst } .jobWatchdog s

/-- The job watchdog (R298): its count has reached W. -/
def jobWatch (p : Nat) (s : State) : State :=
  match (s.part p).run with
  | none => s
  | some r =>
    if r.teardown.isSome || (s.part p).resetting then s
    else overrun p 0xA 0xFFFF (modRun p (fun r => { r with cycles := max r.cycles r.limit }) s)

/-- A step's watchdog (R308). -/
def stepWatch (p : Nat) (s : State) : State :=
  match (s.part p).batch with
  | none => s
  | some b =>
    if b.teardown.isSome || (s.part p).resetting then s
    else overrun p 0xA 0xFFFF (modBatch p (fun b => { b with cycles := max b.cycles b.limit }) s)

/-- Whether a cluster's core is hung but for the time (R223): it runs or waits, not for a remote signaller, and no transfer or remote operation
is outstanding. -/
def State.mayHang (s : State) (c : Nat) : Bool :=
  let x := s.clu c
  x.run && (match x.core.st with
    | .running => true
    | .barrier _ _ => true
    | .waiting _ _ _ remote => !remote
    | _ => false) &&
  (x.q 0).out == 0 && (x.q 4).out == 0 && (s.remoteOf c).isEmpty &&
  (match s.jobPart c with | some p => !s.tearing p && !(s.part p).resetting | none => false)

/-- A hung control core (R223). -/
def coreHang (c : Nat) (s : State) : State :=
  match s.jobPart c with
  | some p => if s.mayHang c then overrun p 9 c s else s
  | none => s

/-- Whether the transfers and remote operations of a cluster have ended (R228 step 2). -/
def State.drained (s : State) (c : Nat) : Bool :=
  let x := s.clu c
  (x.q 0).out == 0 && (x.q 4).out == 0 && (s.remoteOf c).isEmpty

/-- The longest deferral of a teardown that was deferred (R311, Table 10.7). -/
def noteDeferral (p : Nat) (s : State) : State :=
  modPart p (fun x => { x with
    deferAt := none
    cnt := { x.cnt with maxDefer := match x.deferAt with | some t => max x.cnt.maxDefer (s.now - t) | none => x.cnt.maxDefer } }) s

/-- What a torn-down job answers (R115): its flags, and the records that were wholly written. -/
def tornDwords (r : Run) (st : Status) : Nat × Nat := failDwords st r.job.cmd r.reply.allFlags r.wrote

/-- A member of a batch that ends with a status (R115, R309). -/
def failMember (p : Nat) (o : Stored) (st : Status) (m : Member) (s : State) : State :=
  let d := failDwords st m.job.cmd (memberReply o m).allFlags m.wrote
  endFor m.job st d.1 d.2 (leaveBatch p o.bytes m s)

/-- A teardown ends (R228, R310): contexts cleared, the command completes with the status of its cause. -/
def teardownOver (p : Nat) (s : State) : State :=
  let x := s.part p
  if x.resetting then s
  else match x.run with
    | some r =>
      match r.teardown with
      | none => s
      | some st =>
        if !(r.clusters.all s.drained) then s
        else
          let d := tornDwords r st
          let s := closeHandling (.part p) (closeRun p (noteDeferral p s))
          endFor r.job st d.1 d.2 s
    | none => match x.batch with
      | none => s
      | some b =>
        match b.teardown with
        | none => s
        | some st =>
          if !(b.clusters.all s.drained) then s
          else
            let s := chargeStep p (batchModel b) b s
            let s := closeHandling (.part p) (closeBatch p (noteDeferral p s))
            b.members.foldl (fun s m => failMember p (batchModel b) (m.leaving.getD st) m s) s

/-- A partition reset ends (R312 steps 3 to 5): `failed` are the clusters whose self-check fails. -/
def partResetOver (p : Nat) (failed : List Nat) (s : State) : State :=
  let x := s.part p
  if !x.resetting then s
  else
    let s := failed.foldl (fun s c => if (s.clustersOf p).contains c then failCluster c s else s) s
    let run := x.run
    let waiting := x.queues.flatMap id ++ x.sel.toList
    let s := match x.batch with | some b => chargeStep p (batchModel b) b s | none => s
    let s := closeBatch p (closeRun p (noteDeferral p s))
    let s := modPart p (fun x => { x with
      resetting := false, clearing := true, sel := none, queues := List.replicate 16 [] }) s
    let s := match run with
      | some r => endFor r.job .internalError 0 0 s
      | none => s
    let s := match x.batch with
      | some b => b.members.foldl (fun s m => failMember p (batchModel b) .internalError m s) s
      | none => s
    let s := (sortBy (·.order) waiting).foldl (fun s j => refusedBusy j s) s
    raiseEvent 7 4 0xC5 (closeHandling (.part p) s)

/-- Whether a job's fan-out has been answered whole (R381, R383). -/
def State.fanDone (s : State) (p : Nat) : Bool :=
  match s.fan? p with
  | none => true
  | some f =>
    f.waiting.isEmpty &&
    (match s.shuffle? f.tag s.cfg.conf.devnum with
      | some x => x.members.all fun d => x.owners.contains d
      | none => true)

/-- A barrier's drain completes and it acts (R251); see log 82 (DEDUCED). -/
def barrierActs (c : Nat) (s : State) : State :=
  let x := s.clu c
  match x.core.st, s.jobPart c with
  | .barrier mode count, some p =>
    match (s.part p).run with
    | none => s
    | some r =>
      if !s.active c || x.halted || !x.idle || !(s.remoteOf c).isEmpty || r.atBar.contains c then s
      else if x.gen != x.imgen && r.stageD?.all (fun d => d.prog r.job.cmd.params == 0) then genFault c s
      else if mode == 0 then modClu c (fun x => x.modCore fun k => Core.advance 4 { k with st := .running }) s
      else
        let last := decide (r.nstg ≤ r.stage + 1)
        if !s.fanDone p then s
        else
          let s := if mode == 2 || last then modRun p (fun r => { r with nrec := r.nrec + count }) s else s
          let s := if mode == 2 || last then modClu c (fun x => x.modCore fun k => { k with st := .ended }) s else s
          let s := modRun p (fun r => { r with atBar := r.atBar ++ [c] }) s
          if r.clusters.all fun k => k == c || r.atBar.contains k || (s.clu k).core.st == .ended then stageDone p s else s
  | _, _ => s

/-- A decoded frame is placed in a staging slot, and object 127 is signalled (R245); its lost units are poisoned (R224, R317);
see log 85 (DEDUCED). -/
def stageFrame (c : Nat) (s : State) : State :=
  let x := s.clu c
  let n := s.variant.stSlots
  let k := x.ring.staged
  match x.ring.dealt[k]?, s.jobPart c with
  | some no, some p =>
    if !s.active c || !(decide (k < n) || x.ring.released.contains (k - n)) then s
    else
      match (s.part p).run with
      | none => s
      | some r =>
        let f := s.frame r.job.cmd.nsid no
        let base := k % n * 65536
        let s := modClu c (fun x => { x with ring := { x.ring with
          staged := k + 1
          mem := Mem.write 0 x.ring.mem base (f.bytes 0 65536)
          pois := (x.ring.pois.filter fun g => g / 1024 != k % n) ++ f.bad.map (· + base / 64) } }) s
        let s := match r.coll with
          | some k => modRun p (fun r => { r with seen := r.seen ++ (if r.seen.any fun y => y.1 == no then [] else [(no, seeFrame k f)]) }) s
          | none => s
        let s := poisonOrigin c f.bad.length { kind := 0x10, inst := c, part := p } s
        applySignal (128 * c + 127) 1 0x3FFF 0xFF s
  | _, _ => s

end Sys2Proof.Machine
end

