-- ==== Sys2Proof/Machine/HostPort.lean ====
section
/-! DEFINITION. Events of the host port and of the contacts: doorbells, controller enable and disable, resets, link, power, the start
sequence, BAR2 accesses (R12 to R16, R31 to R39, R41, R398 to R400, R428 to R450). -/

namespace Sys2Proof.Machine

/-- Whether the host reaches the sled over PCI Express (R429). -/
def State.onBus (s : State) : Bool := s.answers && s.nvm.link.up

/-- A doorbell that names no queue, or a value that its queue does not admit: an asynchronous event of type Error (R75; the standard's
codes 00h and 01h, log 27). -/
def badDoorbell (info : Nat) (s : State) : State := raiseEvent 0 info 1 s

/-- A submission queue tail doorbell (R41): `entries` are the commands between the old and the new tail. -/
def execSubmissionQueueDoorbell (qid tail : Nat) (entries : List Sqe) (s : State) : Host.Outcome State Fault Refusal :=
  if !s.onBus || !s.nvm.en then .next s
  else match s.nvm.sqs.find? fun q => q.id == qid with
    | none => answer (badDoorbell 0 s)
    | some q =>
      if q.size ≤ tail then answer (badDoorbell 1 s)
      else if entries.length ≠ (tail + q.size - q.tail) % q.size then .next s
      else answer (entries.foldl (fun s e => enqueue ⟨e.opc, { e.cmd with sqid := qid }⟩ s) s)

/-- Post what waits for room in a completion queue; `n` bounds the entries. -/
def postBacklog (cqid : Nat) : Nat → State → State
  | 0, s => s
  | n + 1, s => match s.nvm.cqs.find? fun q => q.id == cqid with
    | none => s
    | some q => match q.backlog with
      | [] => s
      | e :: rest =>
        if q.full then s
        else postBacklog cqid n (postNow q e (s.modNvm fun x => { x with
          cqs := x.cqs.map fun c => if c.id == cqid then { c with backlog := rest } else c }))

/-- A completion queue head doorbell (R39): entries are consumed, and completions that waited are posted. -/
def execCompletionQueueDoorbell (qid head : Nat) (s : State) : Host.Outcome State Fault Refusal :=
  if !s.onBus || !s.nvm.en then .next s
  else match s.nvm.cqs.find? fun q => q.id == qid with
    | none => answer (badDoorbell 0 s)
    | some q =>
      if q.size ≤ head ∨ (q.tail + q.size - q.head) % q.size < (head + q.size - q.head) % q.size then answer (badDoorbell 1 s)
      else
        let s := s.modNvm fun n => { n with cqs := n.cqs.map fun c => if c.id == qid then { c with head := head } else c }
        answer (postBacklog qid q.backlog.length s)

/-- CC.EN is set (R36, R37, R40): the admin queue pair is taken from AQA, ASQ and ACQ; CSTS.RDY follows once the start is ready. -/
def execControllerEnable (r : CtlRegs) (s : State) : Host.Outcome State Fault Refusal :=
  if !s.onBus || s.nvm.en then .next s
  else answer (s.modNvm fun n => { n with
    en := true, rdy := s.boot.phase == .ready || s.boot.phase == .trickle
    cc := r.cc, aqa := r.aqa, asq := r.asq, acq := r.acq, shst := 0
    sqs := [⟨0, bits r.aqa.toNat 11 0 + 1, 0, 0, 0, 0, []⟩]
    cqs := [⟨0, bits r.aqa.toNat 27 16 + 1, 0, 0, 0, true, []⟩] })

/-- CC.EN is cleared: a controller disable (R446). -/
def execControllerDisable (s : State) : Host.Outcome State Fault Refusal :=
  if !s.onBus || !s.nvm.en then .next s else answer (functionEnds s)

/-- A shutdown notification (R431): a normal one completes with SHST 10b, with the write-back buffer on flash, and a clean-stop record
is appended; an abrupt one completes without the record. -/
def execShutdownNotification (shn : BitVec 2) (s : State) : Host.Outcome State Fault Refusal :=
  if !s.onBus || !s.nvm.en then .next s
  else if shn = 1 then
    let s := saveStamp (flushBuffer false s)
    answer ((s.modNvm fun n => { n with shst := 2 }).modBoot fun b => { b with clean := true })
  else if shn = 2 then answer ((saveStamp s).modNvm fun n => { n with shst := 2 })
  else .next s

/-- NSSR written with "NVMe" is an NVM Subsystem Reset (R445); the value is the standard's (log 27). -/
def execNvmSubsystemReset (v : Word) (s : State) : Host.Outcome State Fault Refusal :=
  if !s.onBus || v != 0x4E564D65 then .next s else answer (controllerReset 2 s)

/-- PERST# is asserted (R35, R428, R445): a controller reset, held while the line is low. -/
def execPerstAssert (s : State) : Host.Outcome State Fault Refusal :=
  answer (controllerReset 1 (s.modGen fun g => { g with perst := true }))

/-- PERST# is released (R428): a start that was held begins. -/
def execPerstDeassert (s : State) : Host.Outcome State Fault Refusal :=
  let s := s.modGen fun g => { g with perst := false }
  answer (if s.boot.phase == .held then beginStart s.boot.kind s else s)

/-- A Hot Reset (R445). -/
def execHotReset (s : State) : Host.Outcome State Fault Refusal :=
  if !s.onBus then .next s else answer (functionReset s)

/-- A Function Level Reset (R445). -/
def execFunctionLevelReset (s : State) : Host.Outcome State Fault Refusal :=
  if !s.onBus then .next s else answer (functionReset s)

/-- The host link goes down (R35, R445). -/
def execLinkDown (s : State) : Host.Outcome State Fault Refusal :=
  if !s.onBus then .next s
  else answer ((functionReset s).modNvm fun n => { n with link := ⟨false, 0, 0⟩ })

/-- Whether a link has a rate and a width that the port can train to (R31). -/
def linkAllowed (rate width : Nat) : Bool := [128, 64, 32].contains rate && [8, 4, 2, 1].contains width

/-- The port trains to the rate and width that both ends support (R31, R32); see log 14 (DESIGN CHOICE). -/
def execLinkRetrain (rate width : Nat) (s : State) : Host.Outcome State Fault Refusal :=
  if !s.answers || !linkAllowed rate width then .next s
  else answer (s.modNvm fun n => { n with link := ⟨true, rate, width⟩ })

/-- Power-good (R398, R429, R502): with the input at 42 V or above and PWRLOSS# released, the straps are read and a power-on start
begins. `vin` is in 10 mV. -/
def execPowerGood (bay : BitVec 4) (i3c : Bool) (vin : Nat) (s : State) : Host.Outcome State Fault Refusal :=
  if s.boot.phase != .off || decide (vin < 4200) then .next s
  else
    let s := powerOn (s.modGen fun g => { g with bay := bay.toNat, i3c := i3c, pwrloss := false })
    answer (s.modPwr fun p => { p with input := vin, vin := vin })

/-- The fill ends (R429, steps 1 to 4). -/
def execMemoryFillDone (r : FillReport) (s : State) : Host.Outcome State Fault Refusal := answer (fillDone r s)

/-- The activation copy ends (R441, R449). -/
def execActivationCopyDone (ok : Bool) (s : State) : Host.Outcome State Fault Refusal := answer (copyDone ok s)

/-- Replay ends (R429, R433). -/
def execReplayDone (r : ReplayReport) (s : State) : Host.Outcome State Fault Refusal := answer (replayEnds r s)

/-- The start timer expires (R430). -/
def execStartTimerExpiry (s : State) : Host.Outcome State Fault Refusal := answer (timerExpires s)

/-- Whether the sled is powered and not already going down. -/
def State.powered (s : State) : Bool :=
  match s.boot.phase with
  | .off => false
  | .hot => false
  | .dump _ => false
  | _ => true

/-- A monitored quantity is out of range (R453, R454, R508): ENVELOPE is set. The record's KIND is a free value (log 33). -/
def leaveEnvelope (s : State) : State :=
  if bit s.ras.promise 11 then s
  else
    let k := openKind s
    losePromise 11 k.1 0xFFFF k.2

/-- A power-loss condition is counted (Table 14.9 PLOSS) and acted on (R399). -/
def losePower (s : State) : State :=
  if s.powered then powerLoss (s.modPwr fun p => { p with ploss := sat32 p.ploss }) else s

/-- A power-loss condition (R398, R399, R508): the line PWRLOSS#, or the input below 40 V, which is outside the envelope. -/
def execPowerLossCondition (line : Bool) (s : State) : Host.Outcome State Fault Refusal :=
  if !s.powered then .next s
  else answer (losePower (if line then s.modGen fun g => { g with pwrloss := true } else leaveEnvelope s))

/-- The input above 60 V (R398, R508): the protection disconnects it; the sled has left its envelope, and the event is treated as a
power-loss condition. -/
def execOvervoltageTrip (s : State) : Host.Outcome State Fault Refusal :=
  if !s.powered then .next s else answer (losePower (leaveEnvelope s))

/-- A power stage fault (kind 15h of Table 17.1): the stage is isolated, and a power-loss dump starts. -/
def execPowerStageFault (stage : Nat) (s : State) : Host.Outcome State Fault Refusal :=
  if !s.powered then .next s
  else answer (losePower (addRecord { kind := 0x15, cls := 3, action := 9, inst := stage } s))

/-- The dump ends (R399, R400, R412). -/
def execDumpComplete (recordOk : Bool) (us j : Nat) (s : State) : Host.Outcome State Fault Refusal :=
  answer (dumpEnds recordOk us j s)

/-- After a thermal shutdown the sled starts as from power-on once every sensor is cool (R412). -/
def execThermalShutdownRecovery (t : List Int) (s : State) : Host.Outcome State Fault Refusal :=
  if s.boot.phase == .hot && coolEnough t then answer ((powerOn s).modPwr fun p => { p with temps := t }) else .next s

/-- A BAR2 access reaches the sled while its link is up; the value read is the bus's reply (R12; see logs 4 and 6, DESIGN CHOICE). -/
def barRead (a size : Nat) (s : State) : Host.Outcome State Fault Refusal :=
  if !s.onBus then .next s
  else
    let r := busRead a size s
    answer (r.2.modBusReply fun _ => BitVec.ofNat 32 r.1)

/-- A BAR2 write reaches the sled while its link is up (R12; see log 6, DESIGN CHOICE). -/
def barWrite (a v size : Nat) (s : State) : Host.Outcome State Fault Refusal :=
  if !s.onBus then .next s else answer (busWrite a v size s)

/-- A BAR2 read (R12, R511). -/
def execBar2Read (a : Word) (size : Nat) (s : State) : Host.Outcome State Fault Refusal := barRead a.toNat size s

/-- A BAR2 write (R12, R511). -/
def execBar2Write (a v : Word) (size : Nat) (s : State) : Host.Outcome State Fault Refusal := barWrite a.toNat v.toNat size s

/-- A read of the _LO register of a pair latches the upper half (R16). -/
def execRegisterPairLoRead (a : Word) (s : State) : Host.Outcome State Fault Refusal := barRead a.toNat 4 s

/-- A write of the _HI register of a pair (R16): no pair of the spec's maps can be written, so it is discarded (R13). -/
def execRegisterPairHiWrite (a v : Word) (s : State) : Host.Outcome State Fault Refusal := barWrite a.toNat v.toNat 4 s

/-- The address of a register of a cluster, of a synchronisation object. -/
def cluAddr (c off : Nat) : Nat := 0x1000000 + c * 0x10000 + off
def syncAddr (o off : Nat) : Nat := 0x2000000 + o * 16 + off

/-- CLU_CTL.HALTREQ (R491). -/
def execCluCtlHaltreq (c : Nat) (s : State) : Host.Outcome State Fault Refusal :=
  if 32 ≤ c then .fault .absentUnit else barWrite (cluAddr c 0x08) 1 4 s

/-- CLU_CTL.FRELOAD (R209, R491). -/
def execCluCtlFreload (c : Nat) (s : State) : Host.Outcome State Fault Refusal :=
  if 32 ≤ c then .fault .absentUnit else barWrite (cluAddr c 0x08) 2 4 s

/-- CLU_TMCTL.READ (R491). -/
def execCluTmctlRead (c : Nat) (s : State) : Host.Outcome State Fault Refusal :=
  if 32 ≤ c then .fault .absentUnit else barWrite (cluAddr c 0x44) 1 4 s

/-- CLU_TMCTL.REFUSED (R13). -/
def execCluTmctlWrite (c : Nat) (v : Word) (s : State) : Host.Outcome State Fault Refusal :=
  if 32 ≤ c then .fault .absentUnit else barWrite (cluAddr c 0x44) v.toNat 4 s

/-- CLU_TFINFO.VALID (R13). -/
def execCluTfinfoWrite (c : Nat) (v : Word) (s : State) : Host.Outcome State Fault Refusal :=
  if 32 ≤ c then .fault .absentUnit else barWrite (cluAddr c 0x10C) v.toNat 4 s

/-- CLU_ASTAT (R13). -/
def execCluAstatWrite (c : Nat) (v : Word) (s : State) : Host.Outcome State Fault Refusal :=
  if 32 ≤ c then .fault .absentUnit else barWrite (cluAddr c 0x408) v.toNat 4 s

/-- SYNC_VALUE (R216). -/
def execSyncValueWrite (o : Nat) (v : Word) (s : State) : Host.Outcome State Fault Refusal :=
  if 4096 ≤ o then .fault .absentUnit else barWrite (syncAddr o 0) v.toNat 4 s

/-- SYNC_STAT.OVF (R13). -/
def execSyncStatWrite (o : Nat) (v : Word) (s : State) : Host.Outcome State Fault Refusal :=
  if 4096 ≤ o then .fault .absentUnit else barWrite (syncAddr o 4) v.toNat 4 s

/-- CAD_VSTAT (R13, R14). -/
def execCadVstatWrite (v : Word) (s : State) : Host.Outcome State Fault Refusal := barWrite 0x10020 v.toNat 4 s

/-- CIS_TEST.START (R403). -/
def execCisTestStart (v : Word) (s : State) : Host.Outcome State Fault Refusal := barWrite 0x2000C v.toNat 4 s

/-- MED_CTL (R354). -/
def execMedCtlWrite (v : Word) (s : State) : Host.Outcome State Fault Refusal := barWrite 0x200004 v.toNat 4 s

/-- RAS_CTL (R460, R461). -/
def execRasCtlWrite (v : Word) (s : State) : Host.Outcome State Fault Refusal := barWrite 0x80004 v.toNat 4 s

/-- RAS_INJ (R477). -/
def execRasInjArm (v : Word) (s : State) : Host.Outcome State Fault Refusal := barWrite 0x80048 v.toNat 4 s

/-- GEN_FAULT (R505). -/
def execGenFaultWrite (v : Word) (s : State) : Host.Outcome State Fault Refusal := barWrite 0x0C v.toNat 4 s

/-- BOOT_CTL (R445). -/
def execBootCtlCrst (v : Word) (s : State) : Host.Outcome State Fault Refusal := barWrite 0x40008 v.toNat 4 s

/-- BOOT_PCTL with OP 01b (R436, R439). -/
def execBootNativeProgram (v : Word) (s : State) : Host.Outcome State Fault Refusal :=
  barWrite 0x40024 (v.toNat - v.toNat % 4 + 1) 4 s

/-- BOOT_PCTL with OP 10b (R437, R439). -/
def execBootPulseVerifiedProgram (v : Word) (s : State) : Host.Outcome State Fault Refusal :=
  barWrite 0x40024 (v.toNat - v.toNat % 4 + 2) 4 s

/-- BOOT_PCTL with OP 11b (R435, R439). -/
def execBootErase (v : Word) (s : State) : Host.Outcome State Fault Refusal :=
  barWrite 0x40024 (v.toNat - v.toNat % 4 + 3) 4 s

/-- BOOT_PSTAT (R13). -/
def execBootPstatWrite (v : Word) (s : State) : Host.Outcome State Fault Refusal := barWrite 0x40028 v.toNat 4 s

/-- A read of word `j` of BOOT_RWIN (R435, R438). -/
def execBootRwinRead (j : Nat) (s : State) : Host.Outcome State Fault Refusal :=
  if 128 ≤ j then .fault .absentUnit else barRead (0x40800 + 4 * j) 4 s

end Sys2Proof.Machine
end

