-- ==== Sys2Proof/Machine/Messages.lean ====
section
/-! DEFINITION. Runnel messages: transport on receipt (R373 to R375) and what each message does (R369, R377 to R383). Formats that
Table 13.4 leaves open are a DESIGN CHOICE (log 32). -/

namespace Sys2Proof.Machine

/-- A message dropped for its SYSID, DSTDEV, INST or a cancelled context (LNKC_DROP). -/
def dropMsg (s : State) : State := s.modLnk fun l => { l with drop := sat32 l.drop }

/-- Refuse a request (Table 13.3, 1Bh). -/
def sendReject (m : Msg) (reason : Nat) (s : State) : State :=
  emit { s.msg 0x1B m.src m.flow with
    jobtag := m.jobtag
    opid := m.opid
    addr := BitVec.ofNat 64 reason } s

/-- Acknowledge without payload (R374). -/
def sendAck (m : Msg) (s : State) : State := emit (s.msg 4 m.src m.flow) s

/-- Whether a message acknowledged up to `ack` covers a sequence number, modulo 2 ^ 32. -/
def covers (ack seq : Nat) : Bool := decide ((ack + 2 ^ 32 - seq) % 2 ^ 32 < 2 ^ 31)

/-- Messages of a flow that the peer has acknowledged need no resend; a signal is complete with its acknowledgement (R374, Table 13.5). -/
def acknowledged (dev flow ack : Nat) (s : State) : State :=
  let x := s.flowOf dev flow
  let ended := x.unacked.filter fun u => covers ack u.msg.seq
  if ended.isEmpty then s
  else
    let s := setFlow { x with unacked := x.unacked.filter fun u => !covers ack u.msg.seq } s
    (ended.filter fun u => u.msg.typ == 0x16).foldl (fun s u =>
      match s.lnk.ops.find? fun o => o.opid == u.msg.opid && o.kind == 2 && o.dev == dev with
      | some o => dropOp o s
      | none => s) s

/-- What every message tells of its sender (R374, R375, Table 13.11): it is known; congestion on its way is echoed, congestion that it
echoes halves the sending rate; it acknowledges the reverse flow. -/
def noteArrival (m : Msg) (s : State) : State :=
  let s := modPeer m.src (fun p => { p with
    ece := p.ece || m.ce, rate := if m.ece then max 1 (p.rate / 2) else p.rate }) s
  let s := match s.pathFor m.src m.flow with
    | some q => modPort q.port (fun x => { x with rx := x.rx + m.payload.length }) s
    | none => s
  acknowledged m.src m.flow m.ack s

/-- The instance that a token names (R377): its partition and its run. -/
def State.instance? (s : State) (tok : Nat) : Option (Nat × Run) :=
  match s.lnk.insts.find? fun i => i.2.2 == tok with
  | some i => match (s.part i.1).run with
    | some r => some (i.1, r)
    | none => none
  | none => none

/-- A bind is answered when an instance of its JOBTAG runs (R377); until then it waits. A new context of the sender is not one that was
cancelled before. -/
def bind (m : Msg) (s : State) : State :=
  let s := s.modLnk fun l => { l with
    cancelled := l.cancelled.filter fun x => !(x.1 == m.src && x.2.1 == m.jobtag && m.payload.contains (BitVec.ofNat 8 x.2.2)) }
  match s.lnk.insts.find? fun i => i.2.1 == m.jobtag with
  | some i => sendBindAck m.src m.jobtag i s
  | none => s.modLnk fun l => { l with
      bindWait := if l.bindWait.contains (m.src, m.jobtag) then l.bindWait else l.bindWait ++ [(m.src, m.jobtag)] }

/-- A message of an operation as the binding completes it: the token, and for a signal the CTXGEN of its target's cluster (R222). -/
def boundMsg (b : Binding) (m : Msg) : Msg :=
  if m.typ == 0x16 then { m with inst := b.inst, payload := [BitVec.ofNat 8 (b.ctxgens.getD (m.addr.toNat % 4096 / 128) 0)] }
  else { m with inst := b.inst }

/-- The job is bound to the peer, and its waiting operations go out (R377). -/
def bindAck (m : Msg) (s : State) : State :=
  match s.lnk.binds.find? fun b => b.dev == m.src && !b.bound &&
      (match (s.part b.part).run with | some r => r.job.cmd.cdw15.toNat == m.jobtag | none => false) with
  | none => s
  | some b =>
    let b' : Binding := { b with
      bound := true, inst := m.inst
      regions := (List.range 14).map fun k => (field m.payload (16 * k) 8, field m.payload (16 * k + 8) 8)
      ctxgens := (m.payload.drop 224).map (·.toNat) }
    let s := s.modLnk fun l => { l with binds := l.binds.map fun x => if x == b then b' else x }
    (s.lnk.ops.filter fun o => o.part == b.part && o.dev == b.dev).foldl (fun s o =>
      let s := s.modLnk fun l => { l with ops := l.ops.map fun x => if x.opid == o.opid then { x with waiting := [] } else x }
      o.waiting.foldl (fun s w => emit (boundMsg b' w) s) s) s

/-- Whether a footprint lies in one region of an instance (Table 13.5). -/
def inRegions (r : Run) (a n : Nat) : Bool :=
  r.regions.any fun g => g.2 != 0 && decide (g.1 ≤ a ∧ a + n ≤ g.1 + g.2)

/-- A remote read (Table 13.5): its data with the poison of each granule, or a refusal. -/
def remoteRead (m : Msg) (s : State) : State :=
  match s.instance? m.inst with
  | none => dropMsg s
  | some i =>
    let a := m.addr.toNat
    let n := leNat m.payload
    if !inRegions i.2 a n || 8192 < n then sendReject m 1 s
    else emit { s.msg 0x13 m.src m.flow with
      jobtag := m.jobtag
      opid := m.opid
      addr := m.addr
      poison := (s.resv.poison.filter fun g => decide (a / 64 ≤ g ∧ g * 64 < a + n)).map (· - a / 64)
      payload := Mem.read 0 s.resv.mem a n } s

/-- A remote operation of this sled that a reply names. -/
def State.opFor (s : State) (m : Msg) (kind : Nat) : Option RemOp :=
  s.lnk.ops.find? fun o => o.opid == m.opid && o.dev == m.src && o.kind == kind

/-- One reply of an operation has come; with the last the operation is complete. -/
def countReply (o : RemOp) (addr : Nat) (s : State) : State :=
  if o.left ≤ 1 then dropOp o s
  else s.modLnk fun l => { l with ops := l.ops.map fun x =>
    if x.opid == o.opid then { x with left := x.left - 1, pieces := x.pieces.filter fun p => p.1 != addr } else x }

/-- The data of a remote read is written to tile memory (Table 13.5); what the peer delivers poisoned is an origin of poison (R224). A
context being torn down takes none (R311). -/
def remoteData (m : Msg) (s : State) : State :=
  match s.opFor m 0 with
  | none => s
  | some o =>
    match o.pieces.find? fun p => p.1 == m.addr.toNat with
    | none => s
    | some p =>
      let sticky := match ((s.clu o.clu).q o.eng).act.find? fun a => a.cmd.seq == o.seq with | some a => a.cmd.sticky | none => false
      let s := if s.tearing o.part then s
        else
          let s := modClu o.clu (Clu.tileFill p.2.1 (slice m.payload 0 p.2.2) (if sticky then List.range (p.2.2 / 64) else m.poison)) s
          poisonOrigin o.clu m.poison.length { kind := 0x0E, inst := o.dev, part := o.part } s
      countReply o m.addr.toNat s

/-- A remote write (Table 13.5): applied, poisoned granules poisoned, which is an origin of poison of the job (R224, log 120), and confirmed;
or refused. -/
def remoteWrite (m : Msg) (s : State) : State :=
  match s.instance? m.inst with
  | none => dropMsg s
  | some i =>
    if !inRegions i.2 m.addr.toNat m.payload.length then sendReject m 1 s
    else
      let s := poisonOrigin (i.2.clusters.headD 0) m.poison.length { kind := 0x0E, inst := m.src, part := i.1 }
        (resvWrite m.addr.toNat m.payload m.poison s)
      emit { s.msg 0x15 m.src m.flow with
        jobtag := m.jobtag
        opid := m.opid
        addr := m.addr } s

/-- A remote write is confirmed. -/
def writeAck (m : Msg) (s : State) : State :=
  match s.opFor m 1 with
  | some o => countReply o (2 ^ 64) s
  | none => s

/-- A remote signal (R222, Table 13.5): its object belongs to a cluster of the instance and its CTXGEN is the object's, else it is
dropped. -/
def remoteSignal (m : Msg) (s : State) : State :=
  let o := m.addr.toNat % 4096
  match s.instance? m.inst with
  | none => dropMsg s
  | some i =>
    if !i.2.clusters.contains (o / 128) then dropMsg s
    else if (s.clu (o / 128)).ctxgen != (m.payload.headD 0).toNat then dropSignal o s
    else applySignal o (bits m.addr.toNat 47 32) m.src m.sclu s

/-- Whether a message comes from a context that its sender cancelled (R379). -/
def State.isCancelled (s : State) (m : Msg) : Bool :=
  [0x12, 0x14, 0x16].contains m.typ && s.lnk.cancelled.contains (m.src, m.jobtag, m.sgen)

/-- A context of a peer is cancelled (R379, R381): its later messages are dropped, its binds and its part in a fan-out or shuffle end. -/
def cancelContext (m : Msg) (s : State) : State :=
  let gens := distinct (m.sgen :: m.payload.map (·.toNat))
  let s := s.modLnk fun l => { l with
    cancelled := l.cancelled ++ ((gens.map fun g => (m.src, m.jobtag, g)).filter fun x => !l.cancelled.contains x)
    bindWait := l.bindWait.filter fun w => w != (m.src, m.jobtag)
    parcels := l.parcels.filter fun x => !(x.dev == m.src && x.opid == m.opid && m.opid != 0)
    shuffles := l.shuffles.filter fun x => !(x.fdev == m.src && x.tag == m.opid && m.opid != 0) }
  let mine := fun (j : Job) => match j.kind with
    | .fan d t => d == m.src && t == m.opid
    | _ => false
  let s := (List.range 8).foldl (fun s p =>
    let s := modPart p (fun x => { x with
      queues := x.queues.map fun q => q.filter fun j => !mine j
      sel := match x.sel with | some j => if mine j then none else some j | none => none }) s
    match (s.part p).run with
    | some r => if mine r.job then tearJob p .abortRequested s else s
    | none => s) s
  emit { s.msg 0x19 m.src 128 with
    jobtag := m.jobtag
    opid := m.opid
    inst := m.inst } s

/-- 130 ms, the exit latency of PS3 at the longest cadence period (R369). -/
def wakeUs : Nat := 130000

/-- The peer leaves PS3: the remote timeout of the operation is extended (R369). -/
def waking (m : Msg) (s : State) : State :=
  s.modLnk fun l => { l with
    ops := l.ops.map fun o =>
      if o.dev == m.src && (o.opid == m.opid || !o.waiting.isEmpty) then { o with until_ := o.until_ + wakeUs } else o
    fans := l.fans.map fun f =>
      if f.tag == m.opid then { f with waiting := f.waiting.map fun w => if w.1 == m.src then (w.1, w.2 + wakeUs) else w } else f }

/-- A member of a fan-out is missing, and the shuffle goes on without it: F tells the other members (R108, R200). -/
def fanMissing (f : Fan) (dev : Nat) (st : Status) (s : State) : State :=
  let me := s.cfg.conf.devnum
  let s := memberMissing f.part dev st s
  match s.shuffle? f.tag me with
  | none => s
  | some x =>
    let s := if s.tearing f.part then s
      else (x.members.filter fun d => d != me && d != dev).foldl (fun s d => emit { s.msg 0x26 d 128 with
        opid := f.tag
        inst := me
        addr := BitVec.ofNat 64 (dev + 1) } s) s
    shuffleWithout f.tag me dev s

/-- A refusal (Table 13.6): reason 1 faults the sending context with cause 06h; the others end the operations as unreachable. -/
def rejected (m : Msg) (s : State) : State :=
  let reason := m.addr.toNat % 256
  match s.lnk.fans.find? fun f => f.tag == m.opid && f.waiting.any fun w => w.1 == m.src with
  | some f => fanMissing f m.src .remoteUnreachable s
  | none =>
    match s.lnk.ops.find? fun o => o.opid == m.opid && o.dev == m.src with
    | none => s
    | some o =>
      if reason = 1 then
        let pc := match ((s.clu o.clu).q o.eng).act.find? fun a => a.cmd.seq == o.seq with | some a => a.cmd.pc | none => 0
        contextFault o.clu pc 6 0 (dropOp o s)
      else
        let all := if o.waiting.isEmpty then [o] else s.lnk.ops.filter fun x => x.dev == o.dev && x.part == o.part && !x.waiting.isEmpty
        let s := if o.waiting.isEmpty then s else s.modLnk fun l => { l with
          binds := l.binds.filter fun b => !(b.part == o.part && b.dev == o.dev && !b.bound) }
        all.foldl (fun s x => failOp x .remoteUnreachable s) s

/-- A part of a body: the body with its poisoned granules when it is whole (log 32). -/
def takePart (m : Msg) (s : State) : Option (List Byte × List Nat) × State :=
  let off := m.addr.toNat % 2 ^ 32
  let len := m.addr.toNat / 2 ^ 32
  let same := fun (x : Parcel) => x.dev == m.src && x.opid == m.opid && x.typ == m.typ
  let old := s.lnk.parcels.find? same
  let got := (match old with | some x => x.got | none => []) ++ [(off, m.payload)]
  let pois := (match old with | some x => x.pois | none => []) ++ m.poison.map (· + off / 64)
  let rest := s.lnk.parcels.filter fun x => !same x
  match assemble len got with
  | some b => (some (b, pois), s.modLnk fun l => { l with parcels := rest })
  | none => (none, s.modLnk fun l => { l with parcels := rest ++ [⟨m.src, m.opid, m.typ, len, got, pois⟩] })

/-- A member's own command for a fan-out: F's parameters, PARTOK 1, queue JQ of PART (R381). -/
def memberCmd (nsid : Nat) (g : ObjGroup) (params data : List Byte) : Cmd where
  sqid := 0
  cid := 0
  flags := 0
  nsid := nsid
  cdw2 := 0
  cdw3 := 0
  pptr := 0
  cdw10 := BitVec.ofNat 32 (2 ^ 10 + g.jq * 16 + g.part)
  cdw11 := BitVec.ofNat 32 data.length
  cdw12 := 0
  cdw13 := 0
  cdw14 := 0
  cdw15 := 0
  params := params
  data := data
  bufLen := 0
  ok := true

/-- The parameters of a member's Search: F's Search stage alone, at the member's current epoch (R191). -/
def memberParams (params : List Byte) : List Byte := patch (patch params 1 [1]) 0x20 (zeros 4)

/-- A member that takes no part in a shuffle refuses, and ends its part at the other members (log 32). -/
def declineShuffle (m : Msg) (reason : Nat) (nsid : Nat) (params : List Byte) (s : State) : State :=
  let s := sendReject m reason s
  let mem := (joinMembers s nsid params (joinStage params)).filter fun d => d != s.cfg.conf.devnum && d != m.src
  mem.foldl (fun s d => emit { s.msg 0x26 d 128 with
    opid := m.opid
    inst := m.src } s) s

/-- A fan-out reaches a member (R380, R381, R383): it places its Search job, or takes part in the shuffle; it refuses when it is no member
or does not hold the object. -/
def fanRequest (m : Msg) (s : State) : State :=
  match takePart m s with
  | (none, s) => s
  | (some body, s) =>
    let params := body.1.take m.inst
    let data := body.1.drop m.inst
    let hurt := body.2.map fun g => (g * 64 - m.inst, (g + 1) * 64 - m.inst)
    let d := joinStage params
    let nsid := m.jobtag
    if d.sopc == 0x93 then
      let b := d.num params 0x14 4
      match (s.groupOf nsid 1 d.objid).orElse fun _ => s.groupOf nsid 1 b with
      | none => declineShuffle m 3 nsid params s
      | some g =>
        if (s.ns? nsid).isNone || ((s.coll? nsid d.objid).isNone && (s.coll? nsid b).isNone) then declineShuffle m 2 nsid params s
        else startShuffle m.opid m.src (memberCmd nsid g params data) s
    else
      match s.groupOf nsid 0 d.objid with
      | none => sendReject m 3 s
      | some g =>
        if (s.ns? nsid).isNone || (s.index? nsid d.objid).isNone then sendReject m 2 s
        else placeJob { sqid := 0, cid := 0, order := s.nvm.orders, opc := 0x8F, cmd := memberCmd nsid g (memberParams params) data, part := g.part
                        jq := g.jq, dl := false, deadline := 0, fetched := s.now, kind := .fan m.src m.opid, hurt := hurt } s

/-- Progress of a member restarts its remote timeout (R381). -/
def fanProgress (m : Msg) (s : State) : State :=
  s.modLnk fun l => { l with fans := l.fans.map fun f =>
    if f.tag == m.opid then
      { f with waiting := f.waiting.map fun w => if w.1 == m.src then (w.1, s.now + s.rtmo) else w } else f }

/-- Results of a member (R381): kept for the merge; a member that ended with another status is missing, or ends the command. -/
def fanResult (m : Msg) (s : State) : State :=
  match takePart m s with
  | (none, s) => s
  | (some body, s) =>
    match s.lnk.fans.find? fun f => f.tag == m.opid && f.waiting.any fun w => w.1 == m.src with
    | none => s
    | some f =>
      if m.inst = 0 then modFan f.part (fun f => { f with
        waiting := f.waiting.filter fun w => w.1 != m.src, results := f.results ++ [(m.src, body.1)] }) s
      else fanMissing f m.src (statusOf m.inst) s

/-- A shuffle that has begun elsewhere, of which only messages have come so far. -/
def openShuffle (tag fdev : Nat) (s : State) : State :=
  if (s.shuffle? tag fdev).isSome || fdev == s.cfg.conf.devnum then s
  else
    let x : Shuffle := {
      tag := tag, nsid := 0, parms := [], bits := 0, fdev := fdev, members := [], items := [], ended := [], pairs := [], owners := []
      stat := 0, hurt := [] }
    s.modLnk fun l => { l with shuffles := l.shuffles ++ [x] }

/-- An item reaches the owner of one of its bands (R383); one whose code arrives poisoned takes part in no pair and is listed (R195). -/
def shuffleItem (m : Msg) (s : State) : State :=
  modShuffle m.opid m.inst (fun y =>
    if m.poison.isEmpty then { y with items := y.items ++ [(m.jobtag, m.sgen, m.src, m.addr.toNat, m.payload)] }
    else { y with hurt := y.hurt ++ [m.addr.toNat] }) (openShuffle m.opid m.inst s)

/-- A member has sent its last item; its poison list goes to F's reply (R383, R382). F may name a device that is missing in ADDR, less 1
(log 32). -/
def shuffleEnd (m : Msg) (s : State) : State :=
  let s := openShuffle m.opid m.inst s
  if m.addr != 0 then shuffleWithout m.opid m.inst (m.addr.toNat - 1) s
  else
    let s := modShuffle m.opid m.inst (fun y => { y with ended := if y.ended.contains m.src then y.ended else m.src :: y.ended }) s
    let s := if m.inst == s.cfg.conf.devnum then
        s.modLnk fun l => { l with fans := l.fans.map fun f =>
          if f.tag == m.opid then { f with results := f.results ++ [(m.src, zeros 4 ++ m.payload)] } else f }
      else s
    shuffleStep m.opid m.inst s

/-- Kept pairs of an owner reach F, JOBTAG of them, with the IDs of items that reached the owner poisoned after them; ADDR marks the last
with the count compared (R383, log 32). -/
def shufflePairs (m : Msg) (s : State) : State :=
  let me := s.cfg.conf.devnum
  let last := m.addr.toNat % 2 == 1
  let n := 24 * m.jobtag
  let ids := (List.range ((m.payload.length - n) / 8)).map fun i => field m.payload (n + 8 * i) 8
  let s := ownerDone m.opid me m.src (if last then m.addr.toNat / 2 else 0) (m.payload.take n) ids last s
  if last then s.modLnk fun l => { l with fans := l.fans.map fun f =>
    if f.tag == m.opid then { f with waiting := f.waiting.filter fun w => w.1 != m.src } else f } else s

/-- Requests, which a sled in PS3 answers with WAKING (R369) and one that is not ready with REJECT 4. -/
def isRequest (typ : Nat) : Bool := [0x10, 0x12, 0x14, 0x16, 0x20, 0x24, 0x26].contains typ

/-- A message that has been accepted does what its type says (Table 13.3). -/
def serve (m : Msg) (s : State) : State :=
  if s.isCancelled m then dropMsg s
  else if isRequest m.typ && s.boot.phase != .ready && m.typ != 0x16 then sendReject m 4 s
  else match m.typ with
  | 0x02 => emit (s.msg 3 m.src m.flow) s
  | 0x03 => modPeer m.src (fun p => { p with lost := false, failed := [] }) s
  | 0x10 => bind m s
  | 0x11 => bindAck m s
  | 0x12 => remoteRead m s
  | 0x13 => remoteData m s
  | 0x14 => remoteWrite m s
  | 0x15 => writeAck m s
  | 0x16 => remoteSignal m s
  | 0x18 => cancelContext m s
  | 0x1A => waking m s
  | 0x1B => rejected m s
  | 0x20 => fanRequest m s
  | 0x21 => fanProgress m s
  | 0x22 => fanResult m s
  | 0x24 => shuffleItem m s
  | 0x25 => shufflePairs m s
  | 0x26 => shuffleEnd m s
  | _ => s

/-- Accept a message: a request that reaches a sled in PS3 is answered with WAKING and waits for the exit (R369). -/
def accept (m : Msg) (s : State) : State :=
  if isRequest m.typ && s.mgmt.ps == 3 then
    let s := emit { s.msg 0x1A m.src m.flow with
      jobtag := m.jobtag
      opid := m.opid } s
    beginExit (s.modLnk fun l => { l with held := l.held ++ [m], wake := sat32 l.wake })
  else serve m s

/-- The requests that waited for the exit from PS3. -/
def serveHeld (s : State) : State :=
  let l := s.lnk.held
  l.foldl (fun s m => serve m s) (s.modLnk fun x => { x with held := [] })

/-- A message arrives (R374): of another system or for another device it is dropped; the next of its flow is accepted, any other dropped;
it is acknowledged with the reverse traffic or by an ACK. Nothing arrives without a port that is up. -/
def arrives (m : Msg) (s : State) : State :=
  if !s.portsOn || (s.pathSet m.src).isEmpty then s
  else if m.sysid != BitVec.ofNat 64 s.cfg.conf.sysid || m.dst != s.cfg.conf.devnum then dropMsg s
  else
    let s := noteArrival m s
    if unsequenced m.typ then serve m s
    else
      let x := s.flowOf m.src m.flow
      if m.seq != (x.got + 1) % 2 ^ 32 then sendAck m (s.modLnk fun l => { l with dup := sat32 l.dup })
      else
        let n := s.lnk.sent.length
        let s := accept m (setFlow { x with got := m.seq } s)
        if (s.lnk.sent.drop n).any fun r => r.dst == m.src && r.flow == m.flow then s else sendAck m s

end Sys2Proof.Machine
end

