-- ==== Sys2Proof/Machine/PowerEvents.lean ====
section
/-! DEFINITION. Events of the cadence, of power and of the Cistern (R57 to R60, R386 to R413). -/

namespace Sys2Proof.Machine

/-- What a frame marker does (R56, R396, R411, R423): a durable commit takes effect, then a change between operational states, then the
thermal loop and the grants count the frame; see log 103 (DEDUCED). -/
def frameMarker (s : State) : State :=
  let s := useCadsrc (applyCommit s)
  let s := match s.pwr.pendingPs with
    | some (ps, sqid, cid) =>
      let s := enterState ps (s.modPwr fun p => { p with pendingPs := none })
      if (s.flight? sqid cid).isSome then complete sqid cid .success 0 0 s else s
    | none => s
  ageGrants s.busyClusters (throttleFrame s)

/-- The measured draw of the period that has ended (R395): a free value (log 9) within the limit, and no more than 20 W above the period
before it unless the sled owned the period. -/
def measurePeriod (owned : Bool) (s : State) : State :=
  let r := draw s
  let most := match owned, s.pwr.perDraw with
    | false, some d => min (d + 200) (s.mostPower true)
    | _, _ => s.mostPower true
  r.2.modPwr fun p => { p with perDraw := some (r.1.toNat % (most + 1)) }

/-- What follows from an edge: a frame, a period; the measured draw of the period that has ended, which the sled owned or not, and the
grants of an owned period. -/
def afterEdge (owned : Bool) (r : State × EdgeKind) : State :=
  match r.2 with
  | .none => r.1
  | .period => noteAwake (ownedPeriod (askErases (measurePeriod owned r.1)))
  | .frame => noteAwake (ownedPeriod (askErases (frameMarker (measurePeriod owned r.1))))

/-- Whether the period under way is the sled's own. -/
def State.inSlot (s : State) : Bool := s.cad.src != 0 && s.cad.pidx == s.cfg.conf.slot

/-- An edge of the cadence input; nothing is tracked without power. -/
def cadencePulse (len high : Nat) (s : State) : State :=
  if s.powered then afterEdge s.inSlot (pulse len high (s.modGen fun g => { g with cadact := true })) else s

/-- An ordinary pulse (R386, R387): `len` and `high` in 10 ns. -/
def execCadenceEdge (len high : Nat) (s : State) : Host.Outcome State Fault Refusal := answer (cadencePulse len high s)

/-- A marker pulse (R386, R387, R390). -/
def execCadenceMarker (len high : Nat) (s : State) : Host.Outcome State Fault Refusal := answer (cadencePulse len high s)

/-- The external cadence is lost (R388): its input is not active (Table 19.11, CADACT). -/
def execCadenceLoss (s : State) : Host.Outcome State Fault Refusal :=
  if !s.powered then .next s
  else
    let s := s.modGen fun g => { g with cadact := false }
    if s.cad.src == 1 then answer (toSurrogate s) else .next s

/-- A period of the surrogate (R389). -/
def execSurrogatePeriod (s : State) : Host.Outcome State Fault Refusal :=
  if s.powered then answer (afterEdge s.inSlot (surrogateTick s)) else .next s

/-- No cadence has been acquired 100 ms after power-good (R391): the surrogate starts, with event 00h (R389). -/
def execCadenceAcquireTimeout (s : State) : Host.Outcome State Fault Refusal :=
  if s.powered && s.cad.src == 0 then
    answer (raiseEvent 7 0 0xC0 (s.modCad fun c => { c with
      src := 2, noacq := true, tracked := c.period, cand := [], surr := sat32 c.surr }))
  else .next s

/-- Whether a unit's grant can be released (R396): a cluster or an erase group RELEASE frames after its last use;
see log 102 (DESIGN CHOICE). -/
def State.releasable (s : State) (u : GUnit) : Bool :=
  s.pwr.grants.any fun g => g.unit == u && decide (s.cfg.conf.release ≤ g.idle) &&
    (match u with | .cluster _ => true | .eraseGroup _ => true | _ => false)

/-- A grant is released (R396). -/
def execGrantRelease (u : GUnit) (s : State) : Host.Outcome State Fault Refusal :=
  if s.releasable u then answer (s.modPwr fun p => { p with grants := p.grants.filter fun g => g.unit != u }) else .next s

/-- Whether a sensor is fitted: the KS9-D512 has one compute die (Table 14.11). -/
def Variant.sensor (v : Variant) (i : Nat) : Bool := v == .d1024 || i != 1

/-- Whether a reading is implausible: outside −40 °C to 150 °C, or more than 20 °C from the one before (Table 17.1, kind 16h). -/
def implausible (sensed : Bool) (old t : Int) : Bool :=
  decide (t < -400 ∨ 1500 < t ∨ (sensed ∧ (old + 200 < t ∨ t + 200 < old)))

/-- Whether the monitored quantities are in range (R508): the input between 40 V and 59.5 V, the coolant inlet between 15 °C and
45 °C; see log 70 (DEDUCED). -/
def Pwr.inRange (p : Pwr) : Bool :=
  let inlet := p.tempsUsed.getD 5 0
  decide (4000 ≤ p.input ∧ p.input ≤ 5950 ∧ 150 ≤ inlet ∧ inlet ≤ 450)

/-- The sensors are read (R410, R411, R508); passing a threshold of feature 04h raises its SMART event (R75, R76). -/
def readSensors (t : List Int) (s : State) : State :=
  let v := (List.range 7).map fun i => if Variant.sensor s.variant i then t.getD i 0 else 0
  let was := s.tempOut
  let bad := (List.range 7).map fun i =>
    Variant.sensor s.variant i && implausible s.pwr.sensed (s.pwr.temps.getD i 0) (v.getD i 0)
  let s := s.modPwr fun p => { p with sensed := true, temps := v, implausible := bad }
  let s := s.modPwr fun p => { p with crit := (p.tempsUsed.zip criticalAt).map fun x => decide (x.2 < x.1) }
  let s := ((List.range 7).filter fun i => bad.getD i false).foldl (fun s i =>
    addRecord { kind := 0x16, cls := 0, inst := i } s) s
  let s := if s.tempOut && !was then smartEvent 1 s else s
  if s.pwr.inRange then s else leaveEnvelope s

/-- The thermal sensors are read (R410). -/
def execThermalSensorRead (t : List Int) (s : State) : Host.Outcome State Fault Refusal :=
  if s.powered then answer (readSensors t s) else .next s

/-- A sensor has been above its critical threshold for 1 s (R412). -/
def execThermalShutdown (sensor : Nat) (s : State) : Host.Outcome State Fault Refusal :=
  if 7 ≤ sensor then .fault .absentUnit
  else if s.powered && s.pwr.crit.getD sensor false then answer (thermalStop s) else .next s

/-- Every monitored quantity has been back in range for 1 s (R454). -/
def execEnvelopeRecovery (s : State) : Host.Outcome State Fault Refusal :=
  if s.powered && s.pwr.inRange then answer (keepPromise 11 s) else .next s

/-- A recharge burst ends (R394, R397, R409): its whole grant is released; another is asked for while the bank is not full. -/
def endBurst (s : State) : State :=
  if s.cis.burst.isNone then s
  else
    let s := s.modCis fun c => { c with burst := none }
    s.modPwr fun p => { p with
      grants := p.grants.filter fun g => g.unit != .recharge, surges := p.surges.filter fun g => g.unit != .recharge }

/-- The end of a recharge burst. -/
def execRechargeBurstEnd (s : State) : Host.Outcome State Fault Refusal :=
  if s.cis.burst.isSome then answer (askRecharge (endBurst s)) else .next s

/-- The string monitor reads (R402, R405, R409): strings that opened, shorted or have a cell more than 0.3 V off fail. -/
def readStrings (r : StringReport) (s : State) : State :=
  let s := s.modCis fun c => { c with
    temp := r.temp, strings := c.strings.mapIdx fun i x => { x with mv := r.mv.getD i x.mv } }
  let s := ((List.range 9).filter fun i => r.broken.contains i || decide (300 < r.dev.getD i 0)).foldl (fun s i => failString i s) s
  if 600 < s.cis.temp then endBurst s else askRecharge s

/-- The string monitor reads. -/
def execStringMonitorRead (r : StringReport) (s : State) : Host.Outcome State Fault Refusal :=
  if s.powered then answer (readStrings r s) else .next s

/-- The spare string is in service (R405). -/
def execSpareStringSwitchedIn (s : State) : Host.Outcome State Fault Refusal :=
  if s.powered then answer (switchSpare s) else .next s

/-- A full test is due (R403). -/
def execStringTestSchedule (s : State) : Host.Outcome State Fault Refusal :=
  if s.boot.phase == .ready && s.cis.test.isNone then answer (startTest (List.range 9) true false none s) else .next s

/-- The test of a string ends (R403, R405): its capacitance and resistance are recorded; below 0.100 F, or above three times its
resistance at manufacture, it has failed. -/
def testedString (i cap esr : Nat) (s : State) : State :=
  match s.cis.test, s.cis.strings[i]? with
  | some t, some x =>
    if t.current != some i then s
    else
      let bad := decide (cap < 1000 ∨ 3 * x.esr0 < esr)
      let s := s.modCis fun c => { c with strings := c.strings.modify i fun y => { y with cap := cap, esr := esr } }
      let s := if bad then failString i s else s
      let lost := match s.cis.strings[i]? with | some y => y.st == 3 | none => false
      let s := s.modCis fun c => { c with
        strings := c.strings.modify i fun y => if y.st == 2 then { y with st := y.was } else y
        test := some { t with current := none, failed := if lost then t.failed ++ [i] else t.failed } }
      advanceTest 10 (recompute s)
  | _, _ => s

/-- The test of a string ends. -/
def execStringTestDone (i cap esr : Nat) (s : State) : Host.Outcome State Fault Refusal :=
  if 9 ≤ i then .fault .absentUnit else answer (testedString i cap esr s)

/-- The allowance is recomputed (R407); a test that waited for posted data to shrink goes on (R404). -/
def execAllowanceRecompute (s : State) : Host.Outcome State Fault Refusal :=
  if s.powered then answer (advanceTest 10 (recompute s)) else .next s

/-- Whether a command was fetched after the Set Features whose entry is under way, so that it stays held (R57, R60). -/
def State.behindEntry (s : State) (f : Flight) : Bool :=
  match s.mgmt.entry with
  | none => false
  | some (_, sqid, cid) => match s.flight? sqid cid with
    | some g => decide (g.order < f.order)
    | none => true

/-- The held commands after an entry or an exit (R59, R60): those that need an exit start it and stay held, the others run, unless an
entry is under way that was asked for before them. -/
def releaseHeld (s : State) : State :=
  (s.nvm.flights.filter fun f => f.phase == .held).foldl (fun s f =>
    if s.behindEntry f || (s.flight? f.sqid f.cid).isNone then s
    else if decide (3 ≤ s.mgmt.ps) && causesExit f.sqid f.opc.toNat f.cmd then beginExit s
    else route f s) s

/-- Whether the drain of an entry into PS3 or PS4 has ended (R57): the commands fetched before it have completed, and no job runs. -/
def State.drainedFor (s : State) (sqid cid : Nat) : Bool :=
  match s.flight? sqid cid with
  | none => true
  | some f =>
    !(s.nvm.flights.any fun g => decide (g.order < f.order) && !(g.sqid == 0 && g.opc == 0x0C)) &&
    (List.range 8).all fun p => let x := s.part p; x.run.isNone && x.batch.isNone && !x.resetting && x.sel.isNone && (x.queues.flatMap id).isEmpty

/-- The clusters are stopped: tile and instruction memory are lost, and their grants with them (Table 2.7). -/
def stopClusters (s : State) : State :=
  let s := s.modClus (·.map fun x => { x with tile := [], tpois := [], im := [], improg := 0, imlen := 0 })
  s.modPwr fun p => { p with
    grants := p.grants.filter fun g => g.unit == .recharge, surges := p.surges.filter fun g => g.unit == .recharge }

/-- What an entry into PS4 adds (R57, R58, R431): the write-back buffer and dirty map pages are on flash, the Reservoir's contents are
lost, the ports are down, and a clean-stop record is appended. -/
def powerDown (s : State) : State :=
  let s := dropSets (fun _ => true) (flushBuffer false s)
  let s := s.modStore fun t => { t with hot := [], loadQ := [] }
  let s := s.modMedia fun m => { m with pages := [] }
  let s := s.modResv fun r => { r with units := [], mem := [], poison := [] }
  let s := (List.range s.variant.ports).foldl (fun s n => portDown n 0 0 s) s
  s.modBoot fun b => { b with clean := true }

/-- The drain of an entry has ended (R57, R60): the state is entered, the completion posted, and what was held goes on. -/
def execPowerStateEntryDrained (s : State) : Host.Outcome State Fault Refusal :=
  match s.mgmt.entry with
  | none => .next s
  | some (ps, sqid, cid) =>
    if s.mgmt.exiting || !s.drainedFor sqid cid then .next s
    else
      let s := (stopClusters s).modMgmt fun m => { m with ps := ps, entry := none }
      let s := if ps = 4 then powerDown s else s
      let s := if (s.flight? sqid cid).isSome then complete sqid cid .success 0 0 s else s
      answer (releaseHeld s)

/-- An exit ends (R59, R63): the last operational state is in force, a suspended self-test resumes, the ports train after PS4, and the
held commands run. -/
def execPowerStateExitDone (s : State) : Host.Outcome State Fault Refusal :=
  if !s.mgmt.exiting || !s.awake then .next s
  else
    let four := s.mgmt.ps == 4
    let s := s.modMgmt fun m => { m with
      ps := m.lastOp, exiting := false, test := m.test.map fun t => { t with suspended := false } }
    answer (serveHeld (releaseHeld (if four then reloadPinned (retrainAll s) else s)))

/-- An extended test has lasted 24 hours (R62). -/
def execSelfTestTimeout (s : State) : Host.Outcome State Fault Refusal := answer (selfTestExpires s)

/-- A sanitize ends (R70). -/
def execSanitizeDone (s : State) : Host.Outcome State Fault Refusal := answer (sanitizeOver s)

end Sys2Proof.Machine
end

