-- ==== Sys2Proof/Machine/JobEvents.lean ====
section
/-! DEFINITION. Events of jobs, partitions, configuration commits and index epochs (R161, R167, R173, R208, R223, R293, R298, R303,
R307, R308, R310, R312, R423). -/

namespace Sys2Proof.Machine

/-- An event of a partition: P0 to P7 exist. -/
def ofPartition (p : Nat) (f : State → State) (s : State) : Host.Outcome State Fault Refusal :=
  if 8 ≤ p then .fault .absentUnit else answer (f s)

/-- An event of a cluster. -/
def ofCluster (c : Nat) (f : State → State) (s : State) : Host.Outcome State Fault Refusal :=
  if s.variant.clusters ≤ c then .fault .absentUnit else answer (f s)

/-- The tile clear of the job that ended is over (R293). -/
def execJobBoundary (p : Nat) (s : State) : Host.Outcome State Fault Refusal := ofPartition p (boundary p) s

/-- The clusters that need another image have not become quiescent (R208). -/
def execQuiescenceWaitTimeout (p : Nat) (s : State) : Host.Outcome State Fault Refusal := ofPartition p (quiescenceOut p) s

/-- A model has been loaded, but for the units of 4 KiB that the store lost (R303, R317). -/
def execModelLoadDone (m : Nat) (s : State) : Host.Outcome State Fault Refusal := answer (loadDone m s)

/-- A batch step ends (R307). -/
def execBatchStepBoundary (p : Nat) (s : State) : Host.Outcome State Fault Refusal := ofPartition p (stepEnd p) s

/-- The job watchdog reaches its limit (R298). -/
def execJobWatchdog (p : Nat) (s : State) : Host.Outcome State Fault Refusal := ofPartition p (jobWatch p) s

/-- A batch step overruns its watchdog (R308). -/
def execStepWatchdog (p : Nat) (s : State) : Host.Outcome State Fault Refusal := ofPartition p (stepWatch p) s

/-- A control core hangs (R223). -/
def execControlCoreHang (c : Nat) (s : State) : Host.Outcome State Fault Refusal := ofCluster c (coreHang c) s

/-- A teardown ends (R228, R310, R311). -/
def execTeardownEnd (p : Nat) (s : State) : Host.Outcome State Fault Refusal := ofPartition p (teardownOver p) s

/-- A partition reset ends (R312). -/
def execPartitionResetEnd (p : Nat) (failed : List Nat) (s : State) : Host.Outcome State Fault Refusal :=
  ofPartition p (partResetOver p failed) s

/-- A barrier of a cluster is drained (R218 to R220). -/
def execBarrierDrained (c : Nat) (s : State) : Host.Outcome State Fault Refusal := ofCluster c (barrierActs c) s

/-- A decoded frame is placed in a staging slot (R245). -/
def execFrameStaged (c : Nat) (s : State) : Host.Outcome State Fault Refusal := ofCluster c (stageFrame c) s

/-- The drain of a commit ends (R423, steps 3 to 5). -/
def execCommitDrainEnd (s : State) : Host.Outcome State Fault Refusal := answer (drainOver s)

/-- DRAIN expires (R423, step 3). -/
def execCommitDrainTimeout (s : State) : Host.Outcome State Fault Refusal := answer (drainTimeout s)

/-- The commit record is durable (R423, step 5). -/
def execCommitRecordDurable (s : State) : Host.Outcome State Fault Refusal := answer (recordDurable s)

/-- The new epoch of an index is durable (R161, R167, R168, R174): it is current, and the command that made it completes. While the
version log has no room for what it supersedes, it waits until bound queries have completed (R170, R189). -/
def epochDurable (nsid idx : Nat) (s : State) : State :=
  match s.idx.find? fun i => i.nsid == nsid && i.id == idx with
  | none => s
  | some ix => match ix.next, ix.work with
    | some n, .publish sqid cid order _ =>
      if !ix.roomFor n.1 then modIndex nsid idx (Index.giveUp n.1) s
      else
      let s := modIndex nsid idx (fun i => { i.advance n.1 n.2 (takenBy order i.pend).2 with work := .none }) s
      complete sqid cid .success 0 (nextEpoch ix.epoch) s
    | some n, .compact sqid cid plots reclaimed sweeps =>
      if !ix.roomFor n.1 then modIndex nsid idx (Index.giveUp n.1) s
      else
      let s := modIndex nsid idx (fun i => { i.advance n.1 n.2 i.pend with
        work := .none, reclaimed := i.reclaimed + reclaimed, sweeps := i.sweeps + sweeps }) s
      complete sqid cid .success plots reclaimed s
    | some _, .training sqid cid =>
      let req := match s.flight? sqid cid with | some f => icReq f.cmd | none => 0
      complete sqid cid .success 1 req (countMirror (modIndex nsid idx (fun i => { i with work := .none, epoch := 1, next := none }) s))
    | _, _ => s

/-- A new epoch is durable. -/
def execEpochDurable (nsid idx : Nat) (s : State) : Host.Outcome State Fault Refusal := answer (epochDurable nsid idx s)

end Sys2Proof.Machine
end

