-- ==== Sys2Proof/Machine/MediaEvents.lean ====
section
/-! DEFINITION. Events of the flash media (R334 to R361, R464). -/

namespace Sys2Proof.Machine

/-- Whether a die exists, and whether a place exists on it (R334, Table 12.2). -/
def State.hasDie (s : State) (ch die : Nat) : Bool := decide (ch < 128 ∧ die < s.variant.diesPerChannel)
def State.hasPlace (s : State) (l : Loc) : Bool :=
  s.hasDie l.ch l.die && decide (l.plane < 6 ∧ 1 ≤ l.block ∧ l.block ≤ 1820 ∧ l.page < (if l.slc then 768 else 3072) ∧ l.unit < 4)

/-- An event of the media: it happens while the flash-management cores run. -/
def ofMedia (f : State → State) (s : State) : Host.Outcome State Fault Refusal :=
  if s.mediaOn then answer (f s) else .next s

/-- Whether a place can take a program (R336, R337, R355, R356): on a data die of its superblock, on a good page, in row order of a
superblock of its mode that is not to be emptied, or as the first of a superblock that may be opened. -/
def State.programmable (s : State) (l : Loc) : Bool :=
  s.hasPlace l && s.goodPage l.ch l.die l.plane l.block &&
  match s.sbOf l with
  | some b => l.ch % 32 != b.parity && b.slc == l.slc && !b.refresh && !b.reloc &&
      (decide (b.row < rowOf l) || (b.row == rowOf l && !b.used.contains (l.ch % 32, l.unit)))
  | none => l.ch % 32 != parityIn (s.outOf (dieSetOf s.variant l)) l.block && s.mayOpen (dieSetOf s.variant l)

/-- Whether a superblock can be a victim by its valid units: closed, in QLC mode, outside the map area. -/
def State.collectable (s : State) (b : Superblock) : Bool :=
  !b.slc && (s.nextIn b).isNone && !(s.media.directory.any fun d => s.inSb b.set b.block d.2)

/-- Whether superblock `b` comes before `c` as a victim: fewer valid units, then the earlier program time, then the lower block (R346). -/
def State.victimBefore (s : State) (b c : Superblock) : Bool :=
  let x := s.validIn b
  let y := s.validIn c
  decide (x < y ∨ x = y ∧ (b.progAt < c.progAt ∨ b.progAt = c.progAt ∧ b.block < c.block))

/-- Whether folding takes precedence over garbage collection: no SLC-mode superblock takes units and HELD is at least TGT (R344). -/
def State.foldFirst (s : State) : Bool :=
  decide (s.slcTarget ≤ s.slcHeld) && (s.media.sbs.any fun b => b.slc && s.validIn b != 0) &&
  !(s.media.sbs.any fun b => b.slc && s.isOpen b)

/-- Whether garbage collection moves the units of a superblock now (R346): one that is marked, else in a die set with fewer than 12 free
superblocks the victim; see log 105 (DEDUCED). -/
def State.collects (s : State) (b : Superblock) : Bool :=
  let mine := s.media.sbs.filter fun c => c.set == b.set
  if b.refresh || b.reloc then true
  else if mine.any fun c => (c.refresh || c.reloc) && s.validIn c != 0 then false
  else if s.media.victims.any fun v => v.1 == b.set then s.media.victims.contains (b.set, b.block)
  else decide (s.freeSbs b.set < 12) && !s.foldFirst && s.collectable b && !(mine.any fun c => s.collectable c && s.victimBefore c b)

/-- Whether folding takes a unit of an SLC-mode superblock now, into a die set (R344, R346): in order of program time, and not before the
garbage collection of a die set with fewer than 6 free superblocks. -/
def State.folds (s : State) (b : Superblock) (set : Nat) : Bool :=
  b.slc && !(s.media.sbs.any fun c => c.slc && s.validIn c != 0 && decide (c.progAt < b.progAt)) &&
  (s.foldFirst || decide (6 ≤ s.freeSbs set) || !(s.media.sbs.any fun c => c.set == set && s.collects c && s.validIn c != 0))

/-- Change a superblock. -/
def modSb (set block : Nat) (f : Superblock → Superblock) (s : State) : State :=
  s.modMedia fun m => { m with sbs := m.sbs.map fun b => if b.set == set && b.block == block then f b else b }

/-- The end of endurance (R358, R359, Table 12.5): with no spare block left the media is read-only for good, and FLASH of RAS_PROMISE
is set; the health events follow. -/
def enduranceCheck (s : State) : State :=
  if s.spareLeft = 0 ∧ !s.media.readOnly then
    checkHealth (losePromise 5 0x11 0xFFFF (s.modMedia fun m => { m with readOnly := true }))
  else checkHealth s

/-- A unit that is lost (R352): BAD, in the journal, with a record. -/
def markLost (ch : Nat) (e : MapE) (s : State) : State :=
  let s := setEntry { e with bad := true } (s.modMedia fun m => { m with lost := m.lost + 1 })
  addRecord { kind := 0x10, cls := 2, action := 8, inst := ch, addr := e.lba, detail := 0 } s

/-- The units of 4 KiB of the model store: object and number. -/
def Store.units (t : Store) : List (Nat × Nat) :=
  t.objs.flatMap fun o => (List.range ((o.bytes.length + 4095) / 4096)).map fun k => (o.id, k)

/-- A unit is lost at a place without host data: it may be one of the model store, and which one is open (R317); see log 66 (DESIGN
CHOICE). -/
def storeLoses (ch : Nat) (s : State) : State :=
  let r := draw s
  match s.store.units[r.1.toNat % (s.store.units.length + 1)]? with
  | some x => addRecord { kind := 0x10, cls := 2, action := 8, inst := ch, addr := x.1 } (r.2.modStore fun t => { t with lost := t.lost ++ [x] })
  | none => r.2

/-- Whether the rows of a superblock have data on both of two channels' dies (R356). -/
def State.acrossDies (s : State) (l : Loc) (a b : Nat) : Bool :=
  match s.sbOf l with
  | some x => ([a % 32, b % 32].all fun k => !x.out.contains k && k != x.parity)
  | none => false

/-- A die fails (R356): masked by parity, its 10,920 blocks replaced out of the spare blocks (R29), its die set is marked for relocation and rebuilt, event 03h. While an earlier rebuild of the
die set runs, the units of rows with data on both dies are lost (R30); see log 67 (DEDUCED); see log 71 (DEDUCED). -/
def failDie (ch die : Nat) (s : State) : State :=
  if s.media.failed.contains (ch, die) then s
  else
    let set := dieSetOf s.variant ⟨ch, die, 0, 0, 0, 0, false⟩
    let others := s.media.rebuilding.filter fun d => d.1 / 32 == ch / 32 && d.2 == die
    let s := s.modMedia fun m => { m with
      failed := m.failed ++ [(ch, die)], rebuilding := m.rebuilding ++ [(ch, die)]
      spareUsed := m.spareUsed + (10920 - (m.retired.filter fun r => r.ch == ch && r.die == die).length)
      sbs := m.sbs.map fun b => if b.set == set then { b with reloc := true } else b }
    let s := addRecord { kind := 0x12, cls := 0, action := 3, inst := ch * 16 + die, spare := true } s
    let s := losePromise 5 0x12 (ch * 16 + die) s
    let s := others.foldl (fun s d =>
      let gone := s.media.map.filter fun e => !e.bad && e.loc.die == die && (e.loc.ch == ch || e.loc.ch == d.1) && s.acrossDies e.loc ch d.1
      gone.foldl (fun s e => markLost e.loc.ch e s) (s.modGen fun g => { g with lost := true })) s
    raiseEvent 7 3 0xC4 (enduranceCheck s)

/-- A block is retired (R350, R355): a spare takes its place, its superblock is marked for relocation; three planes of a die within an hour
fail the die (R356). -/
def retireBlock (l : Loc) (s : State) : State :=
  if s.media.retired.any fun r => r.ch == l.ch && r.die == l.die && r.plane == l.plane && r.block == l.block then s
  else
    let s := s.modMedia fun m => { m with
      retired := m.retired ++ [⟨l.ch, l.die, l.plane, l.block, s.now⟩], spareUsed := m.spareUsed + 1 }
    let s := modSb (dieSetOf s.variant l) l.block (fun b => { b with reloc := true }) s
    let s := journaled [] 1 (addRecord { kind := 0x11, cls := 0, action := 8, inst := l.ch, addr := l.block, spare := true } s)
    let recent := (s.media.retired.filter fun r => r.ch == l.ch && r.die == l.die && decide (s.now ≤ r.at_ + 3600000000)).map (·.plane)
    enduranceCheck (if 3 ≤ (sortDedup recent).length then failDie l.ch l.die s else s)

/-- The statistics of a unit read at a step of the ladder: 0 to 8, 9 when it was lost (Table 12.6). -/
def countStep (ch step : Nat) (s : State) : State :=
  s.modMedia fun m =>
    let old := (m.chans.find? fun x => x.ch == ch).getD ⟨ch, 0, 0⟩
    { m with
      hist := if step ≤ 8 then m.hist.modify step (· + 1) else m.hist
      chans := (m.chans.filter fun x => x.ch != ch) ++ [⟨ch, old.stepSum + min step 8, old.reads + 1⟩] }

/-- A unit of a page that was read: recovered at `step`, rewritten elsewhere when it was rebuilt from its stripe, lost at 9 (R352);
see log 66 (DEDUCED). -/
def unitRead (l : Loc) (step : Nat) (s : State) : State :=
  let s := countStep l.ch step s
  let entry := s.media.map.find? fun (e : MapE) => e.loc == l && !e.bad
  if step = 0 then s
  else if step < 8 then addRecord { kind := 0x10, cls := 0, action := 4, inst := l.ch, addr := (entry.map (·.lba)).getD 0 } s
  else match entry with
    | none => if step = 9 then storeLoses l.ch s else s
    | some e =>
      if step = 8 then
        let s := addRecord { kind := 0x10, cls := 0, action := 1, inst := l.ch, addr := e.lba } s
        let d := drawLoc false none s
        setEntry { e with loc := d.1 } (countUnits 0 1 (noteProgram d.1 1 d.2))
      else markLost l.ch e s

/-- Whether a superblock is due for refresh by its age (R353): 90 days, or 14 in SLC mode. -/
def Superblock.old (b : Superblock) : Bool := decide ((if b.slc then 14 else 90) * 86400000000 < b.age)

/-- A page read (R352, R353, R355, R361): `steps` gives, for each unit of the page in order, the step at which it was recovered, 9 when
it was lost, above 9 when it was not needed. The pages of a failed die are read at step 8 without steps 0 to 7 (R356). -/
def pageRead (l : Loc) (steps : List Nat) (s : State) : State :=
  let least := if s.media.failed.contains (l.ch, l.die) then 8 else 0
  let used := (steps.zipIdx.filter fun x => decide (x.1 ≤ 9 ∧ x.2 < 4)).map fun x => (max least x.1, x.2)
  let worst := maxOf (used.map (·.1))
  let s := used.foldl (fun s x => unitRead { l with unit := x.2 } x.1 s) s
  let s := modSb (dieSetOf s.variant l) l.block (fun b => { b with
    reads := b.reads + 1, step := if worst ≤ 7 then worst else b.step
    refresh := b.refresh || decide (5 ≤ worst ∨ 100000 ≤ b.reads + 1) }) s
  if 8 ≤ worst ∧ !s.media.failed.contains (l.ch, l.die) then retireBlock l s else checkHealth s

/-- A page read returns (R352); `us` is its latency. -/
def execFlashPageReadDone (l : Loc) (steps : List Nat) (us : Nat) (s : State) : Host.Outcome State Fault Refusal :=
  if !s.hasPlace l then .fault .absentUnit
  else ofMedia (fun s => pageRead l steps (s.modMedia fun m => { m with
    latency := (m.latency.filter fun x => decide (s.now < x.1 + 86400000000)) ++ [(s.now, us)] })) s

/-- A program of a buffered unit ends (R337, R341, R343, R355): the unit is confirmed at its place; when it failed, the block is retired
and the unit stays in the buffer. The place is in SLC mode while the SLC buffer is below its target, else in QLC, and in a die set with at
least 3 free superblocks (R346); see log 65 (DEDUCED). -/
def programDone (l : Loc) (nsid lba : Nat) (passed : Bool) (s : State) : State :=
  let mine := fun (u : WbUnit) => u.nsid == nsid && u.lba == lba
  if !(s.media.wb.any mine) || !s.programmable l || l.slc != decide (s.slcHeld < s.slcTarget) ||
      decide (s.freeSbs (dieSetOf s.variant l) < 3) then s
  else if !passed then retireBlock l s
  else
    let s := countUnits 0 1 (noteProgram l 1 s)
    let s := s.modMedia fun m => { m with
      wb := m.wb.filter fun u => !mine u, reserve := m.reserve || l.slc
      map := (m.map.filter fun e => !(e.nsid == nsid && e.lba == lba)) ++ [⟨nsid, lba, false, l⟩] }
    advanceTest 10 s

/-- A program status is read back (R337). -/
def execFlashProgramDone (l : Loc) (nsid lba : Nat) (ok : Bool) (s : State) : Host.Outcome State Fault Refusal :=
  if !s.hasPlace l then .fault .absentUnit else ofMedia (programDone l nsid lba ok) s

/-- Whether the erase of a superblock is under way: it is to be erased, and its group of dies holds its grant (R337, R347, R392). -/
def State.erasing (s : State) (set block : Nat) : Bool :=
  (s.media.sbs.any fun b => b.set == set && b.block == block && s.emptied b) && s.pwr.grants.any fun g => g.unit == eraseGroupOf set

/-- An erase ends (R347, R355, R357): of a superblock without valid units. It adds wear and a journal record; one that failed retires a
block of the superblock, which the spec leaves open (a free value, log 9). -/
def eraseDone (set block : Nat) (passed slc : Bool) (s : State) : State :=
  if !s.erasing set block then s
  else
  let s := s.modPwr fun p => { p with grants := p.grants.map fun g => if g.unit == eraseGroupOf set then { g with idle := 0 } else g }
  if !passed then
    let r := draw s
    let n := r.1.toNat
    let per := s.variant.diesPerChannel
    retireBlock ⟨set / per * 32 + n % 32, set % per, n / 32 % 6, block, 0, 0, slc⟩ r.2
  else
    let mode := match s.media.sbs.find? fun b => b.set == set && b.block == block with | some b => b.slc | none => slc
    let fresh := s.media.sbs.any fun b => b.set == set && b.block == block && b.refresh
    let was := match s.media.wear.find? fun w => w.1 == set && w.2.1 == block with | some w => w.2.2 | none => 0
    let s := s.modMedia fun m => { m with
      sbs := m.sbs.filter fun b => !(b.set == set && b.block == block), victims := m.victims.filter (· != (set, block))
      wear := (m.wear.filter fun w => !(w.1 == set && w.2.1 == block)) ++ [(set, block, was + (if mode then 3 else 20))]
      refreshed := m.refreshed + b2n fresh }
    checkHealth (journaled [] 1 s)

/-- An erase of superblock `block` of a die set ends. -/
def execFlashEraseDone (dieSet block : Nat) (ok slc : Bool) (s : State) : Host.Outcome State Fault Refusal :=
  if s.variant.dieSets ≤ dieSet ∨ block = 0 ∨ 1820 < block then .fault .absentUnit else ofMedia (eraseDone dieSet block ok slc) s

/-- A die does not answer its status poll (R356). -/
def execDieStatusPollTimeout (ch die : Nat) (s : State) : Host.Outcome State Fault Refusal :=
  if !s.hasDie ch die then .fault .absentUnit else ofMedia (failDie ch die) s

/-- Whether a place lies in a superblock that counted on a die (R356). -/
def State.countsOn (s : State) (ch die : Nat) (l : Loc) : Bool :=
  dieSetOf s.variant l == dieSetOf s.variant ⟨ch, die, 0, 0, 0, 0, false⟩ &&
  match s.sbOf l with
  | some b => !b.out.contains (ch % 32)
  | none => true

/-- A rebuild ends (R356, R361, R454): the units and the map pages of every superblock that counted on the die have been rebuilt into other
die sets (places are free values, log 9); FLASH clears when spare blocks are left and no other rebuild runs. -/
def rebuildDone (ch die : Nat) (s : State) : State :=
  if !s.media.rebuilding.contains (ch, die) then s
  else
    let there := s.media.map.filter fun e => !e.bad && s.countsOn ch die e.loc
    let maps := s.media.directory.filter fun d => s.countsOn ch die d.2
    let s := there.foldl (fun s e =>
      let d := drawLoc e.loc.slc (some (dieSetOf s.variant e.loc)) s
      setEntry { e with loc := d.1 } (countUnits 0 1 (noteProgram d.1 1 d.2))) s
    let s := maps.foldl (fun s p =>
      let d := drawLoc false (some (dieSetOf s.variant p.2)) s
      (countUnits 0 4 (noteProgram d.1 4 d.2)).modMedia fun m => { m with
        directory := m.directory.map fun q => if q.1 == p.1 then (q.1, d.1) else q }) s
    let s := s.modMedia fun m => { m with rebuilding := m.rebuilding.filter (· != (ch, die)) }
    let s := if s.media.rebuilding.isEmpty && s.spareLeft != 0 then keepPromise 5 s else s
    raiseEvent 7 3 0xC4 s

/-- A rebuild ends. -/
def execDieRebuildDone (ch die : Nat) (s : State) : Host.Outcome State Fault Refusal :=
  if !s.hasDie ch die then .fault .absentUnit else ofMedia (rebuildDone ch die) s

/-- The copy of a moved unit is confirmed and its journal record durable (R347, R348): the map follows only while its entry names the
source. -/
def moved (nsid lba : Nat) (src dst : Loc) (s : State) : State :=
  let s := countUnits 0 1 (noteProgram dst 1 s)
  match s.entry? nsid lba with
  | some e => if e.loc == src && !e.bad then setEntry { e with loc := dst } s else journaled [] 1 s
  | none => journaled [] 1 s

/-- Whether a die set is being rebuilt (R356). -/
def State.inRebuild (s : State) (set : Nat) : Bool :=
  s.media.rebuilding.any fun d => dieSetOf s.variant ⟨d.1, d.2, 0, 0, 0, 0, false⟩ == set

/-- Whether a move of garbage collection takes place: out of a superblock that it empties, into another one in QLC mode (R346, R347), out
of a superblock that a rebuild relocates into another die set (R356). -/
def State.gcMoves (s : State) (src dst : Loc) : Bool :=
  s.programmable dst && !dst.slc &&
  match s.sbOf src with
  | some b => s.collects b && !s.inSb b.set b.block dst && !(b.reloc && s.inRebuild b.set && dieSetOf s.variant dst == b.set)
  | none => false

/-- A superblock that garbage collection has begun to empty goes on being emptied. -/
def beginVictim (src : Loc) (s : State) : State :=
  let k := (dieSetOf s.variant src, src.block)
  s.modMedia fun m => { m with victims := if m.victims.contains k then m.victims else m.victims ++ [k] }

/-- A move of garbage collection (R346, R347). -/
def execGcMove (nsid lba : Nat) (src dst : Loc) (s : State) : Host.Outcome State Fault Refusal :=
  if !s.hasPlace src || !s.hasPlace dst then .fault .absentUnit
  else if s.gcMoves src dst then ofMedia (fun s => moved nsid lba src dst (beginVictim src s)) s else .next s

/-- Whether a unit is folded: out of the SLC-mode superblock whose turn it is, into QLC (R344). -/
def State.foldMoves (s : State) (e : MapE) (dst : Loc) : Bool :=
  e.loc.slc && !e.bad && s.programmable dst && !dst.slc &&
  match s.sbOf e.loc with
  | some b => s.folds b (dieSetOf s.variant dst)
  | none => false

/-- Folding of a unit (R344). -/
def execFold (nsid lba : Nat) (dst : Loc) (s : State) : Host.Outcome State Fault Refusal :=
  if !s.hasPlace dst then .fault .absentUnit
  else match s.entry? nsid lba with
    | some e => if s.foldMoves e dst then ofMedia (moved nsid lba e.loc dst) s else .next s
    | none => .next s

/-- The patrol reads a page (R351, R353, R354): the ladder, the equivalent age of its superblock at the present temperature, and the
age rule; a pass that ends renews the promise; see log 69 (DEDUCED). -/
def patrolRead (l : Loc) (steps : List Nat) (passEnds : Bool) (s : State) : State :=
  if !s.media.scrubEn then s
  else
    let t := s.pwr.temps.getD 4 0
    let s := modSb (dieSetOf s.variant l) l.block (fun b =>
      let b := { b with age := b.age + aged t (s.now - b.scrubbed), scrubbed := s.now }
      { b with refresh := b.refresh || b.old }) (pageRead l steps s)
    if passEnds then keepPromise 10 (s.modMedia fun m => { m with scrubAt := s.now }) else s

/-- The media patrol reads a page. -/
def execMediaPatrolRead (l : Loc) (steps : List Nat) (passEnds : Bool) (s : State) : Host.Outcome State Fault Refusal :=
  if !s.hasPlace l then .fault .absentUnit else ofMedia (patrolRead l steps passEnds) s

/-- The directory is checkpointed (R350): replay begins from it. -/
def execDirectoryCheckpoint (s : State) : Host.Outcome State Fault Refusal :=
  ofMedia (fun s => s.modMedia fun m => { m with sinceCkpt := 0, undo := [] }) s

/-- A map page is confirmed (R339, R340): in a QLC superblock; it is clean, and its new location enters the directory. The room it leaves
among the dirty pages goes to an update that waited. -/
def execMapPageConfirmed (page : Nat) (l : Loc) (s : State) : Host.Outcome State Fault Refusal :=
  if !s.hasPlace l then .fault .absentUnit
  else if s.media.dirty.contains page && s.programmable l && !l.slc && l.unit == 0 then
    ofMedia (fun s => (countUnits 0 4 (noteProgram l 4 s)).modMedia fun m => { m with
      dirty := m.dirty.filter (· != page) ++ (m.late.filter (· != page)).take 1, late := (m.late.filter (· != page)).drop 1
      directory := (m.directory.filter fun d => d.1 != page) ++ [(page, l)] }) s
  else .next s

/-- The Timestamp has not been set within 60 s of ready (R351); see log 68 (DEDUCED). -/
def execTimestampTimeout (s : State) : Host.Outcome State Fault Refusal :=
  if s.boot.phase == .ready && !s.nvm.tsSet then answer (s.modMedia fun m => { m with ageUnk := true }) else .next s

/-- A flash-management core is silent (R464): it is restarted, and its operations are reissued; a second hang of it within an hour
causes a controller reset; see log 97 (DEDUCED). -/
def coreSilent (core : Nat) (s : State) : State :=
  let again := s.ras.fmcHangs.any fun h => h.1 == core && decide (s.now < h.2 + 3600000000)
  let s := s.modRas fun r => { r with
    fmcRst := sat32 r.fmcRst, fmcHangs := (core, s.now) :: r.fmcHangs.filter fun h => h.1 != core }
  if again then (addRecord { kind := 0x1A, cls := 3, action := 7, inst := core } s).modEscalate fun _ => true
  else addRecord { kind := 0x1A, cls := 0, action := 4, inst := core } s

/-- The watchdog of a flash-management core. -/
def execFmcCoreWatchdog (core : Nat) (s : State) : Host.Outcome State Fault Refusal :=
  if 16 ≤ core then .fault .absentUnit else ofMedia (coreSilent core) s

end Sys2Proof.Machine
end

