-- ==== Sys2Proof/Machine/ReservoirEvents.lean ====
section
/-! DEFINITION. Events of the Reservoir and of its patrol (R326 to R332, R456, R461, R462). -/

namespace Sys2Proof.Machine

/-- Whether an armed injection is what this error comes from (R477). The model plants it where the memory is next read (log 51). -/
def State.injectedHit (s : State) (mem inst : Nat) (r : CodeRead) : Bool :=
  s.ras.injArm && s.ras.injMem == mem && s.ras.injInst == inst &&
  (match r with | .clean => false | .corrected => s.ras.injType == 1 | .beyond => s.ras.injType == 2)

/-- The injection is spent. -/
def disarm (hit : Bool) (s : State) : State :=
  if hit then s.modRas fun r => { r with injArm := false } else s

/-- Whether the memories are in use: the management processor runs, in an operational state (R462). -/
def State.operating (s : State) : Bool := s.answers && decide (s.mgmt.ps < 3)

/-- A correction in a row of a bank (R332, R456): the second within a patrol interval remaps the row; a bank without a spare row keeps
it, with HBMREP of RAS_PROMISE. -/
def hbmCorrected (stack bank row gran : Nat) (spareRow hit : Bool) (s : State) : State :=
  let r : Fault17 := { kind := 4, action := 1, inst := stack, addr := gran * 64, detail := 8, injected := hit }
  let s := addRecord r s
  let place := (stack, bank, row)
  if !s.resv.corr.contains place then s.modResv fun x => { x with corr := place :: x.corr }
  else if spareRow && !s.resv.spareRows.contains (stack, bank) then
    addRecord { r with action := 3, spare := true } (s.modResv fun x => { x with
      corr := x.corr.filter (· != place), rows := place :: x.rows, rowRep := sat32 x.rowRep })
  else
    losePromise 4 4 stack (addRecord { r with action := 0, own := true } (s.modResv fun x => { x with
      spareRows := if x.spareRows.contains (stack, bank) then x.spareRows else (stack, bank) :: x.spareRows }))

/-- An error beyond the code (Table 17.1, kind 05h): the granule is poisoned, with contents that the spec does not state; the reading
cluster counts it (R224). -/
def hbmBeyond (reader : Option Nat) (stack gran : Nat) (hit : Bool) (s : State) : State :=
  let b := drawBytes 64 s
  let s := resvWrite (gran * 64) b.1 [0] b.2
  let r : Fault17 := { kind := 5, cls := 1, action := 2, inst := stack, addr := gran * 64, detail := 8, injected := hit }
  match reader with
  | some c => poisonOrigin c 1 r s
  | none => addRecord r s

/-- A read of a granule of the Reservoir that delivers (R329, R456). -/
def reservoirRead (c stack bank row gran : Nat) (r : CodeRead) (spareRow : Bool) (s : State) : State :=
  let hit := s.injectedHit 8 stack r
  match r with
  | .clean => s
  | .corrected => hbmCorrected stack bank row gran spareRow hit (disarm hit s)
  | .beyond => hbmBeyond (some c) stack gran hit (disarm hit s)

/-- A read of a cluster delivers its data. -/
def execReservoirRead (c stack bank row gran : Nat) (r : CodeRead) (spareRow : Bool) (s : State) : Host.Outcome State Fault Refusal :=
  if s.variant.clusters ≤ c ∨ s.variant.stackCount ≤ stack then .fault .absentUnit
  else if s.operating then answer (reservoirRead c stack bank row gran r spareRow s) else .next s

/-- Whether a unit of the pool has pages on the stacks of a die: its home die, or every stack (R318). -/
def PoolUnit.onDie (u : PoolUnit) (die : Nat) : Bool := match u.home with | some d => d == die | none => true

/-- Units that lost pages on a retired channel (R331): which ones is open (free values, log 9). Result sets become invalid; models, index
parts and clean map pages not in use are dropped and reload on demand; see log 72 (DEDUCED). -/
def loseUnits (stack : Nat) (s : State) : State :=
  let units := s.resv.units.filter fun u => u.cls ≤ 3 && u.onDie (stack / 6)
  units.foldl (fun s u =>
    let d := draw s
    if d.1.toNat % 2 = 0 then d.2
    else if u.cls == 0 then releaseSet u.key d.2
    else if u.users != 0 || (u.cls == 2 && s.media.dirty.contains u.key) then d.2
    else
      let n := s.resv.evict
      (dropUnit u d.2).modResv fun r => { r with evict := n }) s

/-- Retire a channel, and the stack when more than 8 of its channels are lost (R331, R30). -/
def retireChannel (stack ch : Nat) (s : State) : State :=
  let spent := s.resv.lanes.contains (stack, ch)
  let s := s.modResv fun r => { r with chRet := r.chRet ++ [(stack, ch)] }
  let whole := decide (8 < (s.resv.chRet.filter fun c => c.1 == stack).length) && !s.resv.stkLost.contains stack
  let s := s.modResv fun r => { r with
    stkLost := if whole then r.stkLost ++ [stack] else r.stkLost
    rebuild := if s.variant == .d1024 && !r.rebuild.contains stack then r.rebuild ++ [stack] else r.rebuild }
  let s := addRecord { kind := 6, action := 8, inst := stack, detail := 8 + ch * 256 } (loseUnits stack s)
  if spent then losePromise 4 6 stack (s.modGen fun g => { g with lost := true }) else s

/-- What follows a failure to deliver (R331): a spare lane of the channel, or its retirement. -/
def repairChannel (stack ch : Nat) (spareLane : Bool) (s : State) : State :=
  if s.resv.chRet.contains (stack, ch) then s
  else if spareLane then
    addRecord { kind := 6, action := 3, inst := stack, detail := 8 + ch * 256, spare := true } (s.modResv fun r => { r with
      lanes := if r.lanes.contains (stack, ch) then r.lanes else r.lanes ++ [(stack, ch)], laneRep := sat32 r.laneRep })
  else retireChannel stack ch s

/-- A read of a job that no copy can serve: on the KS9-D1024 the granule is delivered poisoned, on the KS9-D512 the job ends with Tier
Failed (Table 11.5). -/
def readLost (c gran : Nat) (r : Fault17) (s : State) : State :=
  match s.variant with
  | .d1024 =>
    let s := (s.modResv fun x => { x with
      undelivered := x.undelivered ++ [(c, gran, s.free)], nmFail := sat32 x.nmFail }).modFree (· + 64)
    poisonOrigin c 1 r s
  | .d512 =>
    match s.jobPart c with
    | none => addRecord { r with cls := 2 } s
    | some p =>
      let s := if s.tearing p || (s.part p).resetting then s else s.modResv fun x => { x with tierFail := sat32 x.tierFail }
      contextError p r .tierFailed s

/-- A failure to deliver (R329, R330, Table 11.5). DETAIL names the channel in bits 15:8 (DESIGN CHOICE, log 52). -/
def deliveryFails (c stack ch gran : Nat) (k : RegionKind) (bothCopies : Bool) (s : State) : State :=
  let r : Fault17 := { kind := 6, action := 4, inst := stack, addr := gran * 64, detail := 8 + ch * 256 }
  let pair := (stack + 6) % 12
  let both := bothCopies || s.resv.rebuild.contains pair || s.resv.stkLost.contains pair
  let poisoned := fun (s : State) => addRecord { r with cls := 1, action := 2 } s
  let counted := fun (s : State) => s.modResv fun x => { x with nmFail := sat32 x.nmFail }
  let fromMirror := fun (s : State) => addRecord r (s.modResv fun x => { x with
    mirRet := sat32 x.mirRet, rebuild := if x.rebuild.contains stack then x.rebuild else x.rebuild ++ [stack] })
  match s.variant, k with
  | .d1024, .mirrored => if both then readLost c gran r s else fromMirror s
  | .d1024, .protected_ => if both then poisoned (counted s) else fromMirror s
  | .d512, .protected_ => addRecord r s
  | .d1024, .coreRead => poisoned (counted s)
  | .d512, .coreRead => poisoned s
  | .d1024, .resultFetch => poisoned s
  | .d512, .resultFetch => addRecord { r with cls := 2, action := 5 } s
  | _, _ => readLost c gran r s

/-- A read is late (R329): the first three times it is reissued; the fourth time, or on a channel that is down, it fails. -/
def readLate (c stack ch gran attempt : Nat) (k : RegionKind) (bothCopies spareLane : Bool) (s : State) : State :=
  if attempt < 4 && !s.resv.chRet.contains (stack, ch) then s.modResv fun r => { r with late := sat32 r.late }
  else repairChannel stack ch spareLane (deliveryFails c stack ch gran k bothCopies s)

/-- A Reservoir read is late, or fails to deliver. -/
def execReservoirReadLate (c stack ch gran attempt : Nat) (k : RegionKind) (bothCopies spareLane : Bool) (s : State) :
    Host.Outcome State Fault Refusal :=
  if s.variant.clusters ≤ c ∨ s.variant.stackCount ≤ stack ∨ 32 ≤ ch then .fault .absentUnit
  else if s.operating then answer (readLate c stack ch gran attempt k bothCopies spareLane s) else .next s

/-- The copies that a stack held are rebuilt (R327). -/
def execMirrorRebuildDone (stack : Nat) (s : State) : Host.Outcome State Fault Refusal :=
  if s.variant.stackCount ≤ stack then .fault .absentUnit
  else if s.resv.rebuild.contains stack then
    answer (s.modResv fun r => { r with rebuild := r.rebuild.filter (· != stack) })
  else .next s

/-- The HBM patrol reads a granule (R461, R462); at the end of a pass its interval begins anew, and the promise holds again (R454). -/
def hbmPatrol (stack bank row gran : Nat) (r : CodeRead) (spareRow passEnds : Bool) (s : State) : State :=
  let hit := s.injectedHit 8 stack r
  let s := match r with
    | .clean => s
    | .corrected => hbmCorrected stack bank row gran spareRow hit (disarm hit s)
    | .beyond => hbmBeyond none stack gran hit (disarm hit s)
  if passEnds then
    keepPromise 9 ((s.modRas fun x => { x with hbmAt := x.hbmPass, hbmPass := s.now }).modResv fun x => { x with corr := [] })
  else s

/-- The HBM patrol reads a granule of a stack that is not retired. -/
def execHbmPatrol (stack bank row gran : Nat) (r : CodeRead) (spareRow passEnds : Bool) (s : State) : Host.Outcome State Fault Refusal :=
  if s.variant.stackCount ≤ stack then .fault .absentUnit
  else if s.operating && s.ras.hbmScrub && !s.resv.stkLost.contains stack then
    answer (hbmPatrol stack bank row gran r spareRow passEnds s)
  else .next s

end Sys2Proof.Machine
end

