-- ==== Sys2Proof/Machine/FaultEvents.lean ====
section
/-! DEFINITION. Faults of the SRAMs, the die-to-die links, the host link and the management processor; the boot flash (R434 to R437, R452,
R459, R460, R463, R465, R472, R473). -/

namespace Sys2Proof.Machine

/-- The location is rewritten (R459): with zero; instruction memory with its image, an object's VALUE with 0. ADDR counts bytes of the
memory, for MEM 04h objects of the cluster (DESIGN CHOICE, log 51). Queue memory and command copies are flushed with the context. -/
def rewriteLocation (mem c addr : Nat) (s : State) : State :=
  match mem with
  | 1 => modClu c (Clu.modCore fun k => { k with dm := Mem.write 0 k.dm addr [0] }) s
  | 3 => modClu c (Clu.modCore fun k => { k with ag := k.ag.modify (addr / 64) fun d => patch d (addr % 64) [0] }) s
  | 4 => modClu c (Clu.modObj (addr % 128) fun o => { o with value := 0 }) s
  | _ => s

/-- An error beyond the code in control-core, queue, descriptor, sync-object or instruction memory (R459): a context that holds it ends,
the location is rewritten, and a recurrence there fails the cluster (R231). -/
def memoryError (mem c addr : Nat) (hit : Bool) (s : State) : State :=
  let r : Fault17 := { kind := 3, cls := 2, action := 0, inst := c, addr := addr, detail := mem, injected := hit, attr := .unit 0xB c }
  let again := s.ras.repeats.contains (mem, c, addr)
  let s := rewriteLocation mem c addr (match s.jobPart c with
    | some p => contextError p r .internalError s
    | none => addRecord r s)
  if again then failCluster c s
  else s.modRas fun x => { x with repeats := (mem, c, addr) :: x.repeats }

/-- An error beyond the code in tile memory or the staging buffer (Table 17.1, kind 02h): the granule is poisoned; its contents are not
stated (log 9). -/
def granuleError (mem c addr : Nat) (hit : Bool) (s : State) : State :=
  let r : Fault17 := { kind := 2, inst := c, addr := addr, detail := mem, injected := hit }
  let b := drawBytes 64 s
  let a := addr / 64 * 64
  let s := modClu c (fun x =>
    if mem == 6 then x.tileWrite a b.1 true
    else { x with ring := { x.ring with
      mem := Mem.write 0 x.ring.mem a b.1, pois := sortDedup (x.ring.pois ++ [addr / 64]) } }) b.2
  poisonOrigin c 1 r s

/-- A fatal fault of the management processor: 1Ch while a handler is open (R472, R473). -/
def managementFault (kind addr detail : Nat) (hit : Bool) (s : State) : State :=
  fatalFault { kind := if s.ras.hdepth = 0 then kind else 0x1C, addr := addr, detail := detail, injected := hit
               attr := if s.ras.hdepth = 0 then .none else .handler } s

/-- An error of an SRAM (Table 17.2). -/
def sramError (mem inst addr : Nat) (r : CodeRead) (s : State) : State :=
  let hit := s.injectedHit mem inst r
  let s := disarm hit s
  match r with
  | .clean => s
  | .corrected =>
    addRecord { kind := 1, action := 1, inst := if mem = 9 then 0xFFFF else inst, addr := addr, detail := mem, injected := hit } s
  | .beyond =>
    if mem = 9 then managementFault 0x17 addr mem hit s
    else if mem = 6 ∨ mem = 7 then granuleError mem inst addr hit s
    else memoryError mem inst addr hit s

/-- The SRAM patrol reads a location (R460, R462); a pass that ends renews the promise (R454); see log 93 (DEDUCED). -/
def sramPatrol (mem inst addr : Nat) (r : CodeRead) (passEnds : Bool) (s : State) : State :=
  let s := sramError mem inst addr r s
  if passEnds then keepPromise 8 (s.modRas fun x => { x with sramAt := x.sramPass, sramPass := s.now }) else s

/-- The SRAM patrol reads a location of a memory of MEM 01h to 07h or 09h. -/
def execSramPatrol (mem inst addr : Nat) (r : CodeRead) (passEnds : Bool) (s : State) : Host.Outcome State Fault Refusal :=
  if mem = 0 ∨ mem = 8 ∨ 9 < mem ∨ (mem ≠ 9 ∧ s.variant.clusters ≤ inst) then .fault .absentUnit
  else if s.operating && s.ras.sramScrub then answer (sramPatrol mem inst addr r passEnds s) else .next s

/-- What a slice of a self-test finds on its unit (Table 2.9, R62): the steps at which the pages of segments 3 and 7 are decoded, which are
counted, are free values (log 9); a cluster whose control core fails, an array that fails, and a block that fails the extended test are
treated as R229, R231 and R355 say, the array and the block being open too. -/
def sliceFinds (seg unit : Nat) (passed : Bool) (s : State) : State :=
  let ch := unit / s.variant.diesPerChannel
  let reads := if seg = 3 then 1 else if seg = 7 then 6 else 0
  let s := (List.range reads).foldl (fun s _ =>
    let r := draw s
    countStep ch (r.1.toNat % 9) r.2) s
  if passed then s
  else
    let r := draw s
    let n := r.1.toNat
    if seg = 4 then failCluster unit s
    else if seg = 8 then failArray unit (n % 16) r.2
    else if seg = 7 then retireBlock ⟨ch, unit % s.variant.diesPerChannel, n % 6, n / 8 % 1820 + 1, 0, 0, false⟩ r.2
    else s

/-- A slice of a self-test (R61, R62). -/
def execSelfTestSlice (seg unit : Nat) (ok : Bool) (s : State) : Host.Outcome State Fault Refusal :=
  if s.sliceRuns seg unit then answer (selfTestStep seg unit ok (sliceFinds seg unit ok s)) else .next s

/-- Die-to-die links (R20, Table 1.2): the I/O die to each compute die, compute die 0 to 1, and a compute die to each of its stacks. They
are numbered in this order; see log 99 (DEDUCED). -/
def Variant.dieLinks (v : Variant) : Nat := (match v with | .d1024 => 3 | .d512 => 1) + v.stackCount

/-- A lane of a die-to-die link fails (Table 17.1, kind 0Ch): the flit is retried, the link runs at half width until the next reset; UCIE
of RAS_PROMISE when no redundant lane is left, and then for good (R30). -/
def ucieLane (link : Nat) (spareLeft : Bool) (s : State) : State :=
  let s := addRecord { kind := 0xC, action := 4, inst := link } (s.modRas fun r => { r with
    ucieHalf := if r.ucieHalf.contains link then r.ucieHalf else r.ucieHalf ++ [link] })
  if spareLeft then s
  else losePromise 7 0xC link ((s.modRas fun r => { r with
    ucieSpent := if r.ucieSpent.contains link then r.ucieSpent else r.ucieSpent ++ [link] }).modGen fun g => { g with lost := true })

/-- A lane of a die-to-die link fails. -/
def execUcieLaneFault (link : Nat) (spareLeft : Bool) (s : State) : Host.Outcome State Fault Refusal :=
  if Variant.dieLinks s.variant ≤ link then .fault .absentUnit
  else if s.answers then answer (ucieLane link spareLeft s) else .next s

/-- An error of the host link is replayed (Table 17.1, kind 0Fh). -/
def execHostLinkError (s : State) : Host.Outcome State Fault Refusal :=
  if s.answers && s.nvm.link.up then answer (addRecord { kind := 0xF, action := 4 } s) else .next s

/-- A memory error beyond the code in the management processor's memory, or in a fetch from the boot flash (R472, R473). -/
def execManagementProcessorMemoryError (boot : Bool) (addr : Nat) (s : State) : Host.Outcome State Fault Refusal :=
  if s.answers then
    let mem := if boot then 0xA else 9
    let hit := s.injectedHit mem s.ras.injInst .beyond
    answer (managementFault 0x17 addr mem hit (disarm hit s))
  else .next s

/-- The watchdog of the management processor expires (R463); it is paused while the processor is stalled on a boot flash operation. -/
def execProcessorWatchdogExpiry (s : State) : Host.Outcome State Fault Refusal :=
  if s.answers && s.boot.op.isNone then answer (managementFault 0x18 0 0 false s) else .next s

/-- The audit deadline of a command in flight passes (R465). -/
def execCommandAuditExpiry (sqid cid : Nat) (s : State) : Host.Outcome State Fault Refusal :=
  if s.answers && (s.flight? sqid cid).isSome then
    answer (fatalFault { kind := 0x19, cmd := some (sqid, cid) }
      (s.modRas fun a => { a with expired := min (a.expired + 1) 0xFFFF }))
  else .next s

/-- A handler is still open 100 ms after HDEPTH last rose (R473). -/
def execErrorHandlerTimeout (s : State) : Host.Outcome State Fault Refusal :=
  if s.answers && s.ras.hdepth != 0 then answer (fatalFault { kind := 0x1C, attr := .handler } s) else .next s

/-- A boot flash operation ends (R434 to R437): a native program leaves bits that did not take unprogrammed, without FAIL; a pulse-verified
program and an erase that fail set FAIL and leave undefined contents (free values, log 9). -/
def flashOver (o : FlashOp) (passed : Bool) (pulses : Nat) (s : State) : State :=
  let s := s.modBoot fun b => { b with op := none, fail := b.fail || (!passed && o.op != 1) }
  let s := if o.op = 2 then s.modBoot fun b => { b with pulses := if passed then max 1 (min 16 pulses) else 16 } else s
  match o.op, passed with
  | 3, true => s.modBoot fun b => b.erase (o.addr / 2 ^ 22)
  | 3, false => spoil (o.addr / 2 ^ 22 * 2 ^ 22) (2 ^ 22) s
  | 2, false => spoil o.addr 512 s
  | 1, false =>
    let r := drawBytes o.data.length s
    r.2.modBoot fun b => b.program o.addr ((o.data.zip r.1).map fun x => x.1 ||| x.2)
  | _, _ => s.modBoot fun b => b.program o.addr o.data

/-- A boot flash program or erase ends. -/
def execBootFlashOperationDone (ok : Bool) (pulses : Nat) (s : State) : Host.Outcome State Fault Refusal :=
  match s.boot.op with
  | some o => answer (flashOver o ok pulses s)
  | none => .next s

end Sys2Proof.Machine
end

