-- ==== Sys2Proof/Machine/HammingEngine.lean ====
section
/-! DEFINITION. The Hamming engine (R244, Table 7.5). -/

namespace Sys2Proof.Machine

/-- A tile range of an operand, a multiple of 64 within tile memory: its address, or the cause of R257. -/
def tileRange (v : BitVec 64) (lo n : Nat) : Except Nat Nat :=
  match tileOf v lo with
  | none => .error 8
  | some a => if 2 ^ 24 < a + n then .error 7 else .ok a

/-- Bytes replaced in tile memory inside granules that are otherwise kept; the granules take poison `pois`. -/
def Clu.tilePatch (a : Nat) (bs : List Byte) (pois : Bool) (x : Clu) : Clu :=
  if bs.isEmpty then x
  else
    let g := a / 64
    let n := (a + bs.length + 63) / 64 - g
    Clu.setPois g n pois { x with tile := Mem.write 0 x.tile a bs }

/-- The count in the upper half of OPA. -/
def upper (k : ECmd) : Nat := k.opa.toNat >>> 32

/-- Start a Hamming command: the cluster after it, or the cause of R257. Distances of queries beyond NQ leave their bytes as
they are (DESIGN CHOICE, log 36). -/
def hammingRun (k : ECmd) (x : Clu) : Except Nat Clu :=
  if k.eop == 0 then
    let n := upper k % 16 + 1
    let w := (k.opa.toNat >>> 40) % 64
    if w < 1 ∨ 32 < w then .error 8
    else match tileRange k.opa 0 (n * w * 8) with
      | .error e => .error e
      | .ok a =>
        .ok { x with ham := { x.ham with
          words := w, qs := (List.range n).map fun i => x.tileRead (a + i * w * 8) (w * 8)
          qPois := (List.range n).map fun i => k.sticky || x.poisIn (a + i * w * 8) (w * 8) } }
  else if k.eop == 1 then
    let n := upper k
    let len := x.ham.words * 8
    match tileRange k.opa 0 (n * len), tileRange k.opb 0 (n * 32) with
    | .ok a, .ok b =>
      let anyQ := k.sticky || x.ham.qPois.any id
      .ok ((List.range n).foldl (fun y i =>
        let code := x.tileRead (a + i * len) len
        y.tilePatch (b + 32 * i) (x.ham.qs.flatMap fun q => leBytes 2 (hamming code q))
          (anyQ || x.poisIn (a + i * len) len || (i % 2 == 1 && y.poisIn (b + 32 * i) 1))) x)
    | .error e, _ => .error e
    | _, .error e => .error e
  else if k.eop == 2 then
    let m := upper k % 256
    if m < 8 ∨ 32 < m ∨ m % 4 ≠ 0 then .error 8
    else match tileRange k.opa 0 (256 * m) with
      | .error e => .error e
      | .ok a =>
        .ok { x with ham := { x.ham with
          m := m, table := x.tileRead a (256 * m), tPois := k.sticky || x.poisIn a (256 * m) } }
  else if k.eop == 3 then
    let n := upper k
    let m := x.ham.m
    match tileRange k.opa 0 (n * m), tileRange k.opb 0 (2 * n) with
    | .ok a, .ok b =>
      let ds := (List.range n).map fun i =>
        let code := x.tileRead (a + i * m) m
        (sumOf ((List.range m).map fun j => (x.ham.table.getD (256 * j + (code.getD j 0).toNat) 0).toNat),
         k.sticky || x.ham.tPois || x.poisIn (a + i * m) m)
      .ok ((List.range ((n + 31) / 32)).foldl (fun y g =>
        let part := (ds.drop (32 * g)).take 32
        y.tilePatch (b + 64 * g) (part.flatMap fun d => leBytes 2 d.1) (part.any (·.2))) x)
    | .error e, _ => .error e
    | _, .error e => .error e
  else if k.eop == 4 then
    let n := upper k
    let lim := (k.opb.toNat >>> 32) % 65536
    match tileRange k.opa 0 (2 * n), tileRange k.opb 0 64 with
    | .ok a, .ok b =>
      let hits := (List.range n).filter fun i => decide (leNat (x.tileRead (a + 2 * i) 2) ≤ lim)
      if 2 ^ 24 < b + 64 + 4 * hits.length then .error 7
      else
        let p := k.sticky || x.poisIn a (2 * n)
        .ok ((x.tilePatch b (leBytes 4 hits.length) p).tilePatch (b + 64) (hits.flatMap fun i => leBytes 4 i) p)
    | .error e, _ => .error e
    | _, .error e => .error e
  else .error 8

/-- A row that starts a Hamming command. -/
def runHamming (c : Nat) (ops : Nat → Bool) (s : State) : Host.Outcome State Fault Refusal :=
  if !s.hasClu c then .fault .absentUnit
  else match startable c 3 ops (engineFree 3) s with
    | none => .next s
    | some k =>
      match hammingRun k (s.clu c) with
      | .error cause => .next (contextFault c k.pc cause 0 s)
      | .ok y =>
        let s := begin_ c 3 0 k s
        .next (modClu c (fun z => { z with tile := y.tile, tpois := y.tpois, ham := y.ham }) s)

def execHammingQload (c : Nat) (s : State) : Host.Outcome State Fault Refusal :=
  runHamming c (fun e => e == 0 || decide (4 < e)) s

def execHammingXscan (c : Nat) (s : State) : Host.Outcome State Fault Refusal := runHamming c (· == 1) s

def execHammingTload (c : Nat) (s : State) : Host.Outcome State Fault Refusal := runHamming c (· == 2) s

def execHammingPqscan (c : Nat) (s : State) : Host.Outcome State Fault Refusal := runHamming c (· == 3) s

def execHammingSelect (c : Nat) (s : State) : Host.Outcome State Fault Refusal := runHamming c (· == 4) s

end Sys2Proof.Machine
end

