-- ==== Sys2Proof/Machine/RunnelEvents.lean ====
section
/-! DEFINITION. Events of the Runnel ports and timers, and the messages that arrive (13). -/

namespace Sys2Proof.Machine

/-- An event of a port: L0 to L3, on the KS9-D512 L0 and L1. -/
def ofPort (n : Nat) (f : State → State) (s : State) : Host.Outcome State Fault Refusal :=
  if s.variant.ports ≤ n then .fault .absentUnit else answer (f s)

/-- Whether a port carries traffic, in direct or Ethernet mode. -/
def State.isUp (s : State) (n : Nat) : Bool := (s.port n).st == 2

/-- Spare lanes of a port that can still take the place of another (R363). A spare that failed while unused is none. -/
def Port.sparesLeft (p : Port) : Nat :=
  if p.spares = 0 then ([40, 41].filter fun l => !p.lanes.contains l).length
  else if p.spares = 1 ∧ !p.lanes.contains 40 ∧ !p.lanes.contains 41 then 1
  else 0

/-- Whether a lane is a spare that is not in use. -/
def Port.idleSpare (p : Port) (lane : Nat) : Bool :=
  (lane == 40 && p.spares == 0) || (lane == 41 && (p.spares == 0 || (p.spares == 1 && !p.lanes.contains 40)))

/-- The promise of a port without a spare lane left (R454, RUNNEL). -/
def checkSpares (n : Nat) (s : State) : State :=
  if (s.port n).sparesLeft = 0 then losePromise 3 0xD n s else s

/-- A lane of a direct port fails (R363): a spare takes its place; without one the port narrows to 32 lanes, then to 16; with fewer than 16
good lanes it goes down. -/
def directLane (n lane : Nat) (s : State) : State :=
  let p := s.port n
  let r : Fault17 := { kind := 0xD, inst := n, addr := lane }
  let s := modPort n (fun p => { p with lanes := sortDedup (lane :: p.lanes) }) s
  if p.idleSpare lane then checkSpares n (addRecord { r with action := 8 } s)
  else if p.sparesLeft != 0 then
    let s := modPort n (fun p => { p with spares := p.spares + 1, swaps := sat32 p.swaps }) s
    raiseEvent 7 5 0xC6 (checkSpares n (addRecord { r with action := 3, spare := true } s))
  else
    let s := addRecord { r with action := 8 } (s.modGen fun g => { g with lost := true })
    if 42 < (s.port n).lanes.length + 16 then portDown n 3 4 s
    else if p.width = 16 then s
    else
      let s := modPort n (fun p => { p with
        st := if p.st == 2 then 4 else p.st, width := if p.width = 40 then 32 else if p.width = 32 then 16 else p.width
        swaps := sat32 p.swaps }) s
      raiseEvent 7 5 0xC6 s

/-- A lane of an Ethernet port fails (R364): the interface that holds it goes down, and its flows move. -/
def ethernetLane (n lane : Nat) (s : State) : State :=
  if 40 ≤ lane then s
  else
    let i := lane / 8
    let s := modPort n (fun p => { p with
      lanes := sortDedup (lane :: p.lanes), ifup := if bit p.ifup i then p.ifup - 2 ^ i else p.ifup }) s
    let s := addRecord { kind := 0xD, inst := n, addr := lane, action := 8 } s
    if (s.port n).ifup = 0 then portDown n 1 0 s else moveFlows s

/-- A lane fails, because of an uncorrectable codeword or for another reason (R363). -/
def laneFails (n lane : Nat) (codeword : Bool) (s : State) : State :=
  if (s.port n).st == 0 || !s.portsOn then s
  else
    let s := if codeword then modPort n (fun p => { p with fecUnc := sat32 p.fecUnc }) s else s
    if (s.port n).lanes.contains lane then s
    else if s.pmode n == 1 then directLane n lane s
    else if s.pmode n == 2 then ethernetLane n lane s
    else s

/-- A Runnel lane fails. -/
def execLaneFailure (port lane : Nat) (codeword : Bool) (s : State) : Host.Outcome State Fault Refusal :=
  if 42 ≤ lane then .fault .absentUnit else ofPort port (laneFails port lane codeword) s

/-- A narrowing retrain ends (R363). -/
def execPortRetrainDone (port : Nat) (s : State) : Host.Outcome State Fault Refusal :=
  ofPort port (fun s => if (s.port port).st == 4 then modPort port (fun p => { p with st := 2 }) s else s) s

/-- A flit is resent (R363). -/
def execFlitRetry (port : Nat) (s : State) : Host.Outcome State Fault Refusal :=
  ofPort port (fun s =>
    if s.pmode port == 1 && s.isUp port then modPort port (fun p => { p with retry := sat32 p.retry }) s else s) s

/-- A training fails: the port is held in error with its cause (R368). -/
def trainFails (n cause : Nat) (s : State) : State :=
  modPort n (fun p => { p with st := 3, elec := false, cause := cause, trainFail := sat32 p.trainFail }) s

/-- Electrical training of a direct port ends (R368): HELLO is sent, with the port and its mode in ADDR (log 32). A port without 16 good
lanes fails. -/
def electricalDone (n : Nat) (s : State) : State :=
  if !s.portsOn || s.pmode n != 1 || (s.port n).st != 1 then s
  else if 42 < (s.port n).lanes.length + 16 then trainFails n 4 s
  else
    let m : Msg := { s.msg 1 16383 128 with
      addr := BitVec.ofNat 64 (n + s.pmode n * 256) }
    putOnLink (some (.direct n)) m (modPort n (fun p => { p with elec := true }) s)

/-- Electrical training ends. -/
def execElectricalTrainingDone (port : Nat) (s : State) : Host.Outcome State Fault Refusal := ofPort port (electricalDone port) s

/-- A port held in error trains again (R368). -/
def execTrainingRetry (port : Nat) (s : State) : Host.Outcome State Fault Refusal :=
  ofPort port (fun s => if s.portsOn && (s.port port).st == 3 then
    modPort port (fun p => { p with st := 1, elec := false, cause := 0 }) s else s) s

/-- An interface of an Ethernet port is up (R368); not over a failed lane. -/
def interfaceUp (n i : Nat) (s : State) : State :=
  if !s.portsOn || s.pmode n != 2 || (s.port n).lanes.any (fun l => l / 8 == i) || bit (s.port n).ifup i then s
  else modPort n (fun p => { p with st := 2, ifup := p.ifup + 2 ^ i, width := 40 }) s

/-- An Ethernet interface comes up: 0 to 4. -/
def execEthernetInterfaceUp (port i : Nat) (s : State) : Host.Outcome State Fault Refusal :=
  if 5 ≤ i then .fault .absentUnit else ofPort port (interfaceUp port i) s

/-- The lanes with which a direct port runs after training (Table 13.10, R363). -/
def Port.trainedWidth (p : Port) : Nat :=
  let lost := p.lanes.length - p.spares
  if p.spares = 2 ∧ 1 < lost then 16 else if p.sparesLeft = 0 ∧ 0 < lost then 32 else 40

/-- A HELLO (R368): the port is up when the system is the sled's own and the device another; else it is held in error. When several causes
hold, the first of Table 13.10 that applies to the HELLO is reported (log 18). -/
def helloArrives (n : Nat) (h : Hello) (s : State) : State :=
  let c := s.cfg.conf
  if !s.portsOn || s.pmode n != 1 || (s.port n).st != 1 || !(s.port n).elec then s
  else if h.sysid != BitVec.ofNat 64 c.sysid then trainFails n 1 s
  else if h.devnum == c.devnum then trainFails n 2 s
  else if h.mode != 1 then trainFails n 3 s
  else modPort n (fun p => { p with
    st := 2, cause := 0, peer := some h.devnum, width := p.trainedWidth }) s

/-- A HELLO arrives at a port. -/
def execHello (port : Nat) (h : Hello) (s : State) : Host.Outcome State Fault Refusal := ofPort port (helloArrives port h) s

/-- A message of a type arrives. -/
def message (typ : Nat) (m : Msg) (s : State) : Host.Outcome State Fault Refusal := answer (arrives { m with typ := typ } s)

/-- PROBE is answered with PROBEACK (R376). -/
def execProbe (m : Msg) (s : State) : Host.Outcome State Fault Refusal := message 0x02 m s

/-- PROBEACK makes a lost device reachable (R376). -/
def execProbeack (m : Msg) (s : State) : Host.Outcome State Fault Refusal := message 0x03 m s

/-- A PROBE to every lost device, on flow 128 over a path of its set (R372, R376). -/
def sendProbes (s : State) : State :=
  if !s.portsOn then s
  else (s.lnk.peers.filter (·.lost)).foldl (fun s p =>
    let ps := s.pathSet p.dev
    match ps[128 % ps.length]? with
    | some q => putOnLink (some q) (s.msg 2 p.dev 128) s
    | none => s) s

/-- Every 10 ms. -/
def execProbeTimer (s : State) : Host.Outcome State Fault Refusal := answer (sendProbes s)

/-- ACK (R374). -/
def execAck (m : Msg) (s : State) : Host.Outcome State Fault Refusal := message 0x04 m s

/-- The oldest message of a flow is not acknowledged for 40 µs (R374): it is resent, up to three times; then the path has failed for the
device for 10 ms, and its flows move. -/
def resend (dev flow : Nat) (s : State) : State :=
  let x := s.flowOf dev flow
  match x.unacked with
  | [] => s
  | u :: rest =>
    if u.tries < 3 then
      let u : Unacked := { u with tries := u.tries + 1, at_ := s.now, msg := { u.msg with retx := true } }
      putOnLink x.path u.msg (setFlow { x with unacked := u :: rest } (s.modLnk fun l => { l with retx := sat32 l.retx }))
    else
      match x.path with
      | none => s
      | some p =>
        let s := modPeer dev (fun d => { d with failed := (d.failed.filter fun y => y.1 != p) ++ [(p, s.now + 10000)] }) s
        moveFlows (addRecord { kind := 0xE, action := 4, inst := dev } s)

/-- The resend timer of a flow expires. -/
def execResendTimeout (dev flow : Nat) (s : State) : Host.Outcome State Fault Refusal := answer (resend dev flow s)

/-- The number of a path: direct ports 0 to 3, then Ethernet interface x as 4 + x. -/
def Path.num : Path → Nat
  | .direct n => n
  | .eth x => 4 + x

/-- A failed path can be used again after 10 ms (R374). -/
def execPathRecovery (dev path : Nat) (s : State) : Host.Outcome State Fault Refusal :=
  answer (if (s.peerDev dev).failed.any fun y => Path.num y.1 == path then
    modPeer dev (fun d => { d with failed := d.failed.filter fun y => Path.num y.1 != path }) s else s)

/-- The rate of the paths to a device in GB/s: 1 TB/s by a direct port, 1.6 Tb/s by an interface (Table 13.1). -/
def State.pathRate (s : State) (d : Nat) : Nat :=
  if (s.pathSet d).any fun p => match p with | .direct _ => true | .eth _ => false then 1000 else 200

/-- 50 µs without ECE: the rate to a device rises by 1 GB/s, up to the path rate (R375). -/
def execRateRaiseTimer (dev : Nat) (s : State) : Host.Outcome State Fault Refusal :=
  answer (if (s.lnk.peers.any fun p => p.dev == dev) && decide ((s.peerDev dev).rate < s.pathRate dev) then
    modPeer dev (fun d => { d with rate := d.rate + 1 }) s else s)

/-- BIND (R377). -/
def execBind (m : Msg) (s : State) : Host.Outcome State Fault Refusal := message 0x10 m s
/-- BINDACK (R377). -/
def execBindack (m : Msg) (s : State) : Host.Outcome State Fault Refusal := message 0x11 m s
/-- RREAD (Table 13.5). -/
def execRread (m : Msg) (s : State) : Host.Outcome State Fault Refusal := message 0x12 m s
/-- RDATA (Table 13.5). -/
def execRdata (m : Msg) (s : State) : Host.Outcome State Fault Refusal := message 0x13 m s
/-- RWRITE (Table 13.5). -/
def execRwrite (m : Msg) (s : State) : Host.Outcome State Fault Refusal := message 0x14 m s
/-- WACK (Table 13.5). -/
def execWack (m : Msg) (s : State) : Host.Outcome State Fault Refusal := message 0x15 m s
/-- RSIG (R222, Table 13.5). -/
def execRsig (m : Msg) (s : State) : Host.Outcome State Fault Refusal := message 0x16 m s
/-- CANCEL (R379). -/
def execCancel (m : Msg) (s : State) : Host.Outcome State Fault Refusal := message 0x18 m s
/-- CANCELACK (R379). -/
def execCancelack (m : Msg) (s : State) : Host.Outcome State Fault Refusal := message 0x19 m s
/-- WAKING (R369). -/
def execWaking (m : Msg) (s : State) : Host.Outcome State Fault Refusal := message 0x1A m s
/-- REJECT (R378). -/
def execReject (m : Msg) (s : State) : Host.Outcome State Fault Refusal := message 0x1B m s

/-- RTMO expires (R378, R381): the operation ends; of a fan-out, the member `dev` is missing. -/
def remoteTimeout (opid dev : Nat) (s : State) : State :=
  match s.lnk.ops.find? fun o => o.opid == opid with
  | some o => failOp o .remoteTimeout s
  | none => match s.lnk.fans.find? fun f => f.tag == opid && f.waiting.any fun w => w.1 == dev with
    | some f => fanMissing f dev .remoteTimeout s
    | none => s

/-- The remote timeout of an operation or of a member of a fan-out. -/
def execRemoteTimeout (opid dev : Nat) (s : State) : Host.Outcome State Fault Refusal := answer (remoteTimeout opid dev s)

/-- FANREQ (R381, R383). -/
def execFanreq (m : Msg) (s : State) : Host.Outcome State Fault Refusal := message 0x20 m s
/-- FANPROG (R381). -/
def execFanprog (m : Msg) (s : State) : Host.Outcome State Fault Refusal := message 0x21 m s

/-- What a sled works on for others: Search jobs of fan-outs that are queued or running, shuffles. -/
def State.working (s : State) : List (Nat × Nat) :=
  let js := s.parts.flatMap fun x => x.queues.flatMap id ++ x.sel.toList ++ (match x.run with | some r => [r.job] | none => [])
  distinct' (js.filterMap (fun (j : Job) => match j.kind with | .fan d t => some (d, t) | _ => none) ++
    (s.lnk.shuffles.filter fun x => !x.members.isEmpty && x.fdev != s.cfg.conf.devnum).map fun x => (x.fdev, x.tag))
where
  distinct' (l : List (Nat × Nat)) : List (Nat × Nat) := l.foldl (fun a x => if a.contains x then a else a ++ [x]) []

/-- FANPROG goes out at least every 500 µs (R381). -/
def execFanprogTimer (s : State) : Host.Outcome State Fault Refusal :=
  answer (s.working.foldl (fun s w => emit { s.msg 0x21 w.1 128 with
    opid := w.2 } s) s)

/-- FANRES (R381). -/
def execFanres (m : Msg) (s : State) : Host.Outcome State Fault Refusal := message 0x22 m s
/-- SHUFITEM (R383). -/
def execShufitem (m : Msg) (s : State) : Host.Outcome State Fault Refusal := message 0x24 m s
/-- SHUFEND (R383). -/
def execShufend (m : Msg) (s : State) : Host.Outcome State Fault Refusal := message 0x26 m s
/-- SHUFPAIR (R383). -/
def execShufpair (m : Msg) (s : State) : Host.Outcome State Fault Refusal := message 0x25 m s

end Sys2Proof.Machine
end

