-- ==== Sys2Proof/Machine/ManagementBus.lean ====
section
/-! DEFINITION. The management bus: the SPDM responder (R485) and NVMe-MI (R476). The message formats are those of SPDM 1.2 and 1.3 and of
NVMe-MI, which the spec names and does not restate (PRESUMED, log 53). Tunnelled commands run at once (DESIGN CHOICE, log 104). -/

namespace Sys2Proof.Machine

/-- Change the SPDM responder. -/
def modSpdm (f : Spdm → Spdm) (s : State) : State := s.modSec fun x => { x with spdm := f x.spdm }

/-- Answer on the management bus. -/
def busReply (b : List Byte) (s : State) : State := modSpdm (fun x => { x with reply := b }) s

/-- A byte of the SPDM responder's capabilities that the spec leaves open. -/
def spdmOpen (i : Nat) : Byte := Config.standardByte 0x200 i

/-- An SPDM error response: 01h invalid request, 04h unexpected request, 41h version mismatch. -/
def spdmError (code : Nat) (s : State) : State :=
  busReply [BitVec.ofNat 8 (max 0x10 s.sec.spdm.ver), 0x7F, BitVec.ofNat 8 code, 0] s

/-- A request after GET_VERSION: it carries the version agreed, and comes in its turn. -/
def spdmIn (step : Nat) (req : List Byte) (k : State → State) (s : State) : State :=
  let x := s.sec.spdm
  if x.step < step then spdmError 4 s
  else if req.length < 4 then spdmError 1 s
  else if field req 0 1 != x.ver then spdmError 0x41 s
  else k s

/-- GET_VERSION: 1.2 and 1.3; the negotiation begins anew. -/
def spdmVersion (req : List Byte) (s : State) : State :=
  let r : List Byte := [0x10, 0x04, 0, 0, 0, 2, 0x00, 0x12, 0x00, 0x13]
  if req.length < 4 || field req 0 1 != 0x10 then spdmError 0x41 s
  else busReply r (modSpdm (fun x => { x with ver := 0, step := 1, base := req ++ r, certs := [], meas := [] }) s)

/-- GET_CAPABILITIES: certificates, challenge, measurements with signature; no session, key exchange or pre-shared key. -/
def spdmCapabilities (req : List Byte) (s : State) : State :=
  let v := field req 0 1
  if s.sec.spdm.step < 1 then spdmError 4 s
  else if v != 0x12 && v != 0x13 then spdmError 0x41 s
  else
    let r := [BitVec.ofNat 8 v, 0x61, 0, 0, 0, spdmOpen 0, 0, 0] ++ leBytes 4 (0x16 + 32 * ((spdmOpen 1).toNat % 2)) ++
      (List.range 8).map fun i => spdmOpen (2 + i)
    busReply r (modSpdm (fun x => { x with ver := v, step := 2, base := x.base ++ req ++ r }) s)

/-- NEGOTIATE_ALGORITHMS: EdDSA Ed448, SHA3-512, raw bit stream measurements; a requester without them is refused. -/
def spdmAlgorithms (req : List Byte) : State → State := spdmIn 2 req fun s =>
  if !bit (field req 8 4) 11 || !bit (field req 12 4) 5 then spdmError 1 s
  else
    let spec := field req 6 1 % 2
    let r := [BitVec.ofNat 8 s.sec.spdm.ver, 0x63, 0, 0] ++ leBytes 2 36 ++ leBytes 1 spec ++ leBytes 1 (field req 7 1 % 16) ++
      leBytes 4 spec ++ leBytes 4 (2 ^ 11) ++ leBytes 4 (2 ^ 5) ++ zeros 16
    busReply r (modSpdm (fun x => { x with step := 3, base := x.base ++ req ++ r }) s)

/-- GET_DIGESTS: the digest of the chain in slot 0. -/
def spdmDigests (req : List Byte) : State → State := spdmIn 3 req fun s =>
  let v := s.sec.spdm.ver
  let r := [BitVec.ofNat 8 v, 0x01, if v = 0x13 then 1 else 0, 1] ++ sha3_512 certChain
  busReply r (modSpdm (fun x => { x with certs := x.certs ++ req ++ r }) s)

/-- GET_CERTIFICATE: a portion of the chain of slot 0. -/
def spdmCertificate (req : List Byte) : State → State := spdmIn 3 req fun s =>
  let off := field req 4 2
  let n := min (field req 6 2) (certChain.length - off)
  if field req 2 1 % 16 != 0 || certChain.length ≤ off then spdmError 1 s
  else
    let r := [BitVec.ofNat 8 s.sec.spdm.ver, 0x02, 0, 0] ++ leBytes 2 n ++ leBytes 2 (certChain.length - off - n) ++ slice certChain off n
    busReply r (modSpdm (fun x => { x with certs := x.certs ++ req ++ r }) s)

/-- The context under which SPDM signatures are made: `kind` 0 for CHALLENGE_AUTH, 1 for MEASUREMENTS. -/
def spdmContext (ver kind : Nat) : List Byte := [BitVec.ofNat 8 ver, BitVec.ofNat 8 kind]

/-- All measurements: index, form, size, and the value of MEAS `i` as a raw bit stream. -/
def measBlock (i : Nat) (s : State) : List Byte :=
  [BitVec.ofNat 8 (i + 1), 1] ++ leBytes 2 67 ++ [0x80 ||| (spdmOpen (16 + i) &&& 0x7F)] ++ leBytes 2 64 ++ s.sec.meas.getD i (zeros 64)

/-- The requester context that 1.3 adds. -/
def spdmCtx (ver : Nat) (req : List Byte) (off : Nat) : List Byte := if ver = 0x13 then slice req off 8 else []

/-- CHALLENGE, signed with the identity key: the transcript of the negotiation, the certificates and this exchange. -/
def spdmChallenge (req : List Byte) : State → State := spdmIn 3 req fun s =>
  let x := s.sec.spdm
  if field req 2 1 != 0 then spdmError 1 s
  else
    let nonce := drawBytes 32 s
    let all := (List.range 6).flatMap fun i => measBlock i s
    let r := [BitVec.ofNat 8 x.ver, 0x03, 0, 1] ++ sha3_512 certChain ++ nonce.1 ++
      (if field req 3 1 = 0 then [] else sha3_512 all) ++ zeros 2 ++ spdmCtx x.ver req 36
    let sig := sign (spdmContext x.ver 0) (sha3_512 (x.base ++ x.certs ++ req ++ r))
    busReply (r ++ sig) (modSpdm (fun y => { y with certs := [] }) nonce.2)

/-- GET_MEASUREMENTS: MEAS0 to MEAS5 as indices 1 to 6, signed when it is asked for. -/
def spdmMeasurements (req : List Byte) : State → State := spdmIn 3 req fun s =>
  let x := s.sec.spdm
  let op := field req 3 1
  let signed := bit (field req 2 1) 0
  if 6 < op ∧ op ≠ 0xFF then spdmError 1 s
  else
    let l := if op = 0 then [] else if op = 0xFF then List.range 6 else [op - 1]
    let rec_ := l.flatMap fun i => measBlock i s
    let nonce := drawBytes 32 s
    let r := [BitVec.ofNat 8 x.ver, 0x60, if op = 0 then 6 else 0, 0] ++ leBytes 1 l.length ++ leBytes 3 rec_.length ++ rec_ ++
      nonce.1 ++ zeros 2 ++ spdmCtx x.ver req (if signed then 37 else 4)
    let t := x.meas ++ req ++ r
    if signed then
      busReply (r ++ sign (spdmContext x.ver 1) (sha3_512 (x.base ++ t))) (modSpdm (fun y => { y with meas := [] }) nonce.2)
    else busReply r (modSpdm (fun y => { y with meas := t }) nonce.2)

/-- A request on the management bus: it is answered while the management processor runs, in Trickle mode as well (R476, R485). -/
def onBus (f : State → State) (s : State) : Host.Outcome State Fault Refusal := if s.answers then answer (f s) else .next s

/-- GET_VERSION. -/
def execSpdmGetVersion (req : List Byte) (s : State) : Host.Outcome State Fault Refusal := onBus (spdmVersion req) s
/-- GET_CAPABILITIES. -/
def execSpdmGetCapabilities (req : List Byte) (s : State) : Host.Outcome State Fault Refusal := onBus (spdmCapabilities req) s
/-- NEGOTIATE_ALGORITHMS. -/
def execSpdmNegotiateAlgorithms (req : List Byte) (s : State) : Host.Outcome State Fault Refusal := onBus (spdmAlgorithms req) s
/-- GET_DIGESTS. -/
def execSpdmGetDigests (req : List Byte) (s : State) : Host.Outcome State Fault Refusal := onBus (spdmDigests req) s
/-- GET_CERTIFICATE. -/
def execSpdmGetCertificate (req : List Byte) (s : State) : Host.Outcome State Fault Refusal := onBus (spdmCertificate req) s
/-- CHALLENGE. -/
def execSpdmChallenge (req : List Byte) (s : State) : Host.Outcome State Fault Refusal := onBus (spdmChallenge req) s
/-- GET_MEASUREMENTS. -/
def execSpdmGetMeasurements (req : List Byte) (s : State) : Host.Outcome State Fault Refusal := onBus (spdmMeasurements req) s

/-- The composite controller status: RDY, CFS, SHST. -/
def State.compositeStatus (s : State) : Nat :=
  b2n s.nvm.rdy + s.nvm.shst % 4 * 4

/-- Subsystem Health Status Poll (R476): SMART Critical Warning, then the composite status. -/
def execSubsystemHealthStatusPoll (s : State) : Host.Outcome State Fault Refusal :=
  onBus (fun s => busReply (leBytes 1 s.criticalWarning ++ leBytes 2 s.compositeStatus) s) s

/-- Get Log Page and Register Read through the tunnel (R476): a status, then the data. Pages C2h and C3h and the RAS block alone are
served; reading C3h ends the management alert. -/
def tunnel (e : Sqe) (s : State) : State :=
  let c := e.cmd
  let id := bits c.cdw10.toNat 7 0
  let fail := fun (st : Status) => busReply (leBytes 2 st.code) s
  if e.opc == 0x02 then
    let n := (bits c.cdw10.toNat 31 16 + bits c.cdw11.toNat 15 0 * 65536 + 1) * 4
    let off := c.cdw12.toNat + c.cdw13.toNat * 2 ^ 32
    match (if id == 0xC2 || id == 0xC3 then logPage id s else none) with
    | none => fail .invalidLogPage
    | some b =>
      if off % 4 != 0 || decide (b.length ≤ off) then fail .invalidField
      else
        let s := busReply (leBytes 2 0 ++ slice b off n) s
        if id == 0xC3 then s.modRas fun r => { r with alert := false } else s
  else if e.opc == 0xDA then
    match blockOf c.cdw10.toNat, regCheck c s with
    | some (.ras, _), none =>
      let r := (List.range (bits c.cdw11.toNat 10 0)).foldl (fun (a : List Nat × State) i =>
        let v := busRead (c.cdw10.toNat + 4 * i) 4 a.2
        (a.1 ++ [v.1], v.2)) ([], s)
      busReply (leBytes 2 0 ++ r.1.flatMap (leBytes 4)) r.2
    | some (.ras, _), some b => fail b.1
    | _, _ => fail .invalidField
  else fail .invalidOpcode

/-- An admin command through NVMe-MI. -/
def execNvmeMiAdminTunnel (e : Sqe) (s : State) : Host.Outcome State Fault Refusal := onBus (tunnel e) s

end Sys2Proof.Machine
end

