-- ==== Sys2Proof/Machine/VectorEngine.lean ====
section
/-! DEFINITION. The vector engine (R248, R284, Table 7.5). -/

namespace Sys2Proof.Machine

/-- A list entry (Table 8.12). -/
structure VEntry where
  vop : Nat
  src : Nat
  dst : Nat
  ngran : Nat
  s0 : Nat
  s1 : Nat
  d : Nat

/-- Bytes of an element: 0 FP32, 1 BF16, 2 INT8, 3 INT32. -/
def vsize (f : Nat) : Nat := if f == 1 then 2 else if f == 2 then 1 else 4

/-- Entry `i` of the list at an instruction memory address, with the tile relocation added. -/
def vEntry (x : Clu) (a reloc i : Nat) : VEntry :=
  let b := Mem.read 0 x.im (a + 16 * i) 16
  { vop := field b 0 1, src := field b 1 1 % 16, dst := field b 1 1 / 16, ngran := field b 2 2
    s0 := field b 4 4 + reloc, s1 := field b 8 4 + reloc, d := field b 12 4 + reloc }

/-- Elements of an entry. -/
def VEntry.n (v : VEntry) : Nat := v.ngran * 64 / vsize v.src

/-- Operations that read a second source; reductions, permutes and kernels. -/
def VEntry.two (v : VEntry) : Bool := [1, 2, 3, 4, 5, 6, 0xF].contains v.vop
def VEntry.whole (v : VEntry) : Bool := [0xD, 0xE, 0xF].contains v.vop

/-- Bytes that an entry writes: a reduction one element, SIGN one bit for an element, CMPGE INT32. -/
def VEntry.outSize (v : VEntry) : Nat :=
  if v.vop == 0xD || v.vop == 0xE then vsize v.dst
  else if v.vop == 0x10 then (v.n + 7) / 8
  else if v.vop == 0x11 then 4 * v.n
  else v.n * vsize v.dst

/-- Element size of the second source. -/
def VEntry.size1 (v : VEntry) : Nat := if v.vop == 0xF then 4 else vsize v.src

/-- The check of an entry: the cause of R257, or none (R244, R248, R249). -/
def VEntry.bad (v : VEntry) : Option Nat :=
  if !([1, 2, 3, 4, 5, 6, 7, 8, 9, 0xA, 0xB, 0xC, 0xD, 0xE, 0xF, 0x10, 0x11].contains v.vop) ||
      decide (3 < v.src ∨ 3 < v.dst ∨ v.ngran < 1 ∨ 4096 < v.ngran) ||
      v.s0 % 64 != 0 || v.d % 64 != 0 || (v.two && v.s1 % 64 != 0) then some 8
  else if 2 ^ 24 < v.s0 + v.ngran * 64 ∨ 2 ^ 24 < v.d + v.outSize ∨ (v.two ∧ 2 ^ 24 < v.s1 + v.n * v.size1) then some 7
  else none

/-- An element as an exact number, and the bytes of one. -/
def vget (f : Nat) (w : Nat) : Fl :=
  if f == 0 then Fl.ofF32 w else if f == 1 then Fl.ofBf16 w
  else if f == 2 then Fl.ofInt (signedN 8 w) else Fl.ofInt (signedN 32 w)

/-- A result in the destination's format: floats rounded once, integers rounded to even and saturated (R284). -/
def vput (f : Nat) (x : Fl) : List Byte :=
  if f == 0 then leBytes 4 (toF32 x)
  else if f == 1 then leBytes 2 (toBf16 x)
  else
    let n := if f == 2 then 8 else 32
    let v : Nat := match x with
      | .nan => 0
      | .inf s => if s then 2 ^ (n - 1) else 2 ^ (n - 1) - 1
      | .fin s m e => unsignedN n (clampInt (-(2 ^ (n - 1))) (2 ^ (n - 1) - 1) (roundInt s m e)).1
    leBytes (n / 8) v

/-- A conversion to a destination format under Table 9.8 without a scale: a float beyond BF16 is clamped. -/
def vcvt (f : Nat) (x : Fl) : List Byte :=
  if f == 1 then leBytes 2 (convert 0xA Fl.zero x).1 else vput f x

/-- The greater and the lesser of two numbers; no number when either is none. -/
def flMax (a b : Fl) : Fl := match Fl.cmp a b with | none => .nan | some .lt => b | _ => a
def flMin (a b : Fl) : Fl := match Fl.cmp a b with | none => .nan | some .gt => b | _ => a

/-- One rank of a pairwise tree, and the tree over ascending elements (R248); `n` bounds the ranks. -/
def pairUp (f : Fl → Fl → Fl) : List Fl → List Fl
  | a :: b :: l => f a b :: pairUp f l
  | l => l
def tree (f : Fl → Fl → Fl) : Nat → List Fl → Fl
  | 0, l => l.headD Fl.zero
  | n + 1, l => match l with
    | [] => Fl.zero
    | [a] => a
    | l => tree f n (pairUp f l)

/-- The addition of a reduction: binary32 for floats, exact for integers. -/
def sumStep (src : Nat) (a b : Fl) : Fl := if src ≤ 1 then Fl.ofF32 (toF32 (Fl.add a b)) else Fl.add a b

/-- The sum of ascending elements by the tree: its last addition is left exact, and rounded once to the destination (R248, R284). -/
def sumTree (src : Nat) : Nat → List Fl → Fl
  | 0, l => l.headD Fl.zero
  | n + 1, l => match l with
    | [] => Fl.zero
    | [a] => a
    | [a, b] => Fl.add a b
    | l => sumTree src n (pairUp (sumStep src) l)

/-- EXP and RSQRT in the destination's format: BF16 is rounded once; a NaN is canonical; see log 119 (DESIGN CHOICE). -/
def vFun (f : Nat) (wide : Word → Word) (half : Word → BitVec 16) (a : Fl) : List Byte :=
  let w := BitVec.ofNat 32 (toF32 a)
  if f == 1 then vput 1 (Fl.ofBf16 (half w).toNat) else vput f (Fl.ofF32 (wide w).toNat)

/-- An element-wise result. `b` is the second source, `d` the old destination, `s` the scalar. -/
def vElem (v : VEntry) (a b d s : Fl) : List Byte :=
  match v.vop with
  | 1 => vput v.dst (Fl.add a b)
  | 2 => vput v.dst (Fl.add a b.neg)
  | 3 => vput v.dst (Fl.mul a b)
  | 4 => vput v.dst (Fl.add (Fl.mul a b) d)
  | 5 => vput v.dst (flMax a b)
  | 6 => vput v.dst (flMin a b)
  | 7 => vput v.dst (Fl.add a s)
  | 8 => vput v.dst (Fl.mul a s)
  | 9 => vcvt v.dst a
  | 0xA => vput v.dst (match Fl.cmp a Fl.zero with | some .lt => Fl.zero | _ => a)
  | 0xB => vFun v.dst Config.expF32 Config.expBf16 a
  | 0xC => vFun v.dst Config.rsqrtF32 Config.rsqrtBf16 a
  | _ => leBytes 4 (b2n (match Fl.cmp a s with | some .lt => false | none => false | _ => true))

/-- The scalar S of an operation: FP32 for a float source, INT32 for an integer one (DEDUCED, log 36). -/
def vScalar (src w : Nat) : Fl := if src ≤ 1 then Fl.ofF32 w else Fl.ofInt (signedN 32 w)

/-- The bytes that an entry writes. `seed` numbers the free values of a PERM whose index is out of range (log 9). -/
def vBytes (v : VEntry) (scal seed : Nat) (x : Clu) : List Byte :=
  let sz := vsize v.src
  let src := x.tileRead v.s0 (v.n * sz)
  let as := (elems sz v.n src).map (vget v.src)
  if v.vop == 0xD then vput v.dst (sumTree v.src 20 as)
  else if v.vop == 0xE then vput v.dst (tree flMax 20 as)
  else if v.vop == 0xF then
    let ix := elems 4 v.n (x.tileRead v.s1 (4 * v.n))
    let raw := elems sz v.n src
    ix.zipIdx.flatMap fun p =>
      let w := match (if p.1 < v.n then raw[p.1]? else none) with
        | some w => w
        | none => (Config.freeWord (seed + p.2)).toNat % 2 ^ (8 * sz)
      vput v.dst (vget v.src w)
  else if v.vop == 0x10 then
    let bs := as.map fun a => Fl.cmp a Fl.zero == some .gt
    (List.range v.outSize).map fun j =>
      BitVec.ofNat 8 (sumOf ((List.range 8).map fun i => b2n (bs.getD (8 * j + i) false) * 2 ^ i))
  else
    let bs := if v.two then (elems sz v.n (x.tileRead v.s1 (v.n * sz))).map (vget v.src) else as
    let ds := if v.vop == 4 then (elems (vsize v.dst) v.n (x.tileRead v.d (v.n * vsize v.dst))).map (vget v.dst) else as
    let s := vScalar v.src scal
    ((as.zip bs).zip ds).flatMap fun p => vElem v p.1.1 p.1.2 p.2 s

/-- Whether a reduction, a permute or a kernel reads poison: it then poisons every output granule of its command (Table 7.5). -/
def VEntry.wholeHurt (x : Clu) (v : VEntry) : Bool :=
  v.whole && (x.poisIn v.s0 (v.ngran * 64) || (v.two && x.poisIn v.s1 (v.n * v.size1)))

/-- The granules that an entry writes become poisoned. -/
def VEntry.poisonOut (x : Clu) (v : VEntry) : Clu := x.setPois (v.d / 64) ((v.outSize + 63) / 64) true

/-- Run one entry: the bytes, and the poison of each granule written (Table 7.5). -/
def vStep (scal seed : Nat) (sticky : Bool) (x : Clu) (v : VEntry) : Clu :=
  let bs := vBytes v scal seed x
  let all := sticky || v.wholeHurt x
  let ng := (bs.length + 63) / 64
  -- the elements of the granule g of the destination, as a range
  let per := if ng = 0 then 0 else if v.vop == 0x10 then 512 else 64 * v.n / bs.length
  let hurt := fun g => all || (!v.whole &&
    (x.poisIn (v.s0 + g * per * vsize v.src) (min per (v.n - g * per) * vsize v.src) ||
     (v.two && x.poisIn (v.s1 + g * per * v.size1) (min per (v.n - g * per) * v.size1)) ||
     (v.vop == 4 && x.poisIn (v.d + 64 * g) 64)))
  (List.range ng).foldl (fun y g => y.tilePatch (v.d + 64 * g) ((bs.drop (64 * g)).take 64) (hurt g)) x

/-- VECTOR_LIST: the engine checks the whole list and runs its entries in order; a fetch of the list under another
generation of instruction memory faults the context (R206). -/
def execVectorList (c : Nat) (s : State) : Host.Outcome State Fault Refusal :=
  if !s.hasClu c then .fault .absentUnit
  else match startable c 2 (fun _ => true) (engineFree 2) s with
    | none => .next s
    | some k =>
      let x := s.clu c
      let a := k.opa.toNat % 2 ^ 18
      let n := (k.opa.toNat >>> 20) % 4096
      let vs := (List.range n).map (vEntry x a ((k.opa.toNat >>> 40) % 2 ^ 24))
      if x.gen != x.imgen then .next (genFault c s)
      else if k.eop ≠ 0 ∨ n = 0 ∨ x.imlen < a + 16 * n then .next (contextFault c k.pc 8 0 s)
      else match vs.findSome? VEntry.bad with
        | some cause => .next (contextFault c k.pc cause 0 s)
        | none =>
          let scal := k.opb.toNat % 2 ^ 32
          let r := vs.foldl (fun (p : Clu × Nat × Bool) v => (vStep scal p.2.1 k.sticky p.1 v, p.2.1 + v.n, p.2.2 || v.wholeHurt p.1))
            (x, s.free, false)
          let y := if r.2.2 then vs.foldl VEntry.poisonOut r.1 else r.1
          let s := (begin_ c 2 0 k s).modFree fun _ => r.2.1
          .next (modClu c (fun z => { z with tile := y.tile, tpois := y.tpois }) s)

end Sys2Proof.Machine
end

