-- ==== Sys2Proof/Machine/MatrixEngine.lean ====
section
/-! DEFINITION. The matrix engine: descriptors, schedules, the slot checker, array operations and the drain (R247, R254 to
R256, R260 to R283, R287, R229). -/

namespace Sys2Proof.Machine

/-- A matrix descriptor (Tables 8.11 and 9.6). -/
structure MDesc where
  amask : Nat
  stat : Nat
  quad : Bool
  bit : Bool
  acc : Bool
  keeps : Bool
  loads : Bool
  fa : Nat
  fb : Nat
  fc : Nat
  stagIn : Nat
  stagOut : Nat
  m : Nat
  n : Nat
  k : Nat
  ta : Nat
  tb : Nat
  tc : Nat
  ts : Nat
  sched : Nat
  slen : Nat
  cycles : Nat
  zpa : Bool
  zpb : Bool
  satchk : Bool
  rowsc : Bool
  cbfmt : Nat
  za : Nat
  ctr : Nat
  osc : Nat
  satlim : Nat
  rowAt : Nat
  cbAt : Nat
  sumAt : Nat
  reserved : Bool

/-- Read a matrix descriptor; `reserved` says that every reserved bit is 0. -/
def mDesc (d : List Byte) : MDesc :=
  let mode := field d 2 1
  let aopt := field d 0x2C 1
  let ts := field d 0x1C 4
  { amask := field d 0 2, stat := mode % 4, quad := Machine.bit mode 2, bit := Machine.bit mode 3
    acc := Machine.bit mode 4, keeps := Machine.bit mode 5, loads := Machine.bit mode 6
    fa := field d 3 1, fb := field d 4 1, fc := field d 5 1, stagIn := field d 6 1, stagOut := field d 7 1
    m := field d 8 2, n := field d 0xA 2, k := field d 0xC 2
    ta := field d 0x10 4, tb := field d 0x14 4, tc := field d 0x18 4, ts := ts
    sched := field d 0x20 4, slen := field d 0x24 4, cycles := field d 0x28 4
    zpa := Machine.bit aopt 0, zpb := Machine.bit aopt 1, satchk := Machine.bit aopt 2, rowsc := Machine.bit aopt 3
    cbfmt := field d 0x2D 1, za := field d 0x2E 1, ctr := field d 0x2F 1 % 64, osc := field d 0x30 4
    satlim := field d 0x34 2, rowAt := ts + 64 * field d 0x36 2, cbAt := ts + 64 * field d 0x38 2
    sumAt := ts + 64 * field d 0x3A 2
    reserved := mode < 128 && aopt < 16 && field d 0x2F 1 < 64 && zeroAt d 0xE 2 && zeroAt d 0x3C 4 }

namespace MDesc

/-- Pairs of 4-bit operands, two products in a cycle (R271); element formats of the products; the kind. -/
def pairs (d : MDesc) : Bool := ([2, 3].contains d.fa && [2, 3].contains d.fb) || (d.fa == 9 && d.fb == 9)
def kind (d : MDesc) : PKind := kindOf d.fa d.cbfmt
def isBf (d : MDesc) : Bool := d.fa == 0xA || d.fb == 0xA || (isCb d.fb && d.cbfmt == 0xA)
def lim (d : MDesc) : Nat := if d.quad then 16 else 32
def nseg (d : MDesc) : Nat := if d.bit then 256 / d.k else 1

/-- Columns of C. -/
def outN (d : MDesc) : Nat := if d.bit && d.stat == 0 then d.n * d.nseg else d.n
/-- Rows of C. -/
def outM (d : MDesc) : Nat := if d.bit && d.stat == 2 then d.m * d.nseg else d.m

/-- Whether FP8 or INT8 output is checked for saturation. -/
def checks (d : MDesc) : Bool := d.satchk && isQuant d.fc

/-- The areas of the scale and sum block that a command uses (R269, R270): row scales read, and the row area at all; the codebook's
bytes; the column sums. -/
def readsRow (d : MDesc) : Bool := d.rowsc && isQuant d.fc
def usesRow (d : MDesc) : Bool := d.readsRow || d.checks
def cbBytes (d : MDesc) : Nat := (if d.fb == 0xD then 16 else 256) * (if d.cbfmt == 0xA then 2 else 1)
def usesSum (d : MDesc) : Bool := (d.zpa || d.zpb) && !d.bit && d.kind == .int

/-- The shapes of Table 9.1 and R283. -/
def shapeOk (d : MDesc) : Bool :=
  if d.bit then
    [64, 128, 256].contains d.k && decide (1 ≤ d.m ∧ d.m ≤ 32 ∧ 1 ≤ d.n ∧ d.n ≤ 32 ∧ d.m * d.n * d.nseg ≤ 1024)
  else
    let kmax := if d.stat == 1 then 65535 else if d.pairs then 2 * d.lim else d.lim
    decide (1 ≤ d.m ∧ d.m ≤ d.lim ∧ 1 ≤ d.n ∧ d.n ≤ d.lim ∧ 1 ≤ d.k ∧ d.k ≤ kmax)

/-- Formats, options and areas (R263, R265 to R272, R283): cause 08h when not. -/
def formatsOk (d : MDesc) : Bool :=
  let cb := isCb d.fb
  d.reserved && d.stat != 3 && d.shapeOk &&
  (if d.bit then
    d.fa == 0xF && d.fb == 0xF && (d.fc == 0x10 || d.fc == 0xC) && d.stat != 1 && !d.quad && !d.satchk && d.cbfmt == 0
  else
    decide (d.fa ≤ 0xA) && (decide (d.fb ≤ 0xA) || cb) && [0, 4, 5, 0xA, 0xB, 0xC].contains d.fc &&
    d.kind == kindOf d.fb d.cbfmt && d.kind != .bad &&
    (if cb then !d.zpb else d.cbfmt == 0) &&
    (!(isMx d.fa || isMx d.fb) || (!d.quad && d.stat != 1 && d.k == (if d.fa == 9 && d.fb == 9 then 64 else 32))) &&
    (!d.usesSum || decide (d.k ≤ 32768)) && (!isQuant d.fc || decide (0 < d.osc ∧ d.osc ≤ maxF32))) &&
  (!d.usesRow || decide (d.rowAt + 8192 ≤ 2 ^ 24)) && (!cb || decide (d.cbAt + d.cbBytes ≤ 2 ^ 24)) &&
  (!d.usesSum || decide (d.sumAt + 5120 ≤ 2 ^ 24)) &&
  d.ta % 64 == 0 && d.tb % 64 == 0 && d.ts % 64 == 0 && d.tc % 64 == 0

/-- Bytes of a row of C, of the accumulator block C₀, in whole granules. -/
def rowBytes (d : MDesc) : Nat := roundUp (d.outN * outBytes d.fc) 64
def accRow (d : MDesc) : Nat := roundUp (d.outN * 4) 64

/-- Bytes of one stationary vector and of the whole stationary tile (R262, R267, R283). -/
def statVec (d : MDesc) : Nat :=
  if d.bit then d.k / 8
  else if d.stat == 0 then roundUp (elemBytes d.fb d.n) 64
  else roundUp (elemBytes d.fa d.k + (if isMx d.fa then (d.k + 31) / 32 else 0)) 64
def statBytes (d : MDesc) : Nat :=
  if d.bit then roundUp ((if d.stat == 0 then d.n else d.m) * d.nseg * (d.k / 8)) 64
  else if d.stat == 0 then d.k * d.statVec + (if isMx d.fb then 64 else 0)
  else d.m * d.statVec

/-- Bytes of a streamed vector that a DELIVER moves to slot `idx` (Table 9.2). -/
def vecBytes (d : MDesc) (idx : Nat) : Nat :=
  let n :=
    if d.bit then d.k / 8
    else if d.stat == 0 then elemBytes d.fa d.k + (if isMx d.fa then (d.k + 31) / 32 else 0)
    else if d.stat == 2 then elemBytes d.fb d.k + (if isMx d.fb then (d.k + 31) / 32 else 0)
    else
      let w := if idx % 2 == 0 then elemBytes d.fa d.m else elemBytes d.fb d.n
      if d.pairs then 2 * w else w
  roundUp n 64

/-- CONSUMEs of a unit (R261). -/
def consumes (d : MDesc) : Nat :=
  if d.stat == 0 then d.m else if d.stat == 2 then d.n else 2 * (if d.pairs then (d.k + 1) / 2 else d.k)

/-- Spacing and latency (Table 9.3); the cycles of a drain (R264). -/
def spacing (d : MDesc) : Nat := if d.isBf then 4 else 1
def latency (d : MDesc) : Nat :=
  if d.bit then 36 else if d.isBf then (if d.quad then 24 else 40) else if d.quad then 18 else 34
def drainCycles (d : MDesc) : Nat :=
  let g := d.outM * (d.rowBytes / 64)
  if d.satchk then 2 * g + 4 else g

end MDesc

/-- A schedule entry (Table 8.14). -/
structure SEntry where
  cyc : Nat
  slot : Nat
  arr : Nat
  kind : Nat
  rsvd : Nat
  addr : Nat

def sEntry (x : Clu) (d : MDesc) (i : Nat) : SEntry :=
  let w := leNat (Mem.read 0 x.im (d.sched + 8 * i) 8)
  { cyc := w / 2 ^ 40, slot := bits w 39 35, arr := bits w 34 31, kind := bits w 30 28, rsvd := bits w 27 24
    addr := w % 2 ^ 24 }

/-- The quadrant of a slot; the stationary slot of a unit; a unit is an array and a quadrant (R263). -/
def quadOf (d : MDesc) (slot : Nat) : Nat := if d.quad then slot / 8 else 0
def statSlot (d : MDesc) (q : Nat) : Nat := if d.quad then 8 * q + 7 else 31
def units (d : MDesc) : List (Nat × Nat) :=
  ((List.range 16).filter fun a => bit d.amask a).flatMap fun a =>
    (List.range (if d.quad then 4 else 1)).map fun q => (a, q)

/-- The entries of a unit, less END. -/
def unitEntries (d : MDesc) (es : List SEntry) (u : Nat × Nat) : List SEntry :=
  es.filter fun e => e.kind != 7 && e.arr == u.1 && quadOf d e.slot == u.2

/-- Whether CONSUME cycles keep their spacing. -/
def spaced (gap : Nat) : List Nat → Bool
  | a :: b :: l => decide (a + gap ≤ b) && spaced gap (b :: l)
  | _ => true

/-- The rules of a unit's schedule (R261, R263, R264). -/
def unitOk (d : MDesc) (es : List SEntry) (u : Nat × Nat) : Bool :=
  let l := unitEntries d es u
  let cons := l.filter (·.kind == 1)
  let loads := l.filter (·.kind == 2)
  let cycs := (if d.stat == 1 then cons.filter (fun e => e.slot % 2 == 0) else cons).map (·.cyc)
  let first := cycs.headD 0
  let lastC := cycs.getLastD 0
  l.all (fun e => if e.kind == 2 || e.kind == 3 then e.slot == statSlot d u.2 else e.slot != statSlot d u.2) &&
  cons.length == d.consumes && spaced d.spacing cycs &&
  (d.stat != 1 ||
    (cons.filter fun e => e.slot % 2 == 1).map (·.cyc) == (cons.filter fun e => e.slot % 2 == 0).map (·.cyc)) &&
  (if d.stat == 1 then loads.isEmpty && !d.keeps
   else if d.keeps then loads.isEmpty
   else loads.length == 1 && loads.all fun e => decide (e.cyc + (d.statBytes + 63) / 64 ≤ first)) &&
  (!d.acc || decide (d.outM * (d.accRow / 64) ≤ first)) &&
  (l.filter (·.kind == 3)).all fun e => decide (lastC + d.latency ≤ e.cyc ∧ e.cyc + d.drainCycles ≤ d.cycles)

/-- Ascending cycles. -/
def ascending : List Nat → Bool
  | a :: b :: l => decide (a ≤ b) && ascending (b :: l)
  | _ => true

/-- A valid schedule (R254, R264): cause 0Bh when not. -/
def schedOk (x : Clu) (d : MDesc) (es : List SEntry) : Bool :=
  d.sched % 8 == 0 && decide (1 ≤ d.slen ∧ d.sched + 8 * d.slen ≤ x.imlen) && ascending (es.map (·.cyc)) &&
  (match es.getLast? with | some e => e.kind == 7 && e.cyc == d.cycles | none => false) && (es.dropLast.all fun e => e.kind ≤ 3) &&
  (es.all fun e => bit d.amask e.arr && e.rsvd == 0 && (if e.kind == 1 || e.kind == 7 then e.addr == 0 else e.addr % 64 == 0)) &&
  (units d).all (unitOk d es)

/-- The tile addresses of A and B, the tile ranges that the schedule moves, and C₀ (cause 07h when beyond tile memory). -/
def rangesOk (d : MDesc) (es : List SEntry) : Bool :=
  decide (d.ta < 2 ^ 24 ∧ d.tb < 2 ^ 24) &&
  (!d.acc || decide (d.tc + d.outM * d.accRow ≤ 2 ^ 24)) &&
  es.all fun e =>
    if e.kind == 0 then decide (e.addr + d.vecBytes e.slot ≤ 2 ^ 24)
    else if e.kind == 2 then decide (e.addr + d.statBytes ≤ 2 ^ 24)
    else if e.kind == 3 then decide (e.addr + d.outM * d.rowBytes ≤ 2 ^ 24)
    else true

/-- A failing slot check (Table 8.15): array, slot, EMPTY, cycle, how many entries of the schedule went before. -/
structure SlotFail where
  arr : Nat
  slot : Nat
  empty : Bool
  cyc : Nat
  entry : Nat

/-- The operands consumed so far: unit, slot, data, poison, oldest first; the entries that have passed. -/
structure SlotSim where
  slots : List Slot
  used : List (Nat × Nat × List Byte × Bool)
  fail : Option SlotFail
  done : Nat

def slotAt (l : List Slot) (a i : Nat) : Option Slot := l.find? fun s => s.arr == a && s.idx == i
def slotDrop (l : List Slot) (a i : Nat) : List Slot := l.filter fun s => !(s.arr == a && s.idx == i)

/-- One entry of the schedule at the slot checker (R255). -/
def slotStep (x : Clu) (d : MDesc) (seq : Nat) (t : SlotSim) (e : SEntry) : SlotSim :=
  if t.fail.isSome then t
  else
    let bad := fun (empty : Bool) => { t with fail := some ⟨e.arr, e.slot, empty, e.cyc, t.done⟩ }
    let t := { t with done := t.done + 1 }
    if e.kind == 0 || e.kind == 2 then
      match slotAt t.slots e.arr e.slot with
      | some s => if s.tag == seq then bad false else fill t s.stag
      | none => fill t 0
    else if e.kind == 1 then
      match slotAt t.slots e.arr e.slot with
      | none => bad true
      | some s =>
        if s.tag != seq then bad false
        else { t with slots := slotDrop t.slots e.arr e.slot, used := t.used ++ [(e.arr, e.slot, s.data, s.pois)] }
    else t
where
  fill (t : SlotSim) (old : Nat) : SlotSim :=
    let n := if e.kind == 2 then d.statBytes else d.vecBytes e.slot
    let stag := if e.kind == 2 && d.loads then d.stagOut else old
    { t with slots := slotDrop t.slots e.arr e.slot ++
        [⟨e.arr, e.slot, seq, stag, x.tileRead e.addr n, x.poisIn e.addr n⟩] }

/-- The check at the start of a command with KEEPS (Table 8.15). -/
def keepsFail (d : MDesc) (l : List Slot) : Option SlotFail :=
  if d.keeps then
    (units d).findSome? fun u =>
      match slotAt l u.1 (statSlot d u.2) with
      | none => some ⟨u.1, statSlot d u.2, true, 0, 0⟩
      | some s => if s.stag == d.stagIn then none else some ⟨u.1, statSlot d u.2, false, 0, 0⟩
  else none

/-- The operands of a unit: vectors consumed with their poison, stationary tile with its poison. -/
structure UnitOps where
  u : Nat × Nat
  vecs : List (List Byte × Bool)
  vecsB : List (List Byte × Bool)
  tile : List Byte
  tPois : Bool

def unitOps (d : MDesc) (t : SlotSim) (u : Nat × Nat) : UnitOps :=
  let mine := t.used.filter fun x => x.1 == u.1 && quadOf d x.2.1 == u.2
  let get := fun (p : Nat → Bool) => (mine.filter fun x => p x.2.1).map fun x => (x.2.2.1, x.2.2.2)
  let st := slotAt t.slots u.1 (statSlot d u.2)
  { u := u
    vecs := if d.stat == 1 then get (fun i => i % 2 == 0) else get fun _ => true
    vecsB := if d.stat == 1 then get (fun i => i % 2 == 1) else []
    tile := match st with | some s => s.data | none => []
    tPois := match st with | some s => s.pois | none => false }

/-- The code of A[m][k] and of B[k][n], and the block scales, as the mode lays the operands out (Table 9.2). The two k of a pair
follow one another in an output-stationary vector, and the second block scale of an MXFP4 weight column follows the
first N scales (DESIGN CHOICE, log 36). -/
def codeA (d : MDesc) (o : UnitOps) (m k : Nat) : Nat :=
  if d.stat == 0 then elemCode d.fa (o.vecs.getD m ([], false)).1 k
  else if d.stat == 2 then elemCode d.fa (o.tile.drop (m * d.statVec)) k
  else if d.pairs then
    elemCode d.fa ((o.vecs.getD (k / 2) ([], false)).1.drop (k % 2 * elemBytes d.fa d.m)) m
  else elemCode d.fa (o.vecs.getD k ([], false)).1 m
def codeB (d : MDesc) (o : UnitOps) (k n : Nat) : Nat :=
  if d.stat == 0 then elemCode d.fb (o.tile.drop (k * d.statVec)) n
  else if d.stat == 2 then elemCode d.fb (o.vecs.getD n ([], false)).1 k
  else if d.pairs then
    elemCode d.fb ((o.vecsB.getD (k / 2) ([], false)).1.drop (k % 2 * elemBytes d.fb d.n)) n
  else elemCode d.fb (o.vecsB.getD k ([], false)).1 n
def scaleA (d : MDesc) (o : UnitOps) (m k : Nat) : Fl :=
  if isMx d.fa then
    let v := if d.stat == 0 then (o.vecs.getD m ([], false)).1 else o.tile.drop (m * d.statVec)
    ofE8M0 (v.getD (32 + k / 32) 0).toNat
  else .fin false 1 0
def scaleB (d : MDesc) (o : UnitOps) (k n : Nat) : Fl :=
  if isMx d.fb then
    if d.stat == 0 then ofE8M0 (o.tile.getD (d.k * d.statVec + k / 32 * d.n + n) 0).toNat
    else ofE8M0 ((o.vecs.getD n ([], false)).1.getD (32 + k / 32) 0).toNat
  else .fin false 1 0

/-- The entry of the codebook, and the format of B's elements after the lookup (R268). -/
def bookCode (x : Clu) (d : MDesc) (c : Nat) : Nat :=
  if isCb d.fb then (if d.cbfmt == 0xA then leNat (x.tileRead (d.cbAt + 2 * c) 2) else leNat (x.tileRead (d.cbAt + c) 1))
  else c
def fmtB (d : MDesc) : Nat := if isCb d.fb then d.cbfmt else d.fb

/-- Index of the per-array areas (R270). -/
def areaIx (u : Nat × Nat) (j : Nat) : Nat := u.1 * 64 + 16 * u.2 + j

/-- The INT32 element before the drain's format (R272): exact, then clamped once; and whether it was. -/
def intElem (x : Clu) (d : MDesc) (o : UnitOps) (m n : Nat) : Int × Bool :=
  let a := fun k => intOf d.fa (codeA d o m k)
  let b := fun k => intOf (fmtB d) (bookCode x d (codeB d o k n))
  let ks := List.range d.k
  let sum := ks.foldl (fun s k => s + a k * b k) 0
  let za : Int := if d.zpa then intOf (if d.fa == 0 || d.fa == 2 then 0 else 1) d.za else 0
  let zb : Int := if d.zpb then leNat (x.tileRead (d.sumAt + 0x1000 + areaIx o.u n) 1) else 0
  let ra := if d.zpb then ks.foldl (fun s k => s + a k) 0 else 0
  let cb : Int := if d.zpa then signedN 32 (leNat (x.tileRead (d.sumAt + 4 * areaIx o.u n) 4)) else 0
  let c0 : Int := if d.acc then signedN 32 (leNat (x.tileRead (d.tc + m * d.accRow + 4 * n) 4)) else 0
  clampInt (-(2 ^ 31)) (2 ^ 31 - 1) (sum - zb * ra - za * cb + d.k * za * zb + c0)

/-- The exact sum of a group, +0 when it is zero (R273). -/
def groupSum (x : Clu) (d : MDesc) (o : UnitOps) (m n j : Nat) : Fl :=
  let s := (List.range 16).foldl (fun s i =>
    let k := 16 * j + i
    if k < d.k then
      Fl.add s (Fl.mul (Fl.mul (floatOf d.fa (codeA d o m k)) (scaleA d o m k))
        (Fl.mul (floatOf (fmtB d) (bookCode x d (codeB d o k n))) (scaleB d o k n)))
    else s) Fl.zero
  if s.isZero then Fl.zero else s

/-- The FP32 element before the drain, and how many of its accumulations saturated (R273). -/
def floatElem (x : Clu) (d : MDesc) (o : UnitOps) (m n : Nat) : Nat × Nat :=
  let c0 := if d.acc then leNat (x.tileRead (d.tc + m * d.accRow + 4 * n) 4) else 0
  (List.range ((d.k + 15) / 16)).foldl (fun (p : Nat × Nat) j =>
    let g := satF32 (groupSum x d o m n j)
    let a := satF32 (Fl.add (Fl.ofF32 p.1) (Fl.ofF32 g.1))
    (a.1, p.2 + b2n g.2 + b2n a.2)) (c0, 0)

/-- A K-bit code of a stationary tile or a streamed vector, and the bit-mode distance C[m][j] (R283). -/
def bitElem (x : Clu) (d : MDesc) (o : UnitOps) (m n : Nat) : Nat :=
  let w := d.k / 8
  let code := fun i => slice o.tile (i * w) w
  let vec := fun i => slice (o.vecs.getD i ([], false)).1 0 w
  let dist := if d.stat == 0 then hamming (vec m) (code n) else hamming (code m) (vec n)
  let c0 : Int := if d.acc then signedN 32 (leNat (x.tileRead (d.tc + m * d.accRow + 4 * n) 4)) else 0
  unsignedN (if d.fc == 0x10 then 16 else 32) (c0 + dist)

/-- What the drain makes of one output element: its code, whether it saturated, its value. -/
structure Elem where
  code : Nat
  sat : Bool
  val : Fl

/-- The output scale of a row (R278). -/
def rowScale (x : Clu) (d : MDesc) (u : Nat × Nat) (m : Nat) : Fl :=
  Fl.ofF32 (if d.rowsc then leNat (x.tileRead (d.rowAt + 4 * areaIx u m) 4) else d.osc)

def drainElem (x : Clu) (d : MDesc) (o : UnitOps) (s : Fl) (m n : Nat) : Elem :=
  if d.bit then ⟨bitElem x d o m n, false, Fl.zero⟩
  else if d.kind == .int then
    let v := intElem x d o m n
    let r := if d.fc == 0xC then (unsignedN 32 v.1, false) else convert d.fc s (Fl.ofInt v.1)
    ⟨r.1, r.2 || v.2, Fl.ofInt v.1⟩
  else
    let v := floatElem x d o m n
    let r := convert d.fc s (Fl.ofF32 v.1)
    ⟨r.1, r.2, Fl.ofF32 v.1⟩

/-- A drained row: its elements, the scale applied, its maximum (R278, R281), whether it was replayed. -/
structure Row where
  es : List Elem
  scale : Nat
  rmax : Fl
  replayed : Bool

def maxFin (l : List Elem) : Fl :=
  l.foldl (fun r e => if e.val.isFin && Fl.cmp r e.val.abs == some .lt then e.val.abs else r) Fl.zero

def drainRow (x : Clu) (d : MDesc) (o : UnitOps) (m : Nat) : Row :=
  let s := rowScale x d o.u m
  let es := (List.range d.outN).map (drainElem x d o s m)
  ⟨es, toF32 s, maxFin es, false⟩

/-- The row converted again from its accumulators with s := qmax / r (R281). -/
def replayRow (d : MDesc) (r : Row) : Row :=
  if r.es.any (fun e => e.sat && e.val.isFin) then
    match r.rmax with
    | .fin _ m e =>
      if m = 0 then r
      else
        let s := divF32 (qmax d.fc) m e
        { r with es := r.es.map fun x => { x with code := (convert d.fc (Fl.ofF32 s) x.val).1 }
                 scale := s, replayed := true }
    | _ => r
  else r

/-- Magnitude of a quantised code, as a number; none for a NaN. -/
def codeMag (fc c : Nat) : Fl := (if fc == 0 then Fl.ofInt (signedN 8 c) else floatOf fc c).abs

/-- A tile is underused when its largest finite code is below qmax / 16 (R282). -/
def underused (d : MDesc) (rows : List Row) : Bool :=
  let top := rows.foldl (fun t r => r.es.foldl (fun t e =>
    let v := codeMag d.fc e.code
    if v.isFin && Fl.cmp t v == some .lt then v else t) t) Fl.zero
  Fl.cmp (Fl.mul top (Fl.ofInt 16)) (Fl.ofInt (qmax d.fc)) == some .lt

/-- The poison that every output granule of the command takes: weights, areas, PSTICKY (Table 7.5, R226, R270). -/
def allPois (x : Clu) (d : MDesc) (k : ECmd) (us : List UnitOps) : Bool :=
  k.sticky ||
  us.any (fun o => if d.stat == 0 then o.tPois else if d.stat == 2 then o.vecs.any (·.2)
    else o.vecs.any (·.2) || o.vecsB.any (·.2)) ||
  (d.readsRow && x.poisIn d.rowAt 4096) || (isCb d.fb && x.poisIn d.cbAt d.cbBytes) ||
  (d.usesSum && (d.zpa && x.poisIn d.sumAt 4096 || d.zpb && x.poisIn (d.sumAt + 0x1000) 1024))

/-- The poison of a row of C: its row of A, its row of C₀. -/
def rowPois (x : Clu) (d : MDesc) (o : UnitOps) (m : Nat) : Bool :=
  (if d.stat == 0 then (o.vecs.getD m ([], false)).2 else d.stat == 2 && o.tPois) ||
  (d.acc && x.poisIn (d.tc + m * d.accRow) d.accRow)

/-- Drain a unit to a tile address (R277 to R282). Under SATPOL 10b an event leaves the tile unwritten and ends the context. -/
def drainUnit (c : Nat) (k : ECmd) (d : MDesc) (x : Clu) (all : Bool) (o : UnitOps) (addr : Nat) (s : State) : State :=
  let rows := (List.range d.outM).map (drainRow x d o)
  let sats := sumOf (rows.map fun r => (r.es.filter (·.sat)).length)
  let event := d.checks && decide (d.satlim < sats)
  let pol := x.ar.satpol
  if event && pol == 2 then
    programFault c k.pc 0 .saturationLimit (countTile c d.checks d.ctr sats 0 true false s)
  else
    let done := if event && pol == 1 then rows.map (replayRow d) else rows
    let s := countTile c d.checks d.ctr sats (done.filter (·.replayed)).length event (d.checks && underused d done) s
    let sz := outBytes d.fc
    let s := modClu c (fun y => done.zipIdx.foldl (fun y r =>
      y.tileWrite (addr + r.2 * d.rowBytes) (padTo 64 (r.1.es.flatMap fun e => leBytes sz e.code))
        (all || rowPois x d o r.2)) y) s
    if d.checks then
      modClu c (fun y => done.zipIdx.foldl (fun y r =>
        let p := all || (List.range 16).any fun i => decide (r.2 / 16 * 16 + i < d.outM) && rowPois x d o (r.2 / 16 * 16 + i)
        (y.tilePatch (d.rowAt + 4 * areaIx o.u r.2) (leBytes 4 r.1.scale) p).tilePatch
          (d.rowAt + 0x1000 + 4 * areaIx o.u r.2) (leBytes 4 (toF32 r.1.rmax)) p) y) s
    else s

/-- A timing fault (R256): reported, unless a report stands, and recorded with the command's SEQ and where its schedule entry lies; the
context is torn down with Timing Fault; see log 118 (DESIGN CHOICE). -/
def timingFault (c : Nat) (k : ECmd) (f : SlotFail) (s : State) : State :=
  let at_ := k.seq * 2 ^ 32 + (mDesc k.desc).sched + 8 * f.entry
  let x := s.clu c
  let cyc := x.core.cycles + f.cyc
  let t : TFault := ⟨k.pc, cyc, true, !f.empty, f.empty, f.slot, f.arr⟩
  let info := 2 ^ 31 + b2n t.stale * 2 ^ 17 + b2n t.empty * 2 ^ 16 + f.slot * 256 + f.arr
  let s := if x.tf.valid then s else modClu c (fun y => { y with tf := t }) s
  match s.jobPart c with
  | some p => contextError p { kind := 0x08, inst := c, addr := at_, detail := info } .timingFault s
  | none => s

/-- A residue mismatch (R229): the job ends with Internal Error, the array has failed, nothing is delivered. -/
def residueFault (c a : Nat) (k : ECmd) (s : State) : State :=
  let s := modClu c (fun y => { y with
    ar := { y.ar with resFail := bump 0xFFFFFFFF y.ar.resFail 1, astat := y.ar.astat ||| 4 } }) s
  let s := match s.jobPart c with
    | some p => contextError p { kind := 0x07, inst := c, addr := k.pc, detail := a } .internalError s
    | none => s
  failArray c a s

/-- The slots after command `seq`: a stationary operand that it loaded stays VALID with LOADS alone; every other slot is kept (R255). -/
def slotsAfter (d : MDesc) (seq : Nat) (t : SlotSim) : List Slot :=
  if d.loads then t.slots
  else t.slots.filter fun s => !(s.tag == seq && (units d).any fun u => s.arr == u.1 && s.idx == statSlot d u.2)

/-- Sums and additions of a unit's float product that saturated (R273). -/
def accSats (x : Clu) (d : MDesc) (o : UnitOps) : Nat :=
  if d.bit || d.kind == .int then 0
  else sumOf ((List.range d.outM).map fun m => sumOf ((List.range d.outN).map fun n => (floatElem x d o m n).2))

/-- MATRIX_RUN: the matrix command at the head of the queue starts, follows its schedule past the slot checker, and drains.
`residue` is the array whose residue check fails, if one does. -/
def execMatrixRun (c : Nat) (residue : Option Nat) (s : State) : Host.Outcome State Fault Refusal :=
  if !s.hasClu c then .fault .absentUnit
  else match startable c 1 (fun _ => true) (engineFree 1) s with
    | none => .next s
    | some k =>
      let x := s.clu c
      let d := mDesc k.desc
      let es := (List.range d.slen).map (sEntry x d)
      if k.eop ≠ 0 ∨ !d.formatsOk then .next (contextFault c k.pc 8 0 s)
      else if 2 ^ 18 < 8 * d.slen ∨ !schedOk x d es then .next (contextFault c k.pc 0xB 0 s)
      else if !rangesOk d es then .next (contextFault c k.pc 7 0 s)
      else
        let s := begin_ c 1 d.amask k s
        let t := es.foldl (slotStep x d k.seq) ⟨x.slots, [], keepsFail d x.slots, 0⟩
        match t.fail with
        | some f => .next (timingFault c k f s)
        | none =>
          let s := modClu c (fun y => { y with slots := slotsAfter d k.seq t }) s
          match residue with
          | some a => if bit d.amask a then .next (residueFault c a k s) else .next (run c k d x es t s)
          | none => .next (run c k d x es t s)
where
  run (c : Nat) (k : ECmd) (d : MDesc) (x : Clu) (es : List SEntry) (t : SlotSim) (s : State) : State :=
    let us := (units d).map (unitOps d t)
    let all := allPois x d k us
    let s := countAcc c (sumOf (us.map (accSats x d))) s
    (es.filter (·.kind == 3)).foldl (fun s e =>
      if !s.active c then s
      else match us.find? fun o => o.u == (e.arr, quadOf d e.slot) with
        | some o => drainUnit c k d x all o e.addr s
        | none => s) s

/-- MATRIX_RUN_FINISH: the command reaches s + CYCLES, frees its arrays and applies its signal (R254). -/
def execMatrixRunFinish (c seq : Nat) (s : State) : Host.Outcome State Fault Refusal :=
  if !s.hasClu c then .fault .absentUnit
  else match ((s.clu c).q 1).act.find? fun a => a.cmd.seq == seq && !a.fin with
    | none => .next s
    | some _ => .next (finish c 1 seq s)

end Sys2Proof.Machine
end

