-- ==== Sys2Proof/Machine/Dispatch.lean ====
section
/-! DEFINITION. The meaning of every command: one arm for each constructor of `Instr`. -/

namespace Sys2Proof.Machine

/-- The effect of a command on everything but the queue. -/
def exec (i : Instr) (s : State) : Host.Outcome State Fault Refusal :=
  match i with
  | .submissionQueueDoorbell qid tail entries => Sys2Proof.Machine.execSubmissionQueueDoorbell qid tail entries s
  | .completionQueueDoorbell qid head => Sys2Proof.Machine.execCompletionQueueDoorbell qid head s
  | .controllerEnable r => Sys2Proof.Machine.execControllerEnable r s
  | .controllerDisable => Sys2Proof.Machine.execControllerDisable s
  | .shutdownNotification shn => Sys2Proof.Machine.execShutdownNotification shn s
  | .nvmSubsystemReset v => Sys2Proof.Machine.execNvmSubsystemReset v s
  | .perstAssert => Sys2Proof.Machine.execPerstAssert s
  | .hotReset => Sys2Proof.Machine.execHotReset s
  | .functionLevelReset => Sys2Proof.Machine.execFunctionLevelReset s
  | .linkDown => Sys2Proof.Machine.execLinkDown s
  | .linkRetrain rate width => Sys2Proof.Machine.execLinkRetrain rate width s
  | .powerGood bay i3c vin => Sys2Proof.Machine.execPowerGood bay i3c vin s
  | .memoryFillDone r => Sys2Proof.Machine.execMemoryFillDone r s
  | .activationCopyDone ok => Sys2Proof.Machine.execActivationCopyDone ok s
  | .replayDone r => Sys2Proof.Machine.execReplayDone r s
  | .startTimerExpiry => Sys2Proof.Machine.execStartTimerExpiry s
  | .powerLossCondition line => Sys2Proof.Machine.execPowerLossCondition line s
  | .overvoltageTrip => Sys2Proof.Machine.execOvervoltageTrip s
  | .powerStageFault stage => Sys2Proof.Machine.execPowerStageFault stage s
  | .dumpComplete recordOk us j => Sys2Proof.Machine.execDumpComplete recordOk us j s
  | .adminAbort c => Sys2Proof.Machine.execAdminAbort c s
  | .asynchronousEventRequest c => Sys2Proof.Machine.execAsynchronousEventRequest c s
  | .createIoSubmissionQueue c => Sys2Proof.Machine.execCreateIoSubmissionQueue c s
  | .createIoCompletionQueue c => Sys2Proof.Machine.execCreateIoCompletionQueue c s
  | .deleteIoSubmissionQueue c => Sys2Proof.Machine.execDeleteIoSubmissionQueue c s
  | .deleteIoCompletionQueue c => Sys2Proof.Machine.execDeleteIoCompletionQueue c s
  | .identify c => Sys2Proof.Machine.execIdentify c s
  | .getLogPage c => Sys2Proof.Machine.execGetLogPage c s
  | .getFeatures c => Sys2Proof.Machine.execGetFeatures c s
  | .setFeaturesPowerManagement c => Sys2Proof.Machine.execSetFeaturesPowerManagement c s
  | .setFeaturesArbitration c => Sys2Proof.Machine.execSetFeaturesArbitration c s
  | .setFeaturesTimestamp c => Sys2Proof.Machine.execSetFeaturesTimestamp c s
  | .setFeaturesVendorEventEnable c => Sys2Proof.Machine.execSetFeaturesVendorEventEnable c s
  | .setFeatures c => Sys2Proof.Machine.execSetFeatures c s
  | .powerStateEntryDrained => Sys2Proof.Machine.execPowerStateEntryDrained s
  | .powerStateExitDone => Sys2Proof.Machine.execPowerStateExitDone s
  | .deviceSelfTestShort c => Sys2Proof.Machine.execDeviceSelfTestShort c s
  | .deviceSelfTestExtended c => Sys2Proof.Machine.execDeviceSelfTestExtended c s
  | .deviceSelfTestStop c => Sys2Proof.Machine.execDeviceSelfTestStop c s
  | .selfTestSlice seg unit ok => Sys2Proof.Machine.execSelfTestSlice seg unit ok s
  | .selfTestTimeout => Sys2Proof.Machine.execSelfTestTimeout s
  | .firmwareImageDownload c => Sys2Proof.Machine.execFirmwareImageDownload c s
  | .firmwareCommitReplaceActivate c => Sys2Proof.Machine.execFirmwareCommitReplaceActivate c s
  | .firmwareCommitActivate c => Sys2Proof.Machine.execFirmwareCommitActivate c s
  | .sanitizeCryptoErase c => Sys2Proof.Machine.execSanitizeCryptoErase c s
  | .sanitizeBlockErase c => Sys2Proof.Machine.execSanitizeBlockErase c s
  | .sanitizeDone => Sys2Proof.Machine.execSanitizeDone s
  | .formatNvm c => Sys2Proof.Machine.execFormatNvm c s
  | .namespaceCreate c => Sys2Proof.Machine.execNamespaceCreate c s
  | .namespaceDelete c => Sys2Proof.Machine.execNamespaceDelete c s
  | .namespaceAttach c => Sys2Proof.Machine.execNamespaceAttach c s
  | .namespaceDetach c => Sys2Proof.Machine.execNamespaceDetach c s
  | .nvmeMiSend c => Sys2Proof.Machine.execNvmeMiSend c s
  | .nvmeMiReceive c => Sys2Proof.Machine.execNvmeMiReceive c s
  | .read c => Sys2Proof.Machine.execRead c s
  | .write c => Sys2Proof.Machine.execWrite c s
  | .writeZeroes c => Sys2Proof.Machine.execWriteZeroes c s
  | .datasetManagement c => Sys2Proof.Machine.execDatasetManagement c s
  | .flush c => Sys2Proof.Machine.execFlush c s
  | .scan c => Sys2Proof.Machine.execScan c s
  | .embed c => Sys2Proof.Machine.execEmbed c s
  | .score c => Sys2Proof.Machine.execScore c s
  | .search c => Sys2Proof.Machine.execSearch c s
  | .nearJoin c => Sys2Proof.Machine.execNearJoin c s
  | .indexInsert c => Sys2Proof.Machine.execIndexInsert c s
  | .indexDelete c => Sys2Proof.Machine.execIndexDelete c s
  | .indexPublish c => Sys2Proof.Machine.execIndexPublish c s
  | .indexCompact c => Sys2Proof.Machine.execIndexCompact c s
  | .jobRun c => Sys2Proof.Machine.execJobRun c s
  | .resultFetch c => Sys2Proof.Machine.execResultFetch c s
  | .resultRelease c => Sys2Proof.Machine.execResultRelease c s
  | .recallEstimate c => Sys2Proof.Machine.execRecallEstimate c s
  | .indexCreate c => Sys2Proof.Machine.execIndexCreate c s
  | .indexDrop c => Sys2Proof.Machine.execIndexDrop c s
  | .epochDurable nsid idx => Sys2Proof.Machine.execEpochDurable nsid idx s
  | .configurationStage c => Sys2Proof.Machine.execConfigurationStage c s
  | .configurationCheck c => Sys2Proof.Machine.execConfigurationCheck c s
  | .configurationCommit c => Sys2Proof.Machine.execConfigurationCommit c s
  | .commitDrainEnd => Sys2Proof.Machine.execCommitDrainEnd s
  | .commitDrainTimeout => Sys2Proof.Machine.execCommitDrainTimeout s
  | .commitRecordDurable => Sys2Proof.Machine.execCommitRecordDurable s
  | .configurationDiscard c => Sys2Proof.Machine.execConfigurationDiscard c s
  | .modelInstall c => Sys2Proof.Machine.execModelInstall c s
  | .modelRemove c => Sys2Proof.Machine.execModelRemove c s
  | .programInstall c => Sys2Proof.Machine.execProgramInstall c s
  | .registerRead c => Sys2Proof.Machine.execRegisterRead c s
  | .registerWrite c => Sys2Proof.Machine.execRegisterWrite c s
  | .attestCertificates c => Sys2Proof.Machine.execAttestCertificates c s
  | .attestQuote c => Sys2Proof.Machine.execAttestQuote c s
  | .attestOwner c => Sys2Proof.Machine.execAttestOwner c s
  | .cisternTest c => Sys2Proof.Machine.execCisternTest c s
  | .startLedgerClear c => Sys2Proof.Machine.execStartLedgerClear c s
  | .bar2Read a size => Sys2Proof.Machine.execBar2Read a size s
  | .bar2Write a v size => Sys2Proof.Machine.execBar2Write a v size s
  | .registerPairLoRead a => Sys2Proof.Machine.execRegisterPairLoRead a s
  | .registerPairHiWrite a v => Sys2Proof.Machine.execRegisterPairHiWrite a v s
  | .cluCtlHaltreq c => Sys2Proof.Machine.execCluCtlHaltreq c s
  | .cluCtlFreload c => Sys2Proof.Machine.execCluCtlFreload c s
  | .cluTmctlRead c => Sys2Proof.Machine.execCluTmctlRead c s
  | .cluTmctlWrite c v => Sys2Proof.Machine.execCluTmctlWrite c v s
  | .cluTfinfoWrite c v => Sys2Proof.Machine.execCluTfinfoWrite c v s
  | .cluAstatWrite c v => Sys2Proof.Machine.execCluAstatWrite c v s
  | .syncValueWrite o v => Sys2Proof.Machine.execSyncValueWrite o v s
  | .syncStatWrite o v => Sys2Proof.Machine.execSyncStatWrite o v s
  | .cadVstatWrite v => Sys2Proof.Machine.execCadVstatWrite v s
  | .cisTestStart v => Sys2Proof.Machine.execCisTestStart v s
  | .medCtlWrite v => Sys2Proof.Machine.execMedCtlWrite v s
  | .rasCtlWrite v => Sys2Proof.Machine.execRasCtlWrite v s
  | .rasInjArm v => Sys2Proof.Machine.execRasInjArm v s
  | .genFaultWrite v => Sys2Proof.Machine.execGenFaultWrite v s
  | .bootCtlCrst v => Sys2Proof.Machine.execBootCtlCrst v s
  | .bootNativeProgram v => Sys2Proof.Machine.execBootNativeProgram v s
  | .bootPulseVerifiedProgram v => Sys2Proof.Machine.execBootPulseVerifiedProgram v s
  | .bootErase v => Sys2Proof.Machine.execBootErase v s
  | .bootPstatWrite v => Sys2Proof.Machine.execBootPstatWrite v s
  | .bootRwinRead j => Sys2Proof.Machine.execBootRwinRead j s
  | .bootFlashOperationDone ok pulses => Sys2Proof.Machine.execBootFlashOperationDone ok pulses s
  | .cadenceEdge len high => Sys2Proof.Machine.execCadenceEdge len high s
  | .cadenceMarker len high => Sys2Proof.Machine.execCadenceMarker len high s
  | .cadenceLoss => Sys2Proof.Machine.execCadenceLoss s
  | .surrogatePeriod => Sys2Proof.Machine.execSurrogatePeriod s
  | .cadenceAcquireTimeout => Sys2Proof.Machine.execCadenceAcquireTimeout s
  | .grantRelease u => Sys2Proof.Machine.execGrantRelease u s
  | .thermalSensorRead t => Sys2Proof.Machine.execThermalSensorRead t s
  | .thermalShutdown sensor => Sys2Proof.Machine.execThermalShutdown sensor s
  | .stringMonitorRead r => Sys2Proof.Machine.execStringMonitorRead r s
  | .spareStringSwitchedIn => Sys2Proof.Machine.execSpareStringSwitchedIn s
  | .stringTestSchedule => Sys2Proof.Machine.execStringTestSchedule s
  | .stringTestDone n cap esr => Sys2Proof.Machine.execStringTestDone n cap esr s
  | .allowanceRecompute => Sys2Proof.Machine.execAllowanceRecompute s
  | .rechargeBurstEnd => Sys2Proof.Machine.execRechargeBurstEnd s
  | .jobBoundary p => Sys2Proof.Machine.execJobBoundary p s
  | .quiescenceWaitTimeout p => Sys2Proof.Machine.execQuiescenceWaitTimeout p s
  | .modelLoadDone m => Sys2Proof.Machine.execModelLoadDone m s
  | .batchStepBoundary p => Sys2Proof.Machine.execBatchStepBoundary p s
  | .jobWatchdog p => Sys2Proof.Machine.execJobWatchdog p s
  | .stepWatchdog p => Sys2Proof.Machine.execStepWatchdog p s
  | .controlCoreHang c => Sys2Proof.Machine.execControlCoreHang c s
  | .teardownEnd p => Sys2Proof.Machine.execTeardownEnd p s
  | .partitionResetEnd p failed => Sys2Proof.Machine.execPartitionResetEnd p failed s
  | .alu c w => Sys2Proof.Machine.execAlu c w s
  | .addi c w => Sys2Proof.Machine.execAddi c w s
  | .andi c w => Sys2Proof.Machine.execAndi c w s
  | .ori c w => Sys2Proof.Machine.execOri c w s
  | .xori c w => Sys2Proof.Machine.execXori c w s
  | .slli c w => Sys2Proof.Machine.execSlli c w s
  | .srli c w => Sys2Proof.Machine.execSrli c w s
  | .srai c w => Sys2Proof.Machine.execSrai c w s
  | .li32 c w w1 => Sys2Proof.Machine.execLi32 c w w1 s
  | .lih c w w1 => Sys2Proof.Machine.execLih c w w1 s
  | .ld c w => Sys2Proof.Machine.execLd c w s
  | .lw c w => Sys2Proof.Machine.execLw c w s
  | .lh c w => Sys2Proof.Machine.execLh c w s
  | .lb c w => Sys2Proof.Machine.execLb c w s
  | .st c w => Sys2Proof.Machine.execSt c w s
  | .sw c w => Sys2Proof.Machine.execSw c w s
  | .sh c w => Sys2Proof.Machine.execSh c w s
  | .sb c w => Sys2Proof.Machine.execSb c w s
  | .beq c w => Sys2Proof.Machine.execBeq c w s
  | .bne c w => Sys2Proof.Machine.execBne c w s
  | .blt c w => Sys2Proof.Machine.execBlt c w s
  | .bge c w => Sys2Proof.Machine.execBge c w s
  | .bltu c w => Sys2Proof.Machine.execBltu c w s
  | .bgeu c w => Sys2Proof.Machine.execBgeu c w s
  | .jal c w => Sys2Proof.Machine.execJal c w s
  | .jalr c w => Sys2Proof.Machine.execJalr c w s
  | .loop c w => Sys2Proof.Machine.execLoop c w s
  | .loopi c w => Sys2Proof.Machine.execLoopi c w s
  | .lcidx c w => Sys2Proof.Machine.execLcidx c w s
  | .agld c w => Sys2Proof.Machine.execAgld c w s
  | .agst c w => Sys2Proof.Machine.execAgst c w s
  | .agset c w => Sys2Proof.Machine.execAgset c w s
  | .swait c w => Sys2Proof.Machine.execSwait c w s
  | .stake c w => Sys2Proof.Machine.execStake c w s
  | .syncWaitMet c => Sys2Proof.Machine.execSyncWaitMet c s
  | .ssig c w => Sys2Proof.Machine.execSsig c w s
  | .sset c w => Sys2Proof.Machine.execSset c w s
  | .deviceSignal o => Sys2Proof.Machine.execDeviceSignal o s
  | .issueF c w w1 => Sys2Proof.Machine.execIssueF c w w1 s
  | .issueM c w w1 => Sys2Proof.Machine.execIssueM c w w1 s
  | .issueV c w w1 => Sys2Proof.Machine.execIssueV c w w1 s
  | .issueH c w w1 => Sys2Proof.Machine.execIssueH c w w1 s
  | .issueS c w w1 => Sys2Proof.Machine.execIssueS c w w1 s
  | .barDrain c w => Sys2Proof.Machine.execBarDrain c w s
  | .barStage c w => Sys2Proof.Machine.execBarStage c w s
  | .barEnd c w => Sys2Proof.Machine.execBarEnd c w s
  | .barrierDrained c => Sys2Proof.Machine.execBarrierDrained c s
  | .recb c w => Sys2Proof.Machine.execRecb c w s
  | .verd c w => Sys2Proof.Machine.execVerd c w s
  | .rdcyc c w => Sys2Proof.Machine.execRdcyc c w s
  | .trap c w => Sys2Proof.Machine.execTrap c w s
  | .fetchCopy c => Sys2Proof.Machine.execFetchCopy c s
  | .fetchGather c => Sys2Proof.Machine.execFetchGather c s
  | .fetchCopyrel c => Sys2Proof.Machine.execFetchCopyrel c s
  | .storeCopy c => Sys2Proof.Machine.execStoreCopy c s
  | .storeAppend c => Sys2Proof.Machine.execStoreAppend c s
  | .storeVappend c => Sys2Proof.Machine.execStoreVappend c s
  | .storePlist c => Sys2Proof.Machine.execStorePlist c s
  | .transferComplete c e seq => Sys2Proof.Machine.execTransferComplete c e seq s
  | .matrixRun c residue => Sys2Proof.Machine.execMatrixRun c residue s
  | .matrixRunFinish c seq => Sys2Proof.Machine.execMatrixRunFinish c seq s
  | .vectorList c => Sys2Proof.Machine.execVectorList c s
  | .hammingQload c => Sys2Proof.Machine.execHammingQload c s
  | .hammingXscan c => Sys2Proof.Machine.execHammingXscan c s
  | .hammingTload c => Sys2Proof.Machine.execHammingTload c s
  | .hammingPqscan c => Sys2Proof.Machine.execHammingPqscan c s
  | .hammingSelect c => Sys2Proof.Machine.execHammingSelect c s
  | .frameStaged c => Sys2Proof.Machine.execFrameStaged c s
  | .reservoirRead c stack bank row gran r spareRow => Sys2Proof.Machine.execReservoirRead c stack bank row gran r spareRow s
  | .reservoirReadLate c stack ch gran attempt k bothCopies spareLane => Sys2Proof.Machine.execReservoirReadLate c stack ch gran attempt k bothCopies spareLane s
  | .mirrorRebuildDone stack => Sys2Proof.Machine.execMirrorRebuildDone stack s
  | .sramPatrol mem inst addr r passEnds => Sys2Proof.Machine.execSramPatrol mem inst addr r passEnds s
  | .hbmPatrol stack bank row gran r spareRow passEnds => Sys2Proof.Machine.execHbmPatrol stack bank row gran r spareRow passEnds s
  | .flashPageReadDone l steps us => Sys2Proof.Machine.execFlashPageReadDone l steps us s
  | .flashProgramDone l nsid lba ok => Sys2Proof.Machine.execFlashProgramDone l nsid lba ok s
  | .flashEraseDone dieSet block ok slc => Sys2Proof.Machine.execFlashEraseDone dieSet block ok slc s
  | .dieStatusPollTimeout ch die => Sys2Proof.Machine.execDieStatusPollTimeout ch die s
  | .dieRebuildDone ch die => Sys2Proof.Machine.execDieRebuildDone ch die s
  | .gcMove nsid lba src dst => Sys2Proof.Machine.execGcMove nsid lba src dst s
  | .fold nsid lba dst => Sys2Proof.Machine.execFold nsid lba dst s
  | .mediaPatrolRead l steps passEnds => Sys2Proof.Machine.execMediaPatrolRead l steps passEnds s
  | .directoryCheckpoint => Sys2Proof.Machine.execDirectoryCheckpoint s
  | .mapPageConfirmed page l => Sys2Proof.Machine.execMapPageConfirmed page l s
  | .timestampTimeout => Sys2Proof.Machine.execTimestampTimeout s
  | .fmcCoreWatchdog core => Sys2Proof.Machine.execFmcCoreWatchdog core s
  | .processorWatchdogExpiry => Sys2Proof.Machine.execProcessorWatchdogExpiry s
  | .commandAuditExpiry sqid cid => Sys2Proof.Machine.execCommandAuditExpiry sqid cid s
  | .errorHandlerTimeout => Sys2Proof.Machine.execErrorHandlerTimeout s
  | .envelopeRecovery => Sys2Proof.Machine.execEnvelopeRecovery s
  | .laneFailure port lane codeword => Sys2Proof.Machine.execLaneFailure port lane codeword s
  | .portRetrainDone port => Sys2Proof.Machine.execPortRetrainDone port s
  | .flitRetry port => Sys2Proof.Machine.execFlitRetry port s
  | .electricalTrainingDone port => Sys2Proof.Machine.execElectricalTrainingDone port s
  | .trainingRetry port => Sys2Proof.Machine.execTrainingRetry port s
  | .ethernetInterfaceUp port n => Sys2Proof.Machine.execEthernetInterfaceUp port n s
  | .hello port h => Sys2Proof.Machine.execHello port h s
  | .probe m => Sys2Proof.Machine.execProbe m s
  | .probeack m => Sys2Proof.Machine.execProbeack m s
  | .probeTimer => Sys2Proof.Machine.execProbeTimer s
  | .ack m => Sys2Proof.Machine.execAck m s
  | .resendTimeout dev flow => Sys2Proof.Machine.execResendTimeout dev flow s
  | .pathRecovery dev path => Sys2Proof.Machine.execPathRecovery dev path s
  | .rateRaiseTimer dev => Sys2Proof.Machine.execRateRaiseTimer dev s
  | .bind m => Sys2Proof.Machine.execBind m s
  | .bindack m => Sys2Proof.Machine.execBindack m s
  | .rread m => Sys2Proof.Machine.execRread m s
  | .rdata m => Sys2Proof.Machine.execRdata m s
  | .rwrite m => Sys2Proof.Machine.execRwrite m s
  | .wack m => Sys2Proof.Machine.execWack m s
  | .rsig m => Sys2Proof.Machine.execRsig m s
  | .cancel m => Sys2Proof.Machine.execCancel m s
  | .cancelack m => Sys2Proof.Machine.execCancelack m s
  | .waking m => Sys2Proof.Machine.execWaking m s
  | .reject m => Sys2Proof.Machine.execReject m s
  | .remoteTimeout opid dev => Sys2Proof.Machine.execRemoteTimeout opid dev s
  | .fanreq m => Sys2Proof.Machine.execFanreq m s
  | .fanprog m => Sys2Proof.Machine.execFanprog m s
  | .fanprogTimer => Sys2Proof.Machine.execFanprogTimer s
  | .fanres m => Sys2Proof.Machine.execFanres m s
  | .shufitem m => Sys2Proof.Machine.execShufitem m s
  | .shufend m => Sys2Proof.Machine.execShufend m s
  | .shufpair m => Sys2Proof.Machine.execShufpair m s
  | .spdmGetVersion req => Sys2Proof.Machine.execSpdmGetVersion req s
  | .spdmGetCapabilities req => Sys2Proof.Machine.execSpdmGetCapabilities req s
  | .spdmNegotiateAlgorithms req => Sys2Proof.Machine.execSpdmNegotiateAlgorithms req s
  | .spdmGetDigests req => Sys2Proof.Machine.execSpdmGetDigests req s
  | .spdmGetCertificate req => Sys2Proof.Machine.execSpdmGetCertificate req s
  | .spdmChallenge req => Sys2Proof.Machine.execSpdmChallenge req s
  | .spdmGetMeasurements req => Sys2Proof.Machine.execSpdmGetMeasurements req s
  | .subsystemHealthStatusPoll => Sys2Proof.Machine.execSubsystemHealthStatusPoll s
  | .nvmeMiAdminTunnel e => Sys2Proof.Machine.execNvmeMiAdminTunnel e s
  | .perstDeassert => Sys2Proof.Machine.execPerstDeassert s
  | .thermalShutdownRecovery t => Sys2Proof.Machine.execThermalShutdownRecovery t s
  | .engineCommandFinish c e => Sys2Proof.Machine.execEngineCommandFinish c e s
  | .ucieLaneFault link spareLeft => Sys2Proof.Machine.execUcieLaneFault link spareLeft s
  | .managementProcessorMemoryError boot addr => Sys2Proof.Machine.execManagementProcessorMemoryError boot addr s
  | .hostLinkError => Sys2Proof.Machine.execHostLinkError s

end Sys2Proof.Machine
end

