-- ==== Sys2Proof/Machine/Tick.lean ====
section
/-! DEFINITION. What passes with a microsecond in which no command waits (log 8). -/

namespace Sys2Proof.Machine

/-- A microsecond of the contexts of one cluster: arithmetic-clock cycles at the clock in force (0.1 GHz gives 100 cycles). -/
def tickClu (mhz100 : Nat) (x : Clu) : Clu :=
  if x.run then x.modCore fun k => { k with cycles := k.cycles + 100 * mhz100 } else x

/-- A microsecond of a partition: its running job's cycles (R298, Table 10.7 BUSY). -/
def tickPart (mhz100 : Nat) (p : Part) : Part :=
  let n := 100 * mhz100
  { p with
    run := p.run.map fun r => { r with cycles := r.cycles + n }
    batch := p.batch.map fun b => { b with cycles := b.cycles + n }
    cnt := if p.run.isSome || p.batch.isSome then { p.cnt with busy := p.cnt.busy + n } else p.cnt }

/-- The input power is measured (R28, R397): free values (log 55) within their limits. It changes by at most 50 W in a microsecond
(R395); its 1 s average keeps to the ceiling; its 100 µs average exceeds it by at most 150 W, for at most 10 ms, 40 ms after the
excursion before. -/
def measurePower (v : Nat) (s : State) : State :=
  s.modPwr fun p =>
    let may := s.cad.src != 0 && (if p.beyond = 0 then decide (40000 ≤ p.quiet) else decide (p.beyond < 10000))
    let avg := bits v 15 0 % (s.mostPower may + 1)
    let out := decide (s.mostPower false < avg)
    { p with
      vin := p.input
      pin := p.pin - min p.pin 500 + bits v 47 34 % (min p.pin 500 + 501)
      pin100 := avg
      pin1 := bits v 31 16 % (s.mostPower false / 10 + 1)
      exc := if out && p.beyond = 0 then sat32 p.exc else p.exc
      beyond := if out then p.beyond + 1 else 0
      quiet := if out then 0 else min 40000 (p.quiet + 1) }

/-- What no row reports and the world outside settles is measured anew: the input power, the latch contacts, the FEC codewords corrected
on the ports that are up. Each is a free value (log 55). -/
def measure (s : State) : State :=
  if !s.powered then s
  else
    let a := draw s
    let b := draw a.2
    let s := (measurePower a.1.toNat b.2).modGen fun g => { g with latchOpen := bit a.1.toNat 33 }
    s.modLnk fun l => { l with
      ports := l.ports.mapIdx fun i p =>
        if p.st == 2 then { p with fecCorr := (p.fecCorr + bits b.1.toNat (16 * i + 15) (16 * i)) % 2 ^ 64 } else p }

/-- The tick: a microsecond of time, what is measured, and the cycles of jobs and contexts. -/
def tick (s : State) : State :=
  let k := s.clock
  let s := (measure s).modNow (· + 1)
  let s := s.modClus (·.map (tickClu k))
  s.modParts (·.map (tickPart k))

end Sys2Proof.Machine
end

