-- ==== Sys2Proof/Safety.lean ====
section
/-! DEFINITION. What counts as a safe state: the memories are in canonical form, the register files have the size that the spec gives
them, the power states are legal. Every step keeps it. -/

namespace Sys2Proof.Machine

/-- A cluster (Tables 7.1 and 8.1): tile memory, instruction memory, data memory and the staging ring are canonical; 32 registers, 8
descriptors, 5 engines, 128 sync objects. -/
def Clu.ok (x : Clu) : Prop :=
  Mem.wf 0 x.tile ∧ Mem.wf 0 x.im ∧ Mem.wf 0 x.core.dm ∧ Mem.wf 0 x.ring.mem ∧
  x.core.g.length = 32 ∧ x.core.pois.length = 32 ∧ x.core.ready.length = 32 ∧ x.core.ag.length = 8 ∧
  x.eng.length = 5 ∧ x.objs.length = 128

/-- The power states (Table 2.6): PS0 to PS4; the last operational state is PS0 to PS2, an entry leads to PS3 or PS4. -/
def Mgmt.ok (m : Mgmt) : Prop :=
  m.ps ≤ 4 ∧ m.lastOp ≤ 2 ∧ ∀ e, m.entry = some e → e.1 = 3 ∨ e.1 = 4

/-- A change of power state that waits for its frame marker is between operational states (R56). -/
def Pwr.ok (p : Pwr) : Prop := ∀ e, p.pendingPs = some e → e.1 ≤ 2

/-- The contents of a namespace are canonical. -/
def Ns.ok (n : Ns) : Prop := Mem.wf 0 n.mem

/-- The sled: 32 clusters and 8 partitions, each well; namespaces, Reservoir and boot flash canonical; the power states legal. -/
structure State.ok (s : State) : Prop where
  nclu : s.clus.length = 32
  clu : ∀ x ∈ s.clus, x.ok
  npart : s.parts.length = 8
  ns : ∀ n ∈ s.nss, n.ok
  resv : Mem.wf 0 s.resv.mem
  flash : Mem.wf 0xFF s.boot.flash
  mgmt : s.mgmt.ok
  pwr : s.pwr.ok

/-- An outcome whose next state, when there is one, is well. -/
def okOut (o : Host.Outcome State Fault Refusal) : Prop := ∀ t, o = .next t → t.ok

/-- A partition that selects nothing: it is not idle, or it has no job. -/
def Part.quiet (x : Part) : Prop := x.idle = false ∨ (∀ q ∈ x.queues, q = []) ∧ x.sel = none

/-- Nothing follows of itself from the state, its commands apart: no publish waits to begin, no log entry waits for its command, no bind
for its run, no partition selects a job. -/
structure State.still (s : State) : Prop where
  escalate : s.escalate = false
  waiting : ∀ i ∈ s.idx, i.waiting = []
  pend : ∀ i ∈ s.idx, ∀ e ∈ i.pend, e.done = true
  bind : s.lnk.bindWait = []
  parts : ∀ x ∈ s.parts, x.quiet

/-- Nothing follows of itself from the state: no command is in flight, no entry waits in a submission queue. -/
structure State.quiet (s : State) : Prop extends s.still where
  flights : s.nvm.flights = []
  sqs : ∀ q ∈ s.nvm.sqs, q.unfetched = []

/-- The sled takes the next command from the submission queue `q`, whose completion queue is `k`: the controller is ready, no power
state is entered or left, no sanitize runs, both queues have room. -/
structure State.takes (s : State) (q : Sq) (k : Cq) : Prop extends s.quiet where
  en : s.nvm.en = true
  rdy : s.nvm.rdy = true
  phase : s.boot.phase = .ready
  ps : s.mgmt.ps ≤ 2
  entry : s.mgmt.entry = none
  sanitize : s.mgmt.sanitize = none
  gone : ∀ n ∈ s.nss, n.gone = none
  drops : ∀ i ∈ s.idx, ∀ n, i.dropping = some n → n < s.nvm.orders
  sq : s.nvm.sqs.filter (fun x => x.id == q.id) = [q]
  size : 1 < q.size
  prio : q.prio ≤ 3
  cq : s.nvm.cqs.filter (fun x => x.id == q.cqid) = [k]
  room : k.full = false
  backlog : k.backlog = []
  serial : ∀ n, s.nvm.serial = some n → n < s.nvm.orders
  aers : s.nvm.aers = []

/-- What the sled writes to the host for a completion (R34): the entry, with the head of its submission queue, then its message. -/
def completion (k : Cq) (sqid head cid : Nat) (st : Status) (dw0 dw1 : Nat) : List HostWrite :=
  .entry k.id ⟨sqid, cid, head, st, false, dw0, dw1⟩ :: (if k.ien then [.msix k.vector] else [])

/-- A controller with the queues, the arbitration, the commands in flight and the Error Information log of another. -/
def Nvm.withFront (n m : Nvm) : Nvm :=
  { n with
    sqs := m.sqs, cqs := m.cqs, rrLast := m.rrLast, burst := m.burst, credits := m.credits, flights := m.flights
    orders := m.orders, serial := m.serial, errLog := m.errLog, errCount := m.errCount }

/-- A queue's place moves on by one entry. -/
def Sq.moved (x : Sq) : Sq := { x with head := (x.head + 1) % x.size, tail := (x.tail + 1) % x.size }

/-- The command that the sled takes next from `q`, in the state `s`, completes with `st`, after the writes `out` to host memory; all that
it changes otherwise is what `u` changes. -/
def Completes (o : Host.Outcome State Fault Refusal) (s : State) (q : Sq) (k : Cq) (cid : Nat) (st : Status) (dw0 dw1 : Nat)
    (out : List HostWrite) (u : State) : Prop :=
  ∃ t, o = .next t ∧
    t = { u with
      nvm := u.nvm.withFront t.nvm
      hostWrites := s.hostWrites ++ out ++ completion k q.id ((q.head + 1) % q.size) cid st dw0 dw1 } ∧
    t.nvm.flights = [] ∧ t.nvm.orders = s.nvm.orders + 1 ∧
    t.nvm.sqs = (u.nvm.sqs.map fun x => if x.id == q.id then x.moved else x) ∧
    t.nvm.cqs = (u.nvm.cqs.map fun x => if x.id == k.id then { x with tail := (x.tail + 1) % x.size } else x) ∧
    t.nvm.errCount = u.nvm.errCount + (if st = .success then 0 else 1) ∧
    (st = .success → t.nvm.errLog = u.nvm.errLog)

/-- A command in flight as the audit enters it (R465). -/
def entryOf (q : Sq) (opc : BitVec 8) (c : Cmd) (s : State) : Flight :=
  ⟨q.id, c.cid, opc, { c with sqid := q.id }, s.nvm.orders, s.now, s.now + 10000000, .waiting, none⟩

/-- A command in flight that has come to another phase. -/
def Flight.inPhase (f : Flight) (ph : Phase) : Flight := { f with phase := ph }

/-- The command that the sled takes next from `q`, in the state `s`, is in flight in the phase `ph`, after the writes `out` to host
memory; all that it has changed otherwise is what `u` changes. -/
def Pends (o : Host.Outcome State Fault Refusal) (s : State) (q : Sq) (opc : BitVec 8) (c : Cmd) (ph : Phase)
    (out : List HostWrite) (u : State) : Prop :=
  ∃ t, o = .next t ∧
    t = { u with
      nvm := u.nvm.withFront t.nvm
      hostWrites := s.hostWrites ++ out } ∧
    t.nvm.flights = [(entryOf q opc c s).inPhase ph] ∧ t.nvm.orders = s.nvm.orders + 1 ∧
    t.nvm.sqs = (u.nvm.sqs.map fun x => if x.id == q.id then x.moved else x) ∧
    t.nvm.cqs = u.nvm.cqs ∧ t.nvm.errCount = u.nvm.errCount ∧ t.nvm.errLog = u.nvm.errLog

/-- What a state must be for a command from `q` to complete out of it: nothing follows, the queues are those the command came by. -/
structure State.lands (u : State) (q : Sq) (k : Cq) : Prop extends u.still where
  sqs : ∀ x ∈ u.nvm.sqs, x.unfetched = []
  sq : u.nvm.sqs.filter (fun x => x.id == q.id) = [q]
  cq : u.nvm.cqs.filter (fun x => x.id == q.cqid) = [k]
  room : k.full = false
  backlog : k.backlog = []

/-- The one command in flight is `f`, which came by `q`, and can complete. -/
structure State.carries (s : State) (q : Sq) (k : Cq) (f : Flight) : Prop extends s.lands q k where
  flights : s.nvm.flights = [f]
  sqid : f.sqid = q.id
  phase : f.phase = .executing ∨ f.phase = .job
  record : f.errRec = none

/-- The command `f` that is in flight in `s` completes with `st`, after the writes `out` to host memory; all that changes otherwise is
what `u` changes. -/
def Finishes (o : Host.Outcome State Fault Refusal) (s : State) (q : Sq) (k : Cq) (f : Flight) (st : Status) (dw0 dw1 : Nat)
    (out : List HostWrite) (u : State) : Prop :=
  ∃ t, o = .next t ∧
    t = { u with
      nvm := u.nvm.withFront t.nvm
      hostWrites := s.hostWrites ++ out ++ completion k q.id q.head f.cid st dw0 dw1 } ∧
    t.nvm.flights = [] ∧ t.nvm.orders = s.nvm.orders ∧ t.nvm.sqs = u.nvm.sqs ∧
    t.nvm.cqs = (u.nvm.cqs.map fun x => if x.id == k.id then { x with tail := (x.tail + 1) % x.size } else x) ∧
    t.nvm.errCount = u.nvm.errCount + (if st = .success then 0 else 1) ∧
    (st = .success → t.nvm.errLog = u.nvm.errLog)

/-- The control core of the cluster `c`, which is `x`, is at the instruction word `w`: its context runs on the generation of instruction
memory it started with, and the word stands at its PC (R206, R233). -/
structure State.coreAt (s : State) (c : Nat) (w : Word) (x : Clu) : Prop where
  has : s.hasClu c = true
  here : s.clus[c]? = some x
  ok : x.ok
  run : x.run = true
  st : x.core.st = .running
  gen : x.gen = x.imgen
  word : x.imWord x.core.pc = w.toNat

/-- When an instruction that reads the registers `srcs` begins: once their results are ready (R253). -/
def Core.begins (k : Core) (srcs : List Nat) : Nat := srcs.foldl (fun t r => max t (k.ready.getD r 0)) k.cycles

/-- The core after an instruction of `size` bytes that reads `srcs` and is no taken branch: `k` with what it writes, the cycles to retire
and until the result in `rd` is ready (Table 8.13), the next PC, and the loops that end here (R238). -/
def Core.retired (old : Core) (size : Nat) (srcs : List Nat) (rd cost lat : Nat) (k : Core) : Core :=
  { k with
    cycles := old.begins srcs + cost
    ready := if rd = 0 then k.ready else k.ready.set rd (old.begins srcs + max cost lat)
    loops := (loopEnd (k.pc + size) k.loops).1
    pc := (loopEnd (k.pc + size) k.loops).2 % 2 ^ 18 }

/-- The core after a taken branch or a jump to `t`, which costs two cycles and leaves the loops whose body does not hold `t` (R239). -/
def Core.jumped (old : Core) (srcs : List Nat) (rd t : Nat) (k : Core) : Core :=
  { k with
    cycles := old.begins srcs + 2
    ready := if rd = 0 then k.ready else k.ready.set rd (old.begins srcs + 1)
    loops := loopsAfterJump t k.loops
    pc := t }

/-- The engine `e` of the cluster `c`, which is `x`, has the command `k`, whose wait is granted, at the head of its queue, and nothing that
it started is outstanding; the cluster's context runs (R211, R220). -/
structure State.headAt (s : State) (c e : Nat) (k : ECmd) (x : Clu) : Prop where
  has : s.hasClu c = true
  here : s.clus[c]? = some x
  ok : x.ok
  active : s.active c = true
  queue : (x.q e).queue.head? = some k
  act : (x.q e).act = []
  granted : k.granted = true

/-- A cluster whose engine `e` has started the command at the head of its queue, on the arrays of a mask. -/
def Clu.started (e arrays : Nat) (k : ECmd) (x : Clu) : Clu :=
  { x with eng := x.eng.modify e fun q => { q with queue := q.queue.drop 1, act := q.act ++ [⟨k, false, [], arrays⟩] } }

/-- The engine `e` of the cluster `c`, which is `x`, runs the command `k` alone, with no remote operation; the context runs. -/
structure State.runs (s : State) (c e : Nat) (k : ECmd) (x : Clu) : Prop where
  has : s.hasClu c = true
  here : s.clus[c]? = some x
  ok : x.ok
  active : s.active c = true
  act : ∃ arrays, (x.q e).act = [⟨k, false, [], arrays⟩]

/-- A cluster whose engine `e` has finished the one command that it ran, and which the command's local signal has reached. -/
def Clu.finished (e c : Nat) (k : ECmd) (x : Clu) : Clu :=
  { x with
    eng := x.eng.modify e fun q => { q with act := [] }
    objs := if k.skind = 1 then x.objs.modify (k.sobj % 128) (fun y => { y with
        value := y.value + k.scnt, sigcnt := (y.sigcnt + 1) % 2 ^ 32, lastDev := 0x3FFF, lastClu := c })
      else x.objs }

/-- What a function reset and a controller disable do to `s` (R446): no command is in flight and none completes, no queue is left, every
running job is torn down, queued jobs, result sets and staged objects are gone; configuration, media, boot flash and hot set stay. -/
structure FunctionEnded (s t : State) : Prop where
  off : t.nvm.en = false ∧ t.nvm.rdy = false ∧ t.nvm.shst = 0
  queues : t.nvm.sqs = [] ∧ t.nvm.cqs = [] ∧ t.nvm.flights = []
  writes : t.hostWrites = s.hostWrites
  jobs : ∀ x ∈ t.parts, (∀ q ∈ x.queues, q = []) ∧ x.sel = none ∧ (∀ r, x.run = some r → r.clusters ≠ [] → r.teardown.isSome)
  sets : t.res = ⟨[], 1⟩
  staged : t.mgmt.fw = [] ∧ t.store.staged = [] ∧ t.store.installing = [] ∧ t.cfg.image = none ∧ t.cfg.commit = none
  conf : (∀ k, s.cfg.commit = some k → k.phase ≠ .durable) → t.cfg.conf = s.cfg.conf
  nss : t.nss = s.nss.map fun n => { n with gone := none }
  kept : t.store.objs = s.store.objs ∧ t.store.hot = s.store.hot ∧ t.media = s.media ∧ t.boot = s.boot ∧ t.sec = s.sec ∧ t.gen = s.gen ∧
    t.ras = s.ras ∧ t.mgmt.ps = s.mgmt.ps ∧ t.cad = s.cad ∧ t.cis = s.cis ∧ t.now = s.now

/-- What a controller reset of a kind does to `s` (R445, R447; Table 16.6): all that R446 says; a new start begins at step 1, or waits
while PERST# is low; every block that the reset reaches is at reset, with what is kept by history; the cadence tracker keeps its lock. -/
structure Restarted (kind : Nat) (s t : State) : Prop where
  start : t.boot.kind = kind ∧ (t.gen.perst = true → t.boot.phase = .held) ∧
    (t.gen.perst = false → t.boot.phase = .fill ∧ t.boot.t0 = s.now ∧ t.boot.milestone = 0 ∧ t.boot.ended = none)
  off : t.nvm.en = false ∧ t.nvm.rdy = false ∧ t.nvm.shst = 0 ∧ t.nvm.aqa = 0 ∧ t.nvm.link.up = false
  queues : t.nvm.sqs = [] ∧ t.nvm.cqs = [] ∧ t.nvm.flights = []
  writes : t.hostWrites = s.hostWrites
  parts : t.parts = List.replicate 8 Part.reset
  clus : t.clus = s.clus.mapIdx Clu.afterReset
  sets : t.res = ⟨[], 1⟩
  staged : t.mgmt.fw = [] ∧ t.store.staged = [] ∧ t.store.hot = [] ∧ t.cfg.image = none
  conf : (∀ k, s.cfg.commit = some k → k.phase ≠ .durable) → t.cfg.conf = s.cfg.conf
  ps : t.mgmt.ps = 0
  ports : t.lnk.ports = s.lnk.ports.map Port.afterReset
  cad : t.cad = { s.cad with frames := 0, viol := 0, frameViol := 0, loss := 0, surr := 0, reacq := 0, vstat := 0 }
  ras : t.ras.persist = s.ras.persist ∧ t.ras.promise = s.ras.promise &&& 0xFF ∧ t.ras.hdepth = 0
  resv : t.resv.mem = [] ∧ t.resv.stkLost = s.resv.stkLost ∧ t.resv.chRet = s.resv.chRet
  nss : (∀ u ∈ s.media.wb, u.posted = true) → t.nss = s.nss.map (fun n => { n with gone := none }) ∧ t.media.map = s.media.map ∧
    t.media.wb = s.media.wb
  kept : t.store.objs = s.store.objs ∧ t.boot.flash = s.boot.flash ∧ t.sec.minsvn = s.sec.minsvn ∧ t.sec.owner = s.sec.owner

/-- A start of `s` that has failed with a cause of Table 16.4 (R430, R440): FAILS and its total advance, the ledger's latest entry says
so, and a new start begins, or waits for PERST#. -/
structure StartFailed (cause : Nat) (s t : State) : Prop where
  fails : t.boot.fails = s.boot.fails + 1 ∧ t.boot.failTotal = s.boot.failTotal + 1
  entry : ∃ e l, t.boot.entries = e :: l ∧ e.outcome = 2 ∧ e.cause = cause
  again : t.boot.phase = if s.gen.perst then .held else .fill
  off : t.nvm.en = false ∧ t.nvm.rdy = false ∧ t.nvm.flights = [] ∧ t.nvm.link.up = false

/-- Trickle mode entered from `s` with a cause (R441, R442). -/
structure Trickled (cause : Nat) (s t : State) : Prop where
  phase : t.boot.phase = .trickle ∧ t.boot.tcause = cause ∧ t.upAt = s.now
  rdy : t.nvm.rdy = s.nvm.en
  link : t.nvm.link = ⟨true, 128, 8⟩

/-- Step 4 of a start (R429, R480), the firmware slot being that of `b`: an image that fails its checks leads to Trickle mode with their
cause, one that passes to step 5, with its version and locks in force and the wake-ups of step 6 asked for. -/
def SlotVerified (b : Boot) (s t : State) : Prop :=
  (∀ cause, firmwareCheck b.bytesAt s.sec = some cause → Trickled cause s t ∧ t.boot.fails = b.fails + 1 ∧
    ∃ e l, t.boot.entries = e :: l ∧ e.outcome = 2 ∧ e.cause = cause) ∧
  (firmwareCheck b.bytesAt s.sec = none → t.boot.phase = .replay ∧ t.boot.milestone = 5 ∧ t.boot.fails = b.fails ∧ t.upAt = s.now ∧
    t.nvm.link = ⟨true, 128, 8⟩ ∧ t.sec.svn = field (b.bytesAt 0 1024) 8 4 ∧ t.sec.keyidx = field (b.bytesAt 0 1024) 5 1 ∧
    (∃ e l, t.boot.entries = e :: l ∧ e.outcome = 0 ∧ e.imgId = slice (b.bytesAt 0 1024) 0x60 8) ∧
    ∀ n < s.variant.stackCount, n ∉ s.resv.stkLost →
      (∃ g ∈ t.pwr.surges, g.unit = .stack n) ∨ (∃ g ∈ t.pwr.grants, g.unit = .stack n))

/-- A dump has begun in `s` (R399, R412): commands are ended, clusters, ports and the host port stopped. -/
structure Dumping (thermal : Bool) (s t : State) : Prop where
  phase : t.boot.phase = .dump thermal
  off : t.nvm.en = false ∧ t.nvm.rdy = false ∧ t.nvm.link.up = false
  ended : t.nvm.flights = [] ∧ (∀ q ∈ t.nvm.sqs, q.unfetched = []) ∧ t.hostWrites = s.hostWrites
  stopped : t.parts = List.replicate 8 Part.reset ∧ t.clus = s.clus.mapIdx Clu.afterReset ∧
    t.lnk.ports = s.lnk.ports.map Port.afterReset
  kept : t.boot.flash = s.boot.flash ∧ t.cfg.conf = s.cfg.conf ∧ t.store.objs = s.store.objs ∧
    ((∀ u ∈ s.media.wb, u.posted = true) → t.nss = s.nss.map (fun n => { n with gone := none }) ∧ t.media.wb = s.media.wb)

/-- The host reaches every block of BAR2, and nothing follows of itself from the state (R7, R59, R429, R511). -/
structure State.opened (s : State) : Prop extends s.quiet where
  bus : s.onBus = true
  phase : s.boot.phase ≠ .trickle
  ps : s.mgmt.ps < 3

/-- The security state after a debug action that the level allows (R491): it is counted and extends MEAS4 by the 16 bytes of its event. -/
def Sec.acted (action unit off v : Nat) (x : Sec) : Sec :=
  { x with
    dbgCnt := sat32 x.dbgCnt
    meas := x.meas.modify 4 fun m => shake256 (m ++ shake256 (leBytes 4 action ++ leBytes 4 unit ++ leBytes 4 off ++ leBytes 4 v)) }

/-- The security state after a debug write that the level forbids (R491). -/
def Sec.turnedAway (x : Sec) : Sec := { x with denied := sat32 x.denied }

/-- The state `t` is `u`, but for what error records and asynchronous events write (R75, R466 to R469). -/
def Apart (u t : State) : Prop :=
  t = { u with
    ras := { u.ras with
      ring := t.ras.ring, head := t.ras.head, seqCount := t.ras.seqCount, cnt := t.ras.cnt, nested := t.ras.nested
      persist := t.ras.persist, alert := t.ras.alert }
    nvm := { u.nvm with events := t.nvm.events, masked := t.nvm.masked, aers := t.nvm.aers } }

/-- `t` is `u` once the period of `s` that has ended is measured (R395): the draw is a free value, at most what R397 allows, and at most
20 W above that of the period before unless the sled owned it. -/
def Measured (s u t : State) : Prop :=
  ∃ d, t = { u with
      free := s.free + 1
      pwr := { u.pwr with perDraw := some d } } ∧
    d ≤ s.mostPower true ∧ (s.inSlot = false → ∀ b, s.pwr.perDraw = some b → d ≤ b + 200)

/-- The error ring of `t` holds a record of a kind, class and instance (R466). -/
def Noted (t : State) (kind cls inst : Nat) : Prop := ∃ e ∈ t.ras.ring, e.kind = kind ∧ e.cls = cls ∧ e.inst = inst

/-- The outcome is `u`, with a record of a kind, class and instance. -/
def Reports (o : Host.Outcome State Fault Refusal) (u : State) (kind cls inst : Nat) : Prop :=
  ∃ t, o = .next t ∧ Apart u t ∧ Noted t kind cls inst

/-- The state `t` is `s`, but for the media and for what error records and asynchronous events write. -/
def MediaOnly (s t : State) : Prop :=
  Apart { s with
    media := t.media
    free := t.free
    gen := t.gen
    ras := { s.ras with promise := t.ras.promise } } t

/-- A fault of the management processor of class 3 in `s` (R473, R474): `u` holds its record, latched in RAS_FATAL and persisted, and a
controller reset of kind 5 follows, before ready a failed start of cause 07h. -/
def Escalates (o : Host.Outcome State Fault Refusal) (s : State) (kind : Nat) : Prop :=
  ∃ u t e, o = .next t ∧ u = { s with
      ras := u.ras
      nvm := u.nvm } ∧
    e ∈ u.ras.ring ∧ e.kind = kind ∧ e.cls = 3 ∧ e.action = 7 ∧ u.ras.fatal.head? = some e ∧ u.ras.escal = sat32 s.ras.escal ∧
    u.ras.promise = s.ras.promise ∧ u.ras.persist = (s.ras.persist ++ [e]).drop (s.ras.persist.length + 1 - 256) ∧
    t.ras.fatal = u.ras.fatal ∧ (s.boot.phase ≠ .replay → Restarted 5 u t) ∧ (s.boot.phase = .replay → StartFailed 7 u t)

/-- A message of this system to this sled, which reaches it over the path `p` from a device that it need not mark as congested (R371 to
R375). -/
structure State.linked (s : State) (m : Msg) (p : Path) : Prop extends s.quiet where
  on : s.portsOn = true
  sysid : m.sysid = BitVec.ofNat 64 s.cfg.conf.sysid
  dst : m.dst = s.cfg.conf.devnum
  paths : s.pathSet m.src ≠ []
  good : s.pathFor m.src m.flow = some p
  port : p.port < s.lnk.ports.length
  marks : m.ce = false ∧ m.ece = false ∧ (s.peerDev m.src).ece = false

/-- A message that a sled which is ready accepts as the next of its flow: the flow has delivered up to `g`, the sled's own next message on
it carries `n`, and none of its messages waits for an acknowledgement (R369, R374, R379). -/
structure State.hears (s : State) (m : Msg) (p : Path) (g n : Nat) : Prop extends s.linked m p where
  phase : s.boot.phase = .ready
  found : (s.peerDev m.src).lost = false
  flow : s.flowOf m.src m.flow = ⟨m.src, m.flow, n, [], (s.flowOf m.src m.flow).path, g⟩
  seq : m.seq = (g + 1) % 2 ^ 32
  kept : (m.src, m.jobtag, m.sgen) ∉ s.lnk.cancelled

/-- The message `m` has been accepted in `s`: the sled has put `out` on its links, the flow's messages are acknowledged up to `m`, the
other flows are as they were; all that changes otherwise is what `u` changes. -/
def Heard (o : Host.Outcome State Fault Refusal) (s : State) (m : Msg) (p : Path) (out : List Msg) (u : State) : Prop :=
  ∃ t, o = .next t ∧
    t = { u with
      lnk := { u.lnk with
        sent := s.lnk.sent ++ out, flows := t.lnk.flows, peers := t.lnk.peers, ports := t.lnk.ports } } ∧
    (t.flowOf m.src m.flow).got = m.seq ∧
    (∀ d f, (d, f) ≠ (m.src, m.flow) → t.flowOf d f = s.flowOf d f) ∧
    (∀ d, d ≠ m.src → t.peerDev d = s.peerDev d) ∧ (t.peerDev m.src).lost = false ∧
    (t.port p.port).rx = (s.port p.port).rx + m.payload.length ∧
    ∀ n, n ≠ p.port → t.port n = s.port n

/-- The message with which the sled answers `m` on its flow (R373, R374): a type, with what `m` names. -/
def State.reply (s : State) (m : Msg) (typ n : Nat) : Msg :=
  { s.msg typ m.src m.flow with
    jobtag := m.jobtag
    opid := m.opid
    seq := n
    ack := m.seq }

/-- The acknowledgement of `m` without payload (R374). -/
def State.acks (s : State) (m : Msg) : Msg := { s.msg 4 m.src m.flow with ack := m.seq }

/-- The sled takes the admin command `c` next (R44: no PSDT, no fused flag). -/
def AdminTurn (s : State) (q : Sq) (k : Cq) (c : Cmd) : Prop := s.takes q k ∧ q.id = 0 ∧ c.flags = 0

/-- The sled takes the I/O command `c` next, from its queue. -/
def IoTurn (s : State) (q : Sq) (k : Cq) (c : Cmd) : Prop := s.takes q k ∧ q.id ≠ 0 ∧ c.sqid = q.id

end Sys2Proof.Machine
end

