-- ==== Sys2Proof/Certificates/Slice0/Obligations.lean ====
section
/-! DEFINITION. What the model is to satisfy, in the terms of the machine. Each statement's docstring gives what it says; its
sources in the spec stand in OBLIGATIONS.json. -/

open Sys2Proof Sys2Proof.Machine

/-- For every command, every rest of the queue and every state, the step of the state whose queue is that command and that rest is
exec of the command on the state whose queue is the rest. -/
def Obligations.StepRunsCommandAtFront : Prop :=
  ∀ (c : Instr) (rest : List Instr) (s : State), step { s with pending := c :: rest } = exec c { s with pending := rest }

/-- With no command waiting a step answers a next state one microsecond later. The cycle counters of the control cores that run
and of the running jobs advance by the clock; the input power, the latch contacts and the corrected codewords are measured (log
55); nothing else changes. On a powered sled the measured input voltage is the input's; the draw moves by at most 50 W; its 1 s
average keeps to the ceiling, and its 100 µs average exceeds it by at most 150 W, on the cadence, for at most 10 ms, and not
within 40 ms of the excursion before. That a step on an empty queue is a microsecond is the model's choice (log 8). -/
def Obligations.IdleStepPassesMicrosecond : Prop :=
  ∀ s : State, s.pending = [] → ∃ t, step s = .next t ∧
    t = { s with
      now := s.now + 1
      free := t.free
      clus := s.clus.map (tickClu s.clock)
      parts := s.parts.map (tickPart s.clock)
      pwr := { s.pwr with
        vin := t.pwr.vin, pin := t.pwr.pin, pin100 := t.pwr.pin100, pin1 := t.pwr.pin1, exc := t.pwr.exc, beyond := t.pwr.beyond
        quiet := t.pwr.quiet }
      gen := { s.gen with latchOpen := t.gen.latchOpen }
      lnk := { s.lnk with ports := t.lnk.ports } } ∧
    (s.powered = false → t.pwr = s.pwr ∧ t.gen = s.gen ∧ t.lnk = s.lnk) ∧
    (s.powered = true → t.pwr.vin = s.pwr.input ∧ t.pwr.pin ≤ s.pwr.pin + 500 ∧ s.pwr.pin ≤ t.pwr.pin + 500 ∧
      10 * t.pwr.pin1 ≤ s.mostPower false ∧ t.pwr.pin100 ≤ s.mostPower true ∧
      (s.mostPower false < t.pwr.pin100 → s.cad.src ≠ 0 ∧ s.pwr.beyond < 10000 ∧ (s.pwr.beyond = 0 → 40000 ≤ s.pwr.quiet))) ∧
    (∀ i, (t.lnk.ports.getD i Port.reset) = { s.lnk.ports.getD i Port.reset with fecCorr := (t.lnk.ports.getD i Port.reset).fecCorr })

/-- If a state has canonical memories, 32 clusters with register files of the sizes the spec gives, 8 partitions and legal power
states, then so has every next state that a step answers. -/
def Obligations.StepKeepsStateOk : Prop :=
  ∀ s t : State, s.ok → step s = .next t → t.ok

/-- State.reset meets State.ok; no command waits or is in flight, no partition has a job. -/
def Obligations.ResetStateOkAndQuiet : Prop :=
  State.reset.ok ∧ State.reset.quiet ∧ State.reset.pending = []

/-- In a state in which no command is in flight and no entry waits in a submission queue, no publish waits, no partition selects a
job and no escalation is latched, what follows of itself changes nothing. The operation settle, which every command's meaning ends
with, is then the identity. -/
def Obligations.SettleLeavesQuietState : Prop :=
  ∀ s : State, s.quiet → settle s = s

/-- The sled takes the command next from the admin queue. Identify with CNS 01h completes with success after the Identify
Controller structure has been written to the buffer; CNS 00h gives that of an attached namespace, 02h, 10h and 13h their lists,
and an unknown CNS completes with Invalid Field in Command. Get Log Page of a page that the sled supports completes with the bytes
asked for, zero past the end of the page; a read that starts beyond its last byte completes with Invalid Field in Command, a page
that is not supported with Invalid Log Page. Nothing else changes, but that with Retain Asynchronous Event clear the page's event
is no longer masked. The positions of the standard's fields and lists are the model's (log 27). -/
def Obligations.IdentifyAndLogPagesReturnTheirData : Prop :=
  ∀ (s : State) (q : Sq) (k : Cq) (c : Cmd), AdminTurn s q k c →
    (bits c.cdw10.toNat 7 0 = 0x01 →
      Completes (exec (.identify c) s) s q k c.cid .success 0 0 [.data 0 c.cid 0 s.nvm.pci.relaxed (identifyController s)] s) ∧
    (∀ n, bits c.cdw10.toNat 7 0 = 0x00 → s.nss.find? (fun n => n.id == c.nsid) = some n → n.attached = true →
      1 ≤ c.nsid → c.nsid ≤ 128 →
      Completes (exec (.identify c) s) s q k c.cid .success 0 0 [.data 0 c.cid 0 s.nvm.pci.relaxed (identifyNamespace (some n) s)] s) ∧
    (bits c.cdw10.toNat 7 0 = 0x02 → c.nsid < 0xFFFFFFFE →
      Completes (exec (.identify c) s) s q k c.cid .success 0 0
        [.data 0 c.cid 0 s.nvm.pci.relaxed (nsList c.nsid ((s.nss.filter (·.attached)).map (·.id)))] s) ∧
    (bits c.cdw10.toNat 7 0 = 0x10 → c.nsid < 0xFFFFFFFE →
      Completes (exec (.identify c) s) s q k c.cid .success 0 0 [.data 0 c.cid 0 s.nvm.pci.relaxed (nsList c.nsid (s.nss.map (·.id)))] s) ∧
    (bits c.cdw10.toNat 7 0 = 0x13 →
      Completes (exec (.identify c) s) s q k c.cid .success 0 0
        [.data 0 c.cid 0 s.nvm.pci.relaxed (controllerListOf true (bits c.cdw10.toNat 31 16))] s) ∧
    (bits c.cdw10.toNat 7 0 ∉ [0x00, 0x01, 0x02, 0x03, 0x10, 0x11, 0x12, 0x13] →
      Completes (exec (.identify c) s) s q k c.cid .invalidField 0 0 [] s) ∧
    (∀ b n off, logPage (bits c.cdw10.toNat 7 0) s = some b →
      n = (bits c.cdw10.toNat 31 16 + bits c.cdw11.toNat 15 0 * 65536 + 1) * 4 → off = c.cdw12.toNat + c.cdw13.toNat * 2 ^ 32 →
      off % 4 = 0 → off < b.length →
      Completes (exec (.getLogPage c) s) s q k c.cid .success 0 0 [.data 0 c.cid 0 s.nvm.pci.relaxed (slice b off n)]
        (if bit c.cdw10.toNat 15 then s
        else s.modNvm fun x => { x with masked := x.masked.filter fun p => p != bits c.cdw10.toNat 7 0 })) ∧
    (∀ b, logPage (bits c.cdw10.toNat 7 0) s = some b → b.length ≤ c.cdw12.toNat + c.cdw13.toNat * 2 ^ 32 →
      Completes (exec (.getLogPage c) s) s q k c.cid .invalidField 0 0 [] s) ∧
    (logPage (bits c.cdw10.toNat 7 0) s = none →
      Completes (exec (.getLogPage c) s) s q k c.cid .invalidLogPage 0 0 [] s)

/-- The sled takes the command next from the admin queue. Get Features of a supported feature completes with its current, default or
saved value, or tells for which features Save is supported. A feature that is not supported completes with Invalid Field in
Command, and Save of one that cannot be saved with Feature Identifier Not Saveable. Set Features of Arbitration and of Vendor Event
Enable, and of the other features that only hold a value, set that value, and the saved value too with Save. A threshold set below
the temperature raises the SMART event. The Arbitration Burst in force is 2 to the power of its field, with values above 6 acting
as 6. The Timestamp is taken from the data. Nothing else changes. The defaults, but for Vendor Event Enable, and the positions of
the standard's fields are the model's (logs 20, 27, 94). -/
def Obligations.FeaturesAreReadAndSet : Prop :=
  ∀ (s : State) (q : Sq) (k : Cq) (c : Cmd), AdminTurn s q k c →
    (∀ fid v, fid = bits c.cdw10.toNat 7 0 → fid ∈ featIds → fid ≠ 0x0E →
      (bits c.cdw10.toNat 10 8 = 0 ∧ v = s.featNow fid c.cdw11.toNat ∨ bits c.cdw10.toNat 10 8 = 1 ∧ v = featDefault fid ∨
        bits c.cdw10.toNat 10 8 = 2 ∧ v = s.featSaved fid c.cdw11.toNat) →
      Completes (exec (.getFeatures c) s) s q k c.cid .success (if fid = 0x04 then v % 65536 else v) 0 [] s) ∧
    (bits c.cdw10.toNat 7 0 = 0x0E → bits c.cdw10.toNat 10 8 = 0 →
      Completes (exec (.getFeatures c) s) s q k c.cid .success 0 0 [.data 0 c.cid 0 s.nvm.pci.relaxed (stampData s)] s) ∧
    (∀ fid, fid = bits c.cdw10.toNat 7 0 → fid ∈ featIds → bits c.cdw10.toNat 10 8 = 3 →
      Completes (exec (.getFeatures c) s) s q k c.cid .success (4 + if fid ∈ [0x01, 0x02, 0x0B] then 1 else 0) 0 [] s) ∧
    (bits c.cdw10.toNat 7 0 ∉ featIds →
      Completes (exec (.getFeatures c) s) s q k c.cid .invalidField 0 0 [] s ∧
      Completes (exec (.setFeatures c) s) s q k c.cid .invalidField 0 0 [] s) ∧
    (∀ fid dw u, fid = bits c.cdw10.toNat 7 0 → dw = c.cdw11.toNat → fid ∈ featIds → fid ≠ 0x02 → fid ≠ 0x0E →
      (fid = 0x09 → bits dw 15 0 ≤ 1024) → bit c.cdw10.toNat 31 = false →
      u = (s.modNvm fun n => { n with feats := setPair (featKey fid dw) dw n.feats }) →
      Completes (exec (.setFeatures c) s) s q k c.cid .success 0 0 []
        (if fid = 0x04 ∧ u.tempOut = true ∧ s.tempOut = false then smartEvent 1 u else u)) ∧
    (∀ fid dw, fid = bits c.cdw10.toNat 7 0 → dw = c.cdw11.toNat → fid = 0x01 ∨ fid = 0x0B → bit c.cdw10.toNat 31 = true →
      Completes (exec (.setFeatures c) s) s q k c.cid .success 0 0 []
        (s.modNvm fun n => { n with feats := setPair fid dw n.feats, saved := setPair fid dw n.saved })) ∧
    (∀ fid, fid = bits c.cdw10.toNat 7 0 → fid ∈ featIds → fid ∉ [0x01, 0x02, 0x0B] → bit c.cdw10.toNat 31 = true →
      Completes (exec (.setFeatures c) s) s q k c.cid .notSaveable 0 0 [] s) ∧
    (bit c.cdw10.toNat 31 = false →
      Completes (exec (.setFeaturesArbitration c) s) s q k c.cid .success 0 0 []
        (s.modNvm fun n => { n with feats := setPair 0x07 c.cdw11.toNat n.feats }) ∧
      (s.modNvm fun n => { n with feats := setPair 0x07 c.cdw11.toNat n.feats }).burstLimit =
        2 ^ (if bits c.cdw11.toNat 2 0 ≤ 6 then bits c.cdw11.toNat 2 0 else 6) ∧
      Completes (exec (.setFeaturesVendorEventEnable c) s) s q k c.cid .success 0 0 []
        (s.modNvm fun n => { n with feats := setPair 0xC0 c.cdw11.toNat n.feats }) ∧
      Completes (exec (.setFeaturesTimestamp c) s) s q k c.cid .success 0 0 []
        ((countOff (field c.data 0 6) s).modNvm fun n => { n with tsSet := true, tsBase := field c.data 0 6, tsAt := s.now }))

/-- Nothing follows of itself from the state. A job boundary without a queued job ends the clear, after the substitutions that are
due: A16 for an array, the spare cluster for a cluster, which is lost when the spare is spent. A wait for quiescence that runs out
completes the job with Program Busy. A load that ends makes its model resident, with the units that could not be read poisoned. A batch step advances every active sequence,
charges exactly its cycles, and starts the next step with its limit. A watchdog or a hang tears the job or the batch down with Job
Watchdog, with a record of kind 0Ah or 09h. The end of a teardown clears the contexts, each CTXGEN advanced once, and completes
the command with the status of its cause. The end of a partition reset completes the job with Internal Error and empties the
queues. A staged frame lies in its slot and signals object 127. -/
def Obligations.JobEventsEndAndContinueJobs : Prop :=
  ∀ (s : State) (p : Nat), p < 8 → s.parts.length = 8 → s.mgmt.ps < 3 →
    (∀ x, s.quiet → x = s.part p → x.run = none → x.batch = none → x.resetting = false → x.clearing = true →
        (∀ q ∈ x.queues, q = []) → x.sel = none →
      ((∀ c ∈ s.clustersOf p, (s.clu c).cluFail = false ∧ (s.clu c).failPend = []) →
        exec (.jobBoundary p) s = .next (modPart p (fun x => { x with clearing := false }) s)) ∧
      (∀ c a l, s.clustersOf p = [c] → c < s.clus.length → (s.clu c).cluFail = false → (s.clu c).failPend = a :: l →
        ∃ t, exec (.jobBoundary p) s = .next t ∧ t.part p = { x with clearing := false } ∧
          t.clu c = { s.clu c with afailed := a, failPend := [] } ∧ bit t.ras.promise 2 = true) ∧
      (∀ c, s.clustersOf p = [c] → c < s.clus.length → (s.clu c).cluFail = true →
        ((∀ y ∈ s.clus, y.spare = true → y.die ≠ (s.clu c).die) → ∃ t, exec (.jobBoundary p) s = .next t ∧
          t.clu c = { s.clu c with cluFail := false, failPend := [], afailed := 31, spare := true, phys := 16 } ∧
          bit t.ras.promise (s.clu c).die = true) ∧
        (∀ y ∈ s.clus, y.spare = true → y.die = (s.clu c).die → ∃ t, exec (.jobBoundary p) s = .next t ∧
          t.clu c = { s.clu c with cluFail := false, failPend := [], lost := true } ∧ t.gen.lost = true))) ∧
    (∀ q k f j u, s.carries q k f → (s.part p).idle = true → j.kind = .command → j.sqid = f.sqid → j.cid = f.cid → j.part = p →
      j.opc ≠ 0xA0 → (∃ c ∈ s.clustersOf p, (s.clu c).reloadWait = true) → (∀ c ∈ s.clustersOf p, c < s.clus.length) →
      u = modPart p (fun x => { x with sel := some j }) s →
      ∃ v, Finishes (exec (.quiescenceWaitTimeout p) u) u q k f .programBusy 0 0 [] v ∧ (v.part p).sel = none ∧
        (∀ c ∈ s.clustersOf p, (v.clu c).reloadWait = false ∧ (v.clu c).imgen = (s.clu c).imgen) ∧ v.nss = s.nss ∧ v.cfg = s.cfg) ∧
    (∀ m h, s.quiet → s.hot? m = some h → h.loading = true → s.store.loadQ = [] →
      ∃ t, exec (.modelLoadDone m) s = .next t ∧
        t.store = { s.store with hot := s.store.hot.map fun x => if x.id == m then { x with loading := false } else x } ∧
        t.clus = s.clus ∧ t.nss = s.nss ∧ t.parts = s.parts ∧
        ∀ u, s.resv.units.find? (fun u => u.cls == 3 && u.key == m) = some u → ∀ k, (m, k) ∈ s.store.lost → k * 4096 < u.bytes → ∀ i < 64,
          poolBase u.order / 64 + 64 * k + i ∈ t.resv.poison) ∧
    (∀ m, s.quiet → (∀ h, s.hot? m = some h → h.loading = false) → exec (.modelLoadDone m) s = .next s) ∧
    (∀ b, s.quiet → (s.part p).batch = some b → b.teardown = none → b.closed = true → b.members ≠ [] →
      (∀ c ∈ b.clusters, (s.clu c).gen = (s.clu c).imgen) → s.weightHurt b.clusters b.model b.copy = false →
      (∀ m ∈ b.members, m.waiting = [] ∧ m.done = [] ∧ m.poison = [] ∧ m.wrote = 0 ∧ m.leaving = none ∧ m.job.jq < 16 ∧ m.job.part = p ∧
        ∃ x ∈ b.active, (x.sqid, x.cid) = (m.job.sqid, m.job.cid)) →
      (∀ x ∈ afterStep (batchModel b) b.active, x.left ≠ 0) → (s.part p).charged.length = 16 →
      ∃ t, exec (.batchStepBoundary p) s = .next t ∧ (t.part p).batch = some { b with
          active := afterStep (batchModel b) b.active
          cycles := 0
          limit := stepLimit (batchModel b) b.clusters.length (afterStep (batchModel b) b.active) } ∧
        ((b.members.map fun m => (m.job.sqid, m.job.cid)).Nodup → (t.part p).charged.sum = (s.part p).charged.sum + b.cycles)) ∧
    (∀ r, s.quiet → (s.part p).run = some r → (s.part p).batch = none → r.teardown = none → (s.part p).resetting = false →
        r.clusters ≠ [] →
      (∃ t, exec (.jobWatchdog p) s = .next t ∧
        (t.part p).run = some { r with cycles := max r.cycles r.limit, teardown := some .jobWatchdog, tdAt := s.now } ∧
        (t.part p).cnt.watchdog = (s.part p).cnt.watchdog + 1 ∧ (∀ c ∈ r.clusters, c < s.clus.length → (t.clu c).core.st = .stopped) ∧
        ∃ e ∈ t.ras.ring, e.kind = 0xA ∧ e.cls = 2 ∧ e.action = 5 ∧ e.part = p) ∧
      (∀ c, s.jobPart c = some p → s.mayHang c = true → c < s.variant.clusters → ∃ t, exec (.controlCoreHang c) s = .next t ∧
        (t.part p).run = some { r with teardown := some .jobWatchdog, tdAt := s.now } ∧
        ∃ e ∈ t.ras.ring, e.kind = 9 ∧ e.cls = 2 ∧ e.inst = c ∧ e.part = p)) ∧
    (∀ r st, s.quiet → (s.part p).run = some r → r.teardown = some st → exec (.jobWatchdog p) s = .next s) ∧
    (∀ b, s.quiet → (s.part p).run = none → (s.part p).batch = some b → b.teardown = none → (s.part p).resetting = false →
      b.clusters ≠ [] → ∃ t, exec (.stepWatchdog p) s = .next t ∧
        (t.part p).batch = some { b with cycles := max b.cycles b.limit, teardown := some .jobWatchdog } ∧
        ∃ e ∈ t.ras.ring, e.kind = 0xA ∧ e.cls = 2 ∧ e.part = p) ∧
    (∀ q k f r st, s.carries q k f → st ≠ .cidConflict → (s.part p).run = some r → r.teardown = some st →
      (s.part p).resetting = false → r.job.kind = .command → r.job.sqid = f.sqid → r.job.cid = f.cid → r.job.models = [] → r.clusters.Nodup →
      (∀ c ∈ r.clusters, c < s.clus.length) →
      ((∀ c ∈ r.clusters, s.drained c = true) → ∃ u,
        Finishes (exec (.teardownEnd p) s) s q k f st (tornDwords r st).1 (tornDwords r st).2 [] u ∧
        (u.part p).run = none ∧ (u.part p).clearing = true ∧ (u.part p).charged = (s.part p).charged.modify r.job.jq (· + r.cycles) ∧
        (∀ c ∈ r.clusters, (u.clu c).run = false ∧ (u.clu c).tile = [] ∧ (u.clu c).ctxgen = ((s.clu c).ctxgen + 1) % 256 ∧
          ∀ o ∈ (u.clu c).objs, o.value = 0) ∧
        (∀ c, c ∉ r.clusters → u.clu c = s.clu c) ∧ u.nss = s.nss ∧ u.cfg = s.cfg)) ∧
    (∀ r st, s.quiet → (s.part p).run = some r → r.teardown = some st → (∃ c ∈ r.clusters, s.drained c = false) →
      exec (.teardownEnd p) s = .next s) ∧
    (∀ q k f r, s.carries q k f → s.nvm.aers = [] → (s.part p).run = some r → (s.part p).batch = none → (s.part p).resetting = true →
      (∀ x ∈ (s.part p).queues, x = []) → (s.part p).sel = none → r.job.kind = .command → r.job.sqid = f.sqid → r.job.cid = f.cid →
      r.job.models = [] → ∃ u, Finishes (exec (.partitionResetEnd p []) s) s q k f .internalError 0 0 [] u ∧
        (u.part p).run = none ∧ (u.part p).resetting = false ∧ (u.part p).clearing = true ∧
        (u.part p).queues = List.replicate 16 [] ∧ u.nss = s.nss ∧ u.cfg = s.cfg) ∧
    (∀ c no r g, s.quiet → s.hasClu c = true → c < s.clus.length → s.jobPart c = some p → s.active c = true →
      (s.clu c).objs.length = 128 → Mem.wf 0 (s.clu c).ring.mem → (s.clu c).ring.dealt[(s.clu c).ring.staged]? = some no → (s.part p).run = some r →
      (s.clu c).ring.staged < s.variant.stSlots ∨ (s.clu c).ring.staged - s.variant.stSlots ∈ (s.clu c).ring.released →
      g = (s.clu c).ring.staged % s.variant.stSlots → ((s.clu c).obj 127).value < 0xFFFFFFFF →
      ∃ t, exec (.frameStaged c) s = .next t ∧ (t.clu c).ring.staged = (s.clu c).ring.staged + 1 ∧
        Mem.read 0 (t.clu c).ring.mem (g * 65536) 65536 = (s.frame r.job.cmd.nsid no).bytes 0 65536 ∧
        ((t.clu c).obj 127).value = ((s.clu c).obj 127).value + 1 ∧ (t.clu c).tile = (s.clu c).tile ∧
        (∀ x ∈ (s.frame r.job.cmd.nsid no).bad, x + g * 1024 ∈ (t.clu c).ring.pois)) ∧
    (∀ n, 8 ≤ n → ∀ i, i ∈ [Instr.jobBoundary n, .quiescenceWaitTimeout n, .batchStepBoundary n, .jobWatchdog n, .stepWatchdog n,
      .teardownEnd n, .partitionResetEnd n []] → exec i s = .fault .absentUnit)

/-- Nothing follows of itself from the state, and the flash-management cores run. A unit read at a step of the ladder leaves the
map as it is; at step 8 it is rewritten, at a place that is left open, and every read of a die that has failed needs step 8; a unit
lost gets BAD, and nothing else of the map changes. A
page that needed step 8 retires its block. A program into a die set with at least 3 free superblocks that passed confirms its unit
there and takes it out of the buffer; one that failed retires the block and leaves map and buffer. An erase, whose group holds its
grant, frees a superblock whose valid units have gone and adds wear units; without the grant, or with a valid unit, it does nothing.
A move empties only a marked superblock or a victim, and with 12 free superblocks in its die set no victim is chosen; it is applied
only while the entry names its source, and only into a QLC place that can be programmed. A die that fails is marked and rebuilt; the rebuild leaves the units of other die sets where they were. A confirmed map page is
clean and in the directory. A checkpoint ends what replay needs. AGEUNK is set when no Timestamp came. None of them changes
anything but the media, error records and events. -/
def Obligations.MediaEventsKeepTheMapTrue : Prop :=
  ∀ s : State, s.quiet → s.mediaOn = true →
    (∀ l k us, s.media.failed.contains (l.ch, l.die) = true → k ≤ 8 →
      exec (.flashPageReadDone l [k] us) s = exec (.flashPageReadDone l [8] us) s ∧
      exec (.mediaPatrolRead l [k] true) s = exec (.mediaPatrolRead l [8] true) s) ∧
    (∀ l k us, s.hasPlace l = true → l.unit = 0 → s.media.failed.contains (l.ch, l.die) = false → k ≤ 7 →
      ∃ t, exec (.flashPageReadDone l [k] us) s = .next t ∧ MediaOnly s t ∧
      t.media.map = s.media.map ∧ t.media.wb = s.media.wb ∧ t.media.retired = s.media.retired ∧
      t.media.hist = s.media.hist.modify k (· + 1) ∧ t.ras.promise = s.ras.promise ∧ (0 < k → Noted t 0x10 0 l.ch)) ∧
    (∀ l e us, s.hasPlace l = true → l.unit = 0 → s.media.map.find? (fun x => x.loc == l && !x.bad) = some e →
        s.media.failed.contains (l.ch, l.die) = false → s.media.rebuilding = [] →
      (∃ t, exec (.flashPageReadDone l [8] us) s = .next t ∧ MediaOnly s t ∧
        (∃ l', t.entry? e.nsid e.lba = some { e with loc := l' }) ∧
        (∀ a b, (a, b) ≠ (e.nsid, e.lba) → t.entry? a b = s.entry? a b) ∧
        ∃ r ∈ t.media.retired, r.ch = l.ch ∧ r.die = l.die ∧ r.plane = l.plane ∧ r.block = l.block) ∧
      (∃ t, exec (.flashPageReadDone l [9] us) s = .next t ∧ MediaOnly s t ∧
        t.entry? e.nsid e.lba = some { e with bad := true } ∧ t.media.lost = s.media.lost + 1 ∧
        (∀ a b, (a, b) ≠ (e.nsid, e.lba) → t.entry? a b = s.entry? a b) ∧
        ∃ r ∈ t.media.retired, r.ch = l.ch ∧ r.die = l.die ∧ r.plane = l.plane ∧ r.block = l.block)) ∧
    (∀ l n b, s.hasPlace l = true → s.cis.test = none → s.media.rebuilding = [] →
        s.media.wb.any (fun u => u.nsid == n && u.lba == b) = true → s.programmable l = true → l.slc = decide (s.slcHeld < s.slcTarget) →
        3 ≤ s.freeSbs (dieSetOf s.variant l) →
      (∃ t, exec (.flashProgramDone l n b true) s = .next t ∧ MediaOnly s t ∧ t.entry? n b = some ⟨n, b, false, l⟩ ∧
        t.media.wb = s.media.wb.filter (fun u => !(u.nsid == n && u.lba == b)) ∧
        ∀ x y, (x, y) ≠ (n, b) → t.entry? x y = s.entry? x y) ∧
      (∃ t, exec (.flashProgramDone l n b false) s = .next t ∧ MediaOnly s t ∧ t.media.map = s.media.map ∧ t.media.wb = s.media.wb ∧
        (∃ r ∈ t.media.retired, r.ch = l.ch ∧ r.die = l.die ∧ r.plane = l.plane ∧ r.block = l.block) ∧
        ((l.ch, l.die) ∈ t.media.failed ∨ t.media.spareUsed = s.media.spareUsed + 1) ∧
        ∀ x ∈ t.media.sbs, x.set = dieSetOf s.variant l → x.block = l.block → x.reloc = true)) ∧
    (∀ l n b o, s.hasPlace l = true → s.media.wb.any (fun u => u.nsid == n && u.lba == b) = false ∨ s.programmable l = false ∨
        s.freeSbs (dieSetOf s.variant l) < 3 →
      exec (.flashProgramDone l n b o) s = .next s) ∧
    (∀ d b slc, d < s.variant.dieSets → 1 ≤ b → b ≤ 1820 →
      ((∃ e ∈ s.media.map, e.bad = false ∧ s.inSb d b e.loc = true) ∨ (∀ g ∈ s.pwr.grants, g.unit ≠ eraseGroupOf d) →
        ∀ o, exec (.flashEraseDone d b o slc) s = .next s) ∧
      (∀ x u, s.media.sbs.find? (fun x => x.set == d && x.block == b) = some x → s.erasing d b = true →
          u = { s with pwr := { s.pwr with
            grants := s.pwr.grants.map fun g => if g.unit = eraseGroupOf d then { g with idle := 0 } else g } } →
        (∃ t, exec (.flashEraseDone d b true slc) s = .next t ∧ MediaOnly u t ∧ t.media.map = s.media.map ∧
          t.media.sbs = s.media.sbs.filter (fun x => !(x.set == d && x.block == b)) ∧
          (∀ w, s.media.wear.find? (fun x => x.1 == d && x.2.1 == b) = some (d, b, w) →
            (d, b, w + (if x.slc then 3 else 20)) ∈ t.media.wear)) ∧
        (s.media.rebuilding = [] → ∃ t, exec (.flashEraseDone d b false slc) s = .next t ∧ MediaOnly u t ∧
          t.media.map = s.media.map ∧ t.media.wear = s.media.wear ∧ t.free = s.free + 1))) ∧
    (∀ c d, s.hasDie c d = true →
      ((c, d) ∈ s.media.failed → exec (.dieStatusPollTimeout c d) s = .next s) ∧
      ((c, d) ∉ s.media.failed → s.media.rebuilding = [] → ∃ t, exec (.dieStatusPollTimeout c d) s = .next t ∧ MediaOnly s t ∧
        t.media.failed = s.media.failed ++ [(c, d)] ∧ t.media.rebuilding = [(c, d)] ∧ t.media.map = s.media.map ∧
        bit t.ras.promise 5 = true ∧
        ∀ x ∈ t.media.sbs, x.set = dieSetOf s.variant ⟨c, d, 0, 0, 0, 0, false⟩ → x.reloc = true) ∧
      ((c, d) ∉ s.media.rebuilding → exec (.dieRebuildDone c d) s = .next s) ∧
      ((c, d) ∈ s.media.rebuilding → ∃ t, exec (.dieRebuildDone c d) s = .next t ∧ MediaOnly s t ∧
        t.media.rebuilding = s.media.rebuilding.filter (· != (c, d)) ∧ t.media.failed = s.media.failed ∧
        (t.media.rebuilding = [] → s.spareLeft ≠ 0 → bit t.ras.promise 5 = false) ∧
        ∀ a b, (∀ e ∈ s.media.map, e.nsid = a → e.lba = b → e.bad = true ∨ s.countsOn c d e.loc = false) → t.entry? a b = s.entry? a b)) ∧
    (∀ n b a l, s.hasPlace a = true → s.hasPlace l = true →
      (s.programmable l = false ∨ l.slc = true → exec (.gcMove n b a l) s = .next s ∧ exec (.fold n b l) s = .next s) ∧
      (s.gcMoves a l = false → exec (.gcMove n b a l) s = .next s) ∧
      (∀ x, s.sbOf a = some x → x.refresh = false → x.reloc = false → (∀ v ∈ s.media.victims, v.1 ≠ x.set) → 12 ≤ s.freeSbs x.set →
        exec (.gcMove n b a l) s = .next s) ∧
      ((∀ e, s.entry? n b = some e → s.foldMoves e l = false) → exec (.fold n b l) s = .next s) ∧
      (s.gcMoves a l = true → (∀ e, s.entry? n b = some e → e.loc ≠ a ∨ e.bad = true) →
        ∃ t, exec (.gcMove n b a l) s = .next t ∧ MediaOnly s t ∧ t.media.map = s.media.map ∧
          t.media.journal = s.media.journal + 1) ∧
      (∀ e, s.entry? n b = some e → e.bad = false →
        (s.gcMoves a l = true → e.loc = a → ∃ t, exec (.gcMove n b a l) s = .next t ∧ MediaOnly s t ∧
          t.entry? n b = some { e with loc := l } ∧ ∀ x y, (x, y) ≠ (n, b) → t.entry? x y = s.entry? x y) ∧
        (s.foldMoves e l = true → ∃ t, exec (.fold n b l) s = .next t ∧ MediaOnly s t ∧
          t.entry? n b = some { e with loc := l } ∧ ∀ x y, (x, y) ≠ (n, b) → t.entry? x y = s.entry? x y))) ∧
    (∀ l p, s.hasPlace l = true → l.unit = 0 →
      (s.media.scrubEn = false → exec (.mediaPatrolRead l [0] p) s = .next s) ∧
      (s.media.scrubEn = true → s.media.failed.contains (l.ch, l.die) = false →
        ∃ t, exec (.mediaPatrolRead l [0] p) s = .next t ∧ MediaOnly s t ∧ t.media.map = s.media.map ∧
        t.media.scrubAt = (if p then s.now else s.media.scrubAt) ∧ (p = true → bit t.ras.promise 10 = false) ∧
        ∀ x ∈ t.media.sbs, x.set = dieSetOf s.variant l → x.block = l.block → x.scrubbed = s.now ∧ (x.old = true → x.refresh = true))) ∧
    exec .directoryCheckpoint s = .next (s.modMedia fun m => { m with
      sinceCkpt := 0
      undo := [] }) ∧
    (∀ p l, s.hasPlace l = true →
      (p ∉ s.media.dirty ∨ s.programmable l = false ∨ l.slc = true → exec (.mapPageConfirmed p l) s = .next s) ∧
      (p ∈ s.media.dirty → s.programmable l = true → l.slc = false → l.unit = 0 → ∃ t, exec (.mapPageConfirmed p l) s = .next t ∧ t = { s with media := t.media } ∧ p ∉ t.media.dirty ∧
        (p, l) ∈ t.media.directory ∧ (∀ l', (p, l') ∈ t.media.directory → l' = l) ∧ t.media.map = s.media.map)) ∧
    (s.boot.phase = .ready → s.nvm.tsSet = false → exec .timestampTimeout s = .next (s.modMedia fun m => { m with ageUnk := true })) ∧
    (s.nvm.tsSet = true → exec .timestampTimeout s = .next s) ∧
    (∀ l l' n b p x, s.hasPlace l = false → ∀ i, i ∈ [Instr.flashPageReadDone l x p, .flashProgramDone l n b true, .gcMove n b l l',
      .fold n b l, .mediaPatrolRead l x true, .mapPageConfirmed p l] → exec i s = .fault .absentUnit) ∧
    (∀ c d o x, s.hasDie c d = false → exec (.dieStatusPollTimeout c d) s = .fault .absentUnit ∧
      exec (.dieRebuildDone c d) s = .fault .absentUnit ∧ exec (.flashEraseDone s.variant.dieSets c o x) s = .fault .absentUnit)

/-- Nothing follows of itself from the state. The second correction in a row of a bank remaps it; without a spare row the bank's
promise is lost. An error beyond the code poisons its granule of the Reservoir, which the reading cluster counts, or of tile
memory, with free contents. A late read is reissued; one that is not delivered goes as Table 11.5 says, and its channel gets a
spare lane or is retired. A location of a control memory is rewritten, the job that holds it ends with Internal Error, and an
error that recurs there fails the cluster. A pass of a patrol renews its promise. A host link error makes one record in the slot
after HEAD, or counts in one of the last second. A silent flash-management core is restarted; its second hang within an hour is
class 3. A memory error, a watchdog expiry, an open handler and a passed audit deadline are class 3 faults: 17h, 18h, 1Ch and 19h,
1Ch instead of 17h and 18h while a handler is open. Where DETAIL, ADDR and INST of a record stand is the model's choice (logs 51
and 52) and not said here. -/
def Obligations.MemoryAndProcessorFaultsAreHandled : Prop :=
  ∀ s : State, s.quiet →
    (∀ c k bank row gran v, s.operating = true → c < s.variant.clusters → c < s.clus.length → k < s.variant.stackCount →
        v = { s with ras := { s.ras with injArm := s.ras.injArm && !s.injectedHit 8 k .corrected } } →
      exec (.reservoirRead c k bank row gran .clean true) s = .next s ∧
      (∀ x p, (k, bank, row) ∉ s.resv.corr →
        Reports (exec (.reservoirRead c k bank row gran .corrected x) s) { v with resv := { s.resv with
          corr := (k, bank, row) :: s.resv.corr } } 4 0 k ∧
        (s.ras.hbmScrub = true → k ∉ s.resv.stkLost → p = false →
          exec (.hbmPatrol k bank row gran .corrected x p) s = exec (.reservoirRead c k bank row gran .corrected x) s)) ∧
      ((k, bank, row) ∈ s.resv.corr → (k, bank) ∉ s.resv.spareRows →
        Reports (exec (.reservoirRead c k bank row gran .corrected true) s) { v with resv := { s.resv with
          corr := s.resv.corr.filter (· != (k, bank, row))
          rows := (k, bank, row) :: s.resv.rows
          rowRep := sat32 s.resv.rowRep } } 4 0 k ∧
        (bit s.ras.promise 4 = false → Reports (exec (.reservoirRead c k bank row gran .corrected false) s) { v with
          ras := { v.ras with promise := s.ras.promise ||| 2 ^ 4 }
          resv := { s.resv with spareRows := (k, bank) :: s.resv.spareRows } } 4 2 k)) ∧
      ((k, bank, row) ∈ s.resv.corr → (k, bank) ∈ s.resv.spareRows → bit s.ras.promise 4 = false →
        ∀ x, Reports (exec (.reservoirRead c k bank row gran .corrected x) s) { v with
          ras := { v.ras with promise := s.ras.promise ||| 2 ^ 4 } } 4 2 k) ∧
      (∀ w, w = { s with ras := { s.ras with injArm := s.ras.injArm && !s.injectedHit 8 k .beyond } } →
        ∃ y, y = { s.resv with
            mem := y.mem
            poison := y.poison } ∧ gran ∈ y.poison ∧ (∀ h, h ≠ gran → (h ∈ y.poison ↔ h ∈ s.resv.poison)) ∧
          (Mem.wf 0 s.resv.mem → ∀ a n, a + n ≤ gran * 64 ∨ gran * 64 + 64 ≤ a → Mem.read 0 y.mem a n = Mem.read 0 s.resv.mem a n) ∧
          Reports (exec (.reservoirRead c k bank row gran .beyond true) s) { w with
            resv := y
            free := s.free + 64
            clus := s.clus.modify c fun x => { x with poisOrg := satAdd32 x.poisOrg 1 } } 5 1 k ∧
          (s.ras.hbmScrub = true → k ∉ s.resv.stkLost → Reports (exec (.hbmPatrol k bank row gran .beyond true false) s) { w with
            resv := y
            free := s.free + 64 } 5 1 k)) ∧
      (s.ras.hbmScrub = true → k ∉ s.resv.stkLost → ∃ t, exec (.hbmPatrol k bank row gran .clean true true) s = .next t ∧
        t = { s with
          ras := { s.ras with
            hbmAt := s.ras.hbmPass
            hbmPass := s.now
            promise := t.ras.promise }
          resv := { s.resv with corr := [] } } ∧
        bit t.ras.promise 9 = false ∧ ∀ n, n ≠ 9 → bit t.ras.promise n = bit s.ras.promise n) ∧
      (∀ r x p, s.ras.hbmScrub = false ∨ k ∈ s.resv.stkLost → exec (.hbmPatrol k bank row gran r x p) s = .next s)) ∧
    (∀ c k h g a, s.operating = true → c < s.variant.clusters → c < s.clus.length → k < s.variant.stackCount → h < 32 →
      (a < 4 → (k, h) ∉ s.resv.chRet → ∀ y b x, exec (.reservoirReadLate c k h g a y b x) s = .next { s with resv := { s.resv with
        late := sat32 s.resv.late } }) ∧
      ((k, h) ∈ s.resv.chRet → (k + 6) % 12 ∉ s.resv.rebuild → (k + 6) % 12 ∉ s.resv.stkLost →
        (s.variant = .d1024 → (∀ y x, y = .mirrored ∨ y = .protected_ →
            Reports (exec (.reservoirReadLate c k h g a y false x) s) { s with resv := { s.resv with
              mirRet := sat32 s.resv.mirRet
              rebuild := if s.resv.rebuild.contains k then s.resv.rebuild else s.resv.rebuild ++ [k] } } 6 0 k) ∧
          (∀ y x, y = .jobData ∨ y = .mirrored → Reports (exec (.reservoirReadLate c k h g a y true x) s) { s with
            resv := { s.resv with
              undelivered := s.resv.undelivered ++ [(c, g, s.free)]
              nmFail := sat32 s.resv.nmFail }
            free := s.free + 64
            clus := s.clus.modify c fun x => { x with poisOrg := satAdd32 x.poisOrg 1 } } 6 1 k) ∧
          (∀ x, Reports (exec (.reservoirReadLate c k h g a .protected_ true x) s) { s with resv := { s.resv with
            nmFail := sat32 s.resv.nmFail } } 6 1 k) ∧
          (∀ b x, Reports (exec (.reservoirReadLate c k h g a .coreRead b x) s) { s with resv := { s.resv with
            nmFail := sat32 s.resv.nmFail } } 6 1 k ∧ Reports (exec (.reservoirReadLate c k h g a .resultFetch b x) s) s 6 1 k)) ∧
        (s.variant = .d512 → ∀ b x, Reports (exec (.reservoirReadLate c k h g a .protected_ b x) s) s 6 0 k ∧
          Reports (exec (.reservoirReadLate c k h g a .coreRead b x) s) s 6 1 k ∧
          Reports (exec (.reservoirReadLate c k h g a .resultFetch b x) s) s 6 2 k ∧
          ∀ p r, s.jobPart c = some p → (s.part p).run = some r → (s.part p).batch = none → r.teardown = none →
            (s.part p).resetting = false → r.clusters ≠ [] → ∃ t, exec (.reservoirReadLate c k h g a .jobData b x) s = .next t ∧
              (t.part p).run = some { r with teardown := some .tierFailed, tdAt := s.now } ∧
              t.resv = { s.resv with tierFail := sat32 s.resv.tierFail } ∧ ∃ e ∈ t.ras.ring, e.kind = 6 ∧ e.inst = k ∧ e.part = p)) ∧
      (4 ≤ a → (k, h) ∉ s.resv.chRet → ∀ y, s.variant = .d1024 ∨ y = .protected_ →
        (∃ t, exec (.reservoirReadLate c k h g a y false true) s = .next t ∧ (k, h) ∈ t.resv.lanes ∧
          t.resv.laneRep = sat32 s.resv.laneRep ∧ t.resv.chRet = s.resv.chRet ∧ Noted t 6 0 k) ∧
        (∃ t, exec (.reservoirReadLate c k h g a y false false) s = .next t ∧ t.resv.chRet = s.resv.chRet ++ [(k, h)] ∧
          t.resv.lanes = s.resv.lanes ∧ ((k, h) ∈ s.resv.lanes → bit t.ras.promise 4 = true) ∧
          (k ∈ t.resv.stkLost ↔ k ∈ s.resv.stkLost ∨ 8 < (t.resv.chRet.filter fun z => z.1 == k).length) ∧
          (∀ z, z ≠ k → (z ∈ t.resv.stkLost ↔ z ∈ s.resv.stkLost)) ∧ t.nss = s.nss ∧ t.cfg = s.cfg ∧ t.media.map = s.media.map))) ∧
    (∀ k, k < s.variant.stackCount → exec (.mirrorRebuildDone k) s = .next { s with resv := { s.resv with
      rebuild := s.resv.rebuild.filter (· != k) } }) ∧
    (∀ m c a v, s.operating = true → s.ras.sramScrub = true → (1 ≤ m ∧ m ≤ 7 ∧ c < s.variant.clusters ∧ c < s.clus.length ∨ m = 9) →
        v = { s with ras := { s.ras with injArm := s.ras.injArm && !s.injectedHit m c .beyond } } →
      exec (.sramPatrol m c a .clean false) s = .next s ∧
      (∃ t, exec (.sramPatrol m c a .clean true) s = .next t ∧
        t = { s with ras := { s.ras with
          sramAt := s.ras.sramPass
          sramPass := s.now
          promise := t.ras.promise } } ∧
        bit t.ras.promise 8 = false ∧ ∀ n, n ≠ 8 → bit t.ras.promise n = bit s.ras.promise n) ∧
      Reports (exec (.sramPatrol m c a .corrected false) s) { s with ras := { s.ras with
        injArm := s.ras.injArm && !s.injectedHit m c .corrected } } 1 0 (if m = 9 then 0xFFFF else c) ∧
      (m = 9 → Escalates (exec (.sramPatrol m c a .beyond false) s) v (if s.ras.hdepth = 0 then 0x17 else 0x1C)) ∧
      (m = 6 → Reports (exec (.sramPatrol m c a .beyond false) s) { v with
        free := s.free + 64
        clus := s.clus.modify c fun x => { x with
          tile := Mem.write 0 x.tile (a / 64 * 64) (freeBytes s.free 64)
          tpois := (x.setPois (a / 64) 1 true).tpois
          poisOrg := satAdd32 x.poisOrg 1 } } 2 1 c) ∧
      (m = 7 → ∃ y, Reports (exec (.sramPatrol m c a .beyond false) s) { v with
        free := s.free + 64
        clus := s.clus.set c y } 2 1 c ∧ a / 64 ∈ y.ring.pois ∧ y.tile = (s.clu c).tile ∧ y.core = (s.clu c).core) ∧
      (m ≤ 5 → s.jobPart c = none → s.ras.repeats.contains (m, c, a) = false → ∃ y,
        Reports (exec (.sramPatrol m c a .beyond false) s) { v with
          ras := { v.ras with repeats := (m, c, a) :: s.ras.repeats }
          clus := s.clus.set c y } 3 2 c ∧
        (m = 1 → y = { (s.clu c) with core := { (s.clu c).core with dm := Mem.write 0 (s.clu c).core.dm a [0] } }) ∧
        (m = 4 → (y.obj (a % 128)).value = 0 ∧ ∀ n, n < 128 → n ≠ a % 128 → y.obj n = (s.clu c).obj n) ∧
        (m = 2 ∨ m = 5 → y = s.clu c)) ∧
      (m ≤ 5 → s.jobPart c = none → s.ras.repeats.contains (m, c, a) = true → (s.clu c).cluFail = false → (s.clu c).lost = false →
        ∃ t, exec (.sramPatrol m c a .beyond false) s = .next t ∧ (t.clu c).cluFail = true ∧ Noted t 0xB 2 c) ∧
      (∀ p r, m ≤ 5 → s.jobPart c = some p → (s.part p).run = some r → (s.part p).batch = none → r.teardown = none →
        (s.part p).resetting = false → r.clusters ≠ [] → ∃ t, exec (.sramPatrol m c a .beyond false) s = .next t ∧
          (t.part p).run = some { r with teardown := some .internalError, tdAt := s.now } ∧
          (s.ras.repeats.contains (m, c, a) = true → (t.clu c).cluFail = true ∨ (t.clu c).lost = true))) ∧
    (∀ n, n < Variant.dieLinks s.variant → s.answers = true →
      (∀ x, x = s.ras.ucieHalf ∨ n ∉ s.ras.ucieHalf ∧ x = s.ras.ucieHalf ++ [n] → n ∈ x →
        Reports (exec (.ucieLaneFault n true) s) { s with ras := { s.ras with ucieHalf := x } } 0xC 0 n ∧
        (bit s.ras.promise 7 = false → Reports (exec (.ucieLaneFault n false) s) { s with
          ras := { s.ras with
            ucieHalf := x
            ucieSpent := if s.ras.ucieSpent.contains n then s.ras.ucieSpent else s.ras.ucieSpent ++ [n]
            promise := s.ras.promise ||| 2 ^ 7 }
          gen := { s.gen with lost := true } } 0xC 2 n))) ∧
    (s.answers = true → s.nvm.link.up = true →
      ((∀ e ∈ s.ras.ring, e.kind = 0xF → e.cls = 0 → e.inst = 0xFFFF → 1000 ≤ s.ms - e.time) →
        exec .hostLinkError s = .next { s with ras := { s.ras with
          ring := s.ras.ring.filter (fun e => e.slot != (s.ras.head + 1) % 256) ++ [{
            seqStart := s.ras.seqStart, seqCount := s.ras.seqCount + 1, time := s.ms, tstamp := s.stamp
            cls := 0, nested := false, coalesced := false, persisted := false, promise := false, cmdValid := false, injected := false
            slot := (s.ras.head + 1) % 256, parent := 0xFF, kind := 0xF, action := 4, inst := 0xFFFF, pseq := (0, 0)
            sqid := 0, cid := 0, part := 0xFF, count := 1, addr := 0, detail := 0 }]
          head := (s.ras.head + 1) % 256
          seqCount := s.ras.seqCount + 1
          cnt := s.ras.cnt.modify 0 sat32 } }) ∧
      (∀ o ∈ s.ras.ring, (∀ e ∈ s.ras.ring, e.slot = o.slot ↔ e.cls = 0 ∧ e.kind = 0xF ∧ e.inst = 0xFFFF ∧
          e.seqStart = s.ras.seqStart ∧ s.ms - e.time < 1000) →
        exec .hostLinkError s = .next { s with ras := { s.ras with
          ring := s.ras.ring.map fun e => if e.slot = o.slot then { e with count := min (e.count + 1) 0xFFFFFF, coalesced := true } else e
          cnt := s.ras.cnt.modify 0 sat32 } })) ∧
    (∀ n, n < 16 → s.mediaOn = true → ∀ x, x = { s.ras with
          fmcRst := sat32 s.ras.fmcRst
          fmcHangs := (n, s.now) :: s.ras.fmcHangs.filter fun h => h.1 != n } →
      ((∀ h ∈ s.ras.fmcHangs, h.1 = n → h.2 + 3600000000 ≤ s.now) →
        Reports (exec (.fmcCoreWatchdog n) s) { s with ras := x } 0x1A 0 n) ∧
      ((∃ h ∈ s.ras.fmcHangs, h.1 = n ∧ s.now < h.2 + 3600000000) → ∃ u t, exec (.fmcCoreWatchdog n) s = .next t ∧
        Apart { s with ras := { x with escal := sat32 s.ras.escal } } u ∧ Noted u 0x1A 3 n ∧
        (s.boot.phase = .ready → Restarted 5 u t) ∧ (s.boot.phase = .replay → StartFailed 7 u t))) ∧
    (s.answers = true →
      (∀ b a, Escalates (exec (.managementProcessorMemoryError b a) s) { s with ras := { s.ras with
        injArm := s.ras.injArm && !s.injectedHit (if b then 0xA else 9) s.ras.injInst .beyond } }
        (if s.ras.hdepth = 0 then 0x17 else 0x1C)) ∧
      (s.boot.op = none → Escalates (exec .processorWatchdogExpiry s) s (if s.ras.hdepth = 0 then 0x18 else 0x1C)) ∧
      (s.boot.op ≠ none → exec .processorWatchdogExpiry s = .next s) ∧
      (s.ras.hdepth ≠ 0 → Escalates (exec .errorHandlerTimeout s) s 0x1C) ∧
      (s.ras.hdepth = 0 → exec .errorHandlerTimeout s = .next s) ∧
      (∀ q c, exec (.commandAuditExpiry q c) s = .next s) ∧
      (∀ u f, u.still → (∀ q ∈ u.nvm.sqs, q.unfetched = []) → u.boot.phase = .ready → u.nvm.flights = [f] → ∃ v,
        Escalates (exec (.commandAuditExpiry f.sqid f.cid) u) { u with ras := { u.ras with
          expired := min (u.ras.expired + 1) 0xFFFF } } 0x19 ∧
        exec (.commandAuditExpiry f.sqid f.cid) u = .next v ∧ v.nvm.flights = [] ∧ v.hostWrites = u.hostWrites)) ∧
    (∀ n r x, 32 ≤ n → ∀ i, i ∈ [Instr.reservoirRead n 0 0 0 0 r x, .reservoirRead 0 n 0 0 0 r x, .reservoirReadLate 0 0 n 0 0 .jobData x x,
      .mirrorRebuildDone n, .hbmPatrol n 0 0 0 r x x, .sramPatrol n 0 0 r x, .sramPatrol 8 0 0 r x, .sramPatrol 1 n 0 r x,
      .ucieLaneFault n x, .fmcCoreWatchdog n] → exec i s = .fault .absentUnit)

/-- Nothing follows of itself from the state. A lane that fails on a direct port is swapped for a spare; without a spare left the
port narrows to 32 lanes, then to 16, and trains; with fewer than 16 good lanes it goes down; each raises event 05h. On an
Ethernet port the interface of the lane goes down, and the port with the last. A port that has ended electrical training sends
HELLO and is up when the peer is of its system, another device and in direct mode; otherwise it is held in error with the cause,
counted, and trains again. A PROBE is answered with PROBEACK, which makes a lost device reachable; each lost device with a path is
probed on flow 128. An acknowledgement ends the wait of all messages up to it, modulo 2 ^ 32. The oldest unacknowledged message is
resent with RETX, three times; then its path has failed for 10 ms, and the flow resends all of them, in order, on the path that
R372 gives, or the device is lost. A rate rises by 1 GB/s up to that of the path. What HELLO carries where, and which of several
causes is reported, are the model's choices (logs 18, 32). -/
def Obligations.LinksTrainFailOverAndAcknowledge : Prop :=
  ∀ (s : State) (n : Nat) (x : Port), s.quiet → n < s.variant.ports → n < s.lnk.ports.length → x = s.port n →
    (∀ l w, l < 42 → (x.st = 0 ∨ s.portsOn = false → exec (.laneFailure n l w) s = .next s) ∧
      (x.st ≠ 0 → s.portsOn = true →
        (l ∈ x.lanes → exec (.laneFailure n l w) s = .next (modPort n (fun y => { y with
          fecUnc := if w then sat32 y.fecUnc else y.fecUnc }) s)) ∧
        (l ∉ x.lanes → s.pmode n = 1 → x.idleSpare l = false →
          (∀ y, y = { x with lanes := sortDedup (l :: x.lanes) } → x.sparesLeft ≠ 0 → ∃ t, exec (.laneFailure n l false) s = .next t ∧
            t.port n = { y with spares := x.spares + 1, swaps := sat32 x.swaps } ∧ (∀ k, k ≠ n → t.port k = s.port k) ∧
            ((t.port n).sparesLeft = 0 → bit t.ras.promise 3 = true) ∧ t.nss = s.nss ∧ t.cfg = s.cfg ∧
            (s.nvm.aers = [] → bit (s.feat 0xC0) 5 = true → s.boot.phase = .ready → s.nvm.masked = [] → ⟨7, 5, 0xC6⟩ ∈ t.nvm.events)) ∧
          (∀ y, y = { x with lanes := sortDedup (l :: x.lanes) } → x.sparesLeft = 0 →
            (y.lanes.length ≤ 26 → 16 < x.width → x.width ≤ 40 → ∃ t, exec (.laneFailure n l false) s = .next t ∧
              t.port n = { y with
                st := if x.st = 2 then 4 else x.st
                width := if x.width = 40 then 32 else if x.width = 32 then 16 else x.width
                swaps := sat32 x.swaps } ∧ (∀ k, k ≠ n → t.port k = s.port k) ∧ Noted t 0xD 0 n) ∧
            (26 < y.lanes.length → s.lnk.flows = [] → s.lnk.peers = [] → ∃ t, exec (.laneFailure n l false) s = .next t ∧
              t.port n = { y with st := 3, elec := false, cause := 4, ifup := 0, width := 0, peer := none } ∧ Noted t 0xD 0 n))) ∧
        (l ∉ x.lanes → s.pmode n = 1 → x.idleSpare l = true → ∃ t, exec (.laneFailure n l false) s = .next t ∧
          t.port n = { x with lanes := sortDedup (l :: x.lanes) }) ∧
        (l ∉ x.lanes → s.pmode n = 2 → l < 40 → bit x.ifup (l / 8) = true → s.lnk.flows = [] → s.lnk.peers = [] →
          ∃ t, exec (.laneFailure n l false) s = .next t ∧ (t.port n).ifup = x.ifup - 2 ^ (l / 8) ∧
            (t.port n).st = (if x.ifup = 2 ^ (l / 8) then 1 else x.st) ∧ Noted t 0xD 0 n))) ∧
    (exec (.portRetrainDone n) s = .next (if x.st = 4 then modPort n (fun y => { y with st := 2 }) s else s)) ∧
    (exec (.flitRetry n) s = .next (if s.pmode n = 1 ∧ x.st = 2 then modPort n (fun y => { y with retry := sat32 y.retry }) s else s)) ∧
    (s.portsOn = true → s.pmode n = 1 → x.st = 1 →
      (x.lanes.length ≤ 26 → exec (.electricalTrainingDone n) s = .next (modPort n (fun y => { y with elec := true })
        { s with lnk := { s.lnk with sent := s.lnk.sent ++ [{ s.msg 1 16383 128 with addr := BitVec.ofNat 64 (n + 256) }] } })) ∧
      (26 < x.lanes.length → exec (.electricalTrainingDone n) s = .next (modPort n (fun y => { y with
        st := 3
        elec := false
        cause := 4
        trainFail := sat32 y.trainFail }) s)) ∧
      (∀ h, x.elec = false → exec (.hello n h) s = .next s) ∧
      (∀ h f, x.elec = true → f = (fun c => modPort n (fun y => { y with
          st := 3
          elec := false
          cause := c
          trainFail := sat32 y.trainFail }) s) →
        (h.sysid ≠ BitVec.ofNat 64 s.cfg.conf.sysid → exec (.hello n h) s = .next (f 1)) ∧
        (h.sysid = BitVec.ofNat 64 s.cfg.conf.sysid →
          (h.devnum = s.cfg.conf.devnum → exec (.hello n h) s = .next (f 2)) ∧
          (h.devnum ≠ s.cfg.conf.devnum → h.mode ≠ 1 → exec (.hello n h) s = .next (f 3)) ∧
          (h.devnum ≠ s.cfg.conf.devnum → h.mode = 1 → exec (.hello n h) s = .next (modPort n (fun y => { y with
            st := 2
            cause := 0
            peer := some h.devnum
            width := y.trainedWidth }) s))))) ∧
    (x.st ≠ 1 ∨ s.portsOn = false ∨ s.pmode n ≠ 1 → ∀ h, exec (.electricalTrainingDone n) s = .next s ∧ exec (.hello n h) s = .next s) ∧
    (exec (.trainingRetry n) s = .next (if s.portsOn = true ∧ x.st = 3 then modPort n (fun y => { y with
      st := 1
      elec := false
      cause := 0 }) s else s)) ∧
    (∀ i, i < 5 → exec (.ethernetInterfaceUp n i) s = .next (
      if s.portsOn = true ∧ s.pmode n = 2 ∧ (∀ l ∈ x.lanes, l / 8 ≠ i) ∧ bit x.ifup i = false then modPort n (fun y => { y with
        st := 2
        ifup := y.ifup + 2 ^ i
        width := 40 }) s else s)) ∧
    (∀ m p, s.linked m p → (∀ u ∈ (s.flowOf m.src m.flow).unacked, covers m.ack u.msg.seq = false) →
      (∃ t, exec (.probe m) s = .next t ∧ t.lnk.sent = s.lnk.sent ++ [{ s.msg 3 m.src m.flow with ack := (s.flowOf m.src m.flow).got }] ∧
        t.lnk.flows = s.lnk.flows ∧ t = { s with lnk := { s.lnk with
          sent := t.lnk.sent
          peers := t.lnk.peers
          ports := t.lnk.ports } }) ∧
      (∃ t, exec (.probeack m) s = .next t ∧ t.peerDev m.src = { s.peerDev m.src with lost := false, failed := [] } ∧
        (∀ d, d ≠ m.src → t.peerDev d = s.peerDev d) ∧ t = { s with lnk := { s.lnk with
          peers := t.lnk.peers
          ports := t.lnk.ports } })) ∧
    (exec .probeTimer s = .next (if s.portsOn = true then { s with lnk := { s.lnk with sent := s.lnk.sent ++
      ((s.lnk.peers.filter fun d => d.lost && !(s.pathSet d.dev).isEmpty).map fun d => s.msg 2 d.dev 128) } } else s)) ∧
    (∀ m p y, s.linked m p → y = s.flowOf m.src m.flow → y.dev = m.src → y.flow = m.flow → (∀ u ∈ y.unacked, u.msg.typ ≠ 0x16) →
      ∃ t, exec (.ack m) s = .next t ∧ (t.flowOf m.src m.flow).unacked = y.unacked.filter (fun u => !covers m.ack u.msg.seq) ∧
        (t.flowOf m.src m.flow).next = y.next ∧ (t.flowOf m.src m.flow).got = y.got ∧
        (∀ d f, (d, f) ≠ (m.src, m.flow) → t.flowOf d f = s.flowOf d f) ∧ t = { s with lnk := { s.lnk with
          flows := t.lnk.flows
          peers := t.lnk.peers
          ports := t.lnk.ports } }) ∧
    (∀ m p u o, s.linked m p → s.flowOf m.src m.flow = { s.flowOf m.src m.flow with
        dev := m.src
        flow := m.flow
        unacked := [u] } → covers m.ack u.msg.seq = true → u.msg.typ = 0x16 →
      s.lnk.ops.filter (fun y => y.opid == u.msg.opid) = [o] → o.kind = 2 → o.dev = m.src →
      ∃ t, exec (.ack m) s = .next t ∧ (t.flowOf m.src m.flow).unacked = [] ∧
        t.lnk.ops = s.lnk.ops.filter (fun y => y.opid != o.opid) ∧ t.lnk.sent = s.lnk.sent ∧ t.nss = s.nss ∧ t.parts = s.parts) ∧
    (∀ d f y u l p, s.flowOf d f = y → y.dev = d → y.flow = f → y.unacked = u :: l → y.path = some p →
      (u.tries < 3 → ∃ t, exec (.resendTimeout d f) s = .next t ∧ t.lnk.sent = s.lnk.sent ++ [{ u.msg with retx := true }] ∧
        t.flowOf d f = { y with unacked := { u with tries := u.tries + 1, at_ := s.now, msg := { u.msg with retx := true } } :: l } ∧
        t.lnk.retx = sat32 s.lnk.retx ∧ t.nss = s.nss ∧ t.lnk.ops = s.lnk.ops) ∧
      (3 ≤ u.tries → s.lnk.flows = [y] → (s.lnk.peers.map (·.dev)) = [d] → (s.peerDev d).lost = false → p ∈ s.goodPaths d →
        ∃ g, g = (s.goodPaths d).filter (· != p) ∧
        (∀ q, g[f % g.length]? = some q → ∃ t, exec (.resendTimeout d f) s = .next t ∧ (p, s.now + 10000) ∈ (t.peerDev d).failed ∧
          t.lnk.sent = s.lnk.sent ++ (u :: l).map (fun z => { z.msg with retx := true }) ∧ (t.flowOf d f).path = some q ∧
          t.lnk.failover = sat32 s.lnk.failover ∧ Noted t 0xE 0 d) ∧
        (g = [] → s.lnk.ops = [] → s.lnk.fans = [] → s.lnk.shuffles = [] → ∃ t, exec (.resendTimeout d f) s = .next t ∧
          (p, s.now + 10000) ∈ (t.peerDev d).failed ∧ (t.peerDev d).lost = true ∧ t.lnk.sent = s.lnk.sent))) ∧
    (∀ d f, (s.flowOf d f).unacked = [] → exec (.resendTimeout d f) s = .next s) ∧
    (∀ d k, ∃ t, exec (.pathRecovery d k) s = .next t ∧
      t.peerDev d = { s.peerDev d with failed := (s.peerDev d).failed.filter (fun y => Path.num y.1 != k) } ∧
      (∀ e, e ≠ d → t.peerDev e = s.peerDev e) ∧ t = { s with lnk := { s.lnk with peers := t.lnk.peers } }) ∧
    (∀ d, (∃ e ∈ s.lnk.peers, e.dev = d) → ∃ t, exec (.rateRaiseTimer d) s = .next t ∧
      t.peerDev d = { s.peerDev d with rate := if (s.peerDev d).rate < s.pathRate d then (s.peerDev d).rate + 1 else (s.peerDev d).rate } ∧
      (∀ e, e ≠ d → t.peerDev e = s.peerDev e) ∧ t = { s with lnk := { s.lnk with peers := t.lnk.peers } }) ∧
    (∀ k h, s.variant.ports ≤ k → ∀ i, i ∈ [Instr.laneFailure k 0 true, .laneFailure n 42 true, .portRetrainDone k, .flitRetry k,
      .electricalTrainingDone k, .trainingRetry k, .ethernetInterfaceUp k 0, .ethernetInterfaceUp n 5, .hello k h] →
      exec i s = .fault .absentUnit)

/-- A message of another system or device is dropped and counted, one out of sequence is dropped, counted and acknowledged, a
request of a cancelled context is dropped. A message that is the next of its flow is acknowledged by its answer on the flow or by
an ACK, and does this: BIND gets the instance, its regions and generations, or waits; BINDACK binds; a read gets data and poison,
or REJECT 1 outside the regions of the instance; its data lands in tile memory; a write is applied and confirmed, or refused; a
signal reaches its object when its CTXGEN is right; an unknown INST is dropped and counted; CANCEL cancels and is answered; a
request that meets PS3 is answered with WAKING and waits; WAKING extends the operation by 130 ms; REJECT 2 to 4 and RTMO end it as
unreachable or timed out, listed with PARTOK, else ending the job. FANREQ without a group gets REJECT 3, without the object REJECT
2, else places a Search job; FANPROG restarts the member's timeout; FANRES delivers results, or the member is missing; SHUFITEM,
SHUFEND and SHUFPAIR enter the shuffle, an item that arrives poisoned as such, and a SHUFEND may name a device without which it goes
on. Message bodies that Table 13.4 leaves open are the model's choice (log 32). -/
def Obligations.MessagesActOnTheirPeers : Prop :=
  (∀ (s : State) (m : Msg) (i : Instr), s.quiet → s.portsOn = true → s.pathSet m.src ≠ [] →
      i ∈ [Instr.probe m, .probeack m, .ack m, .bind m, .bindack m, .rread m, .rdata m, .rwrite m, .wack m, .rsig m, .cancel m,
        .cancelack m, .waking m, .reject m, .fanreq m, .fanprog m, .fanres m, .shufitem m, .shufend m, .shufpair m] →
    (m.sysid ≠ BitVec.ofNat 64 s.cfg.conf.sysid ∨ m.dst ≠ s.cfg.conf.devnum → exec i s = .next { s with lnk := { s.lnk with
      drop := sat32 s.lnk.drop } }) ∧
    (∀ p g n, m.sysid = BitVec.ofNat 64 s.cfg.conf.sysid → m.dst = s.cfg.conf.devnum → m.ce = false → m.ece = false →
      s.pathFor m.src m.flow = some p → s.peerDev m.src = ⟨m.src, false, (s.peerDev m.src).rate, false, (s.peerDev m.src).failed⟩ →
      s.flowOf m.src m.flow = ⟨m.src, m.flow, n, [], (s.flowOf m.src m.flow).path, g⟩ → m.seq ≠ (g + 1) % 2 ^ 32 →
      i ∉ [Instr.probe m, .probeack m, .ack m] → ∃ t, exec i s = .next t ∧ t.lnk.dup = sat32 s.lnk.dup ∧
        t.lnk.sent = s.lnk.sent ++ [{ s.msg 4 m.src m.flow with ack := g }] ∧ t.lnk.flows = s.lnk.flows ∧ t = { s with lnk := { s.lnk with
          dup := t.lnk.dup
          sent := t.lnk.sent
          peers := t.lnk.peers
          ports := t.lnk.ports } })) ∧
  (∀ (s : State) (m : Msg) (p : Path) (g n : Nat), s.hears m p g n → s.mgmt.ps = 3 →
    ∀ i k, (i, k) ∈ [(Instr.bind m, 0x10), (.rread m, 0x12), (.rwrite m, 0x14), (.rsig m, 0x16), (.fanreq m, 0x20), (.shufitem m, 0x24),
        (.shufend m, 0x26)] → ∃ t, exec i s = .next t ∧ t.lnk.sent = s.lnk.sent ++ [s.reply m 0x1A n] ∧
      t.lnk.held = s.lnk.held ++ [{ m with typ := k }] ∧ t.lnk.wake = sat32 s.lnk.wake ∧ t.resv = s.resv ∧ t.parts = s.parts ∧
      t.clus = s.clus) ∧
  (∀ (s : State) (m : Msg) (p : Path) (g n : Nat), s.hears m p g n → s.mgmt.ps < 3 →
    (∀ v, v = { s with lnk := { s.lnk with drop := sat32 s.lnk.drop } } →
      (s.instance? m.inst = none → Heard (exec (.rread m) s) s m p [s.acks m] v ∧ Heard (exec (.rwrite m) s) s m p [s.acks m] v ∧
        Heard (exec (.rsig m) s) s m p [s.acks m] v)) ∧
    (∀ r q, s.instance? m.inst = some (q, r) →
      (inRegions r m.addr.toNat (leNat m.payload) = true → leNat m.payload ≤ 8192 →
        Heard (exec (.rread m) s) s m p [{ s.reply m 0x13 n with
          addr := m.addr
          poison := (s.resv.poison.filter fun k => decide (m.addr.toNat / 64 ≤ k ∧ k * 64 < m.addr.toNat + leNat m.payload)).map
            (· - m.addr.toNat / 64)
          payload := Mem.read 0 s.resv.mem m.addr.toNat (leNat m.payload) }] s) ∧
      (inRegions r m.addr.toNat (leNat m.payload) = false ∨ 8192 < leNat m.payload → Heard (exec (.rread m) s) s m p
        [{ s.reply m 0x1B n with addr := 1 }] s) ∧
      (inRegions r m.addr.toNat m.payload.length = true → ∃ y u, Heard (exec (.rwrite m) s) s m p [{ s.reply m 0x15 n with
          addr := m.addr }] u ∧
        (∀ v, v = { s with resv := { s.resv with
            mem := Mem.write 0 s.resv.mem m.addr.toNat m.payload
            poison := y } } →
          (m.poison = [] → u = v) ∧
          (m.poison ≠ [] → Apart { v with clus := s.clus.modify (r.clusters.headD 0) fun x => { x with
            poisOrg := satAdd32 x.poisOrg m.poison.length } } u ∧ Noted u 0xE 1 m.src)) ∧
        ∀ k, k ∈ y ↔ (k ∈ s.resv.poison ∧ ¬(m.addr.toNat / 64 ≤ k ∧ k * 64 < m.addr.toNat + m.payload.length)) ∨
          ∃ h ∈ m.poison, k = h + m.addr.toNat / 64) ∧
      (inRegions r m.addr.toNat m.payload.length = false → Heard (exec (.rwrite m) s) s m p [{ s.reply m 0x1B n with addr := 1 }] s) ∧
      (∀ o, o = m.addr.toNat % 4096 →
        (o / 128 ∉ r.clusters → Heard (exec (.rsig m) s) s m p [s.acks m] { s with lnk := { s.lnk with drop := sat32 s.lnk.drop } }) ∧
        (o / 128 ∈ r.clusters → (s.clu (o / 128)).ctxgen ≠ (m.payload.headD 0).toNat → Heard (exec (.rsig m) s) s m p [s.acks m]
          { s with clus := s.clus.modify (o / 128) fun x => { x with objs := x.objs.modify (o % 128) fun y => { y with
            dropped := min (y.dropped + 1) 255 } } }) ∧
        (o / 128 ∈ r.clusters → (s.clu (o / 128)).ctxgen = (m.payload.headD 0).toNat →
          ((s.clu (o / 128)).obj (o % 128)).value + bits m.addr.toNat 47 32 ≤ 0xFFFFFFFF → m.src ≠ 0x3FFF →
          Heard (exec (.rsig m) s) s m p [s.acks m] { s with clus := s.clus.modify (o / 128) fun x => { x with
            objs := x.objs.modify (o % 128) fun y => { y with
              value := y.value + bits m.addr.toNat 47 32
              sigcnt := (y.sigcnt + 1) % 2 ^ 32
              lastDev := m.src
              lastClu := 0xFF } } }))) ∧
    (m.flow = 128 → s.lnk.cancelled = [] →
      (∀ i r, s.lnk.insts.find? (fun x => x.2.1 == m.jobtag) = some i → (s.part i.1).run = some r →
        Heard (exec (.bind m) s) s m p [{ s.msg 0x11 m.src 128 with
          inst := i.2.2
          jobtag := m.jobtag
          seq := n
          ack := m.seq
          payload := ((List.range 14).flatMap fun k => leBytes 8 (r.regions.getD k (0, 0)).1 ++ leBytes 8 (r.regions.getD k (0, 0)).2) ++
            (List.range s.variant.clusters).map fun c => BitVec.ofNat 8 (s.clu c).ctxgen }] s) ∧
      ((∀ x ∈ s.lnk.insts, x.2.1 ≠ m.jobtag) → Heard (exec (.bind m) s) s m p [s.acks m] { s with lnk := { s.lnk with
        bindWait := [(m.src, m.jobtag)] } }) ∧
      (∀ u, u = { s with lnk := { s.lnk with cancelled := [(m.src, m.jobtag, m.sgen)] } } →
        (m.payload = [] → m.opid = 0 → (∀ x ∈ s.parts, ∀ r, x.run = some r → r.job.kind ≠ .fan m.src 0) →
          ∃ v, Heard (exec (.cancel m) s) s m p [{ s.msg 0x19 m.src 128 with
          jobtag := m.jobtag
          opid := m.opid
          inst := m.inst
          seq := n
          ack := m.seq }] v ∧ v.lnk.cancelled = u.lnk.cancelled ∧ v.nss = s.nss ∧ v.parts.map (·.run) = s.parts.map (·.run)) ∧
        ∀ i, i ∈ [Instr.rread m, .rwrite m, .rsig m] → Heard (exec i u) u m p [s.acks m] { u with lnk := { u.lnk with
          drop := sat32 s.lnk.drop } })) ∧
    Heard (exec (.cancelack m) s) s m p [s.acks m] s ∧
    (∀ b r, s.lnk.binds.filter (fun x => x.dev == m.src && !x.bound) = [b] → (s.part b.part).run = some r →
      r.job.cmd.cdw15.toNat = m.jobtag → (∀ o ∈ s.lnk.ops, o.waiting = []) → ∃ b',
      Heard (exec (.bindack m) s) s m p [s.acks m] { s with lnk := { s.lnk with
        binds := s.lnk.binds.map fun x => if x == b then b' else x } } ∧
      b'.part = b.part ∧ b'.dev = b.dev ∧ b'.bound = true ∧ b'.inst = m.inst ∧ b'.regions.length = 14 ∧
      (∀ k, k < 14 → b'.regions[k]? = some (field m.payload (16 * k) 8, field m.payload (16 * k + 8) 8)) ∧
      b'.ctxgens = (m.payload.drop 224).map (·.toNat)) ∧
    (∀ o, s.lnk.ops.filter (fun x => x.opid == m.opid) = [o] → o.opid = m.opid → o.dev = m.src → o.eng = 5 → o.waiting = [] →
      (o.kind = 0 → s.tearing o.part = false → o.clu < s.clus.length → o.left = 1 → m.poison = [] →
        ∀ a l, o.pieces = [(m.addr.toNat, a, l)] → a % 64 = 0 → l % 64 = 0 → ((s.clu o.clu).q 5).act = [] →
        ∃ t, exec (.rdata m) s = .next t ∧ t.lnk.ops = s.lnk.ops.filter (fun x => x.opid != o.opid) ∧
          Mem.read 0 (t.clu o.clu).tile a l = slice m.payload 0 l ∧ (t.clu o.clu).core = (s.clu o.clu).core ∧
          (∀ c, c ≠ o.clu → t.clu c = s.clu c) ∧ t.resv = s.resv ∧ t.nss = s.nss ∧ t.lnk.sent = s.lnk.sent ++ [s.acks m]) ∧
      (o.kind = 1 → (1 < o.left → Heard (exec (.wack m) s) s m p [s.acks m] { s with lnk := { s.lnk with ops := s.lnk.ops.map fun x =>
          if x.opid == o.opid then { x with
            left := x.left - 1
            pieces := x.pieces.filter fun y => y.1 != 2 ^ 64 } else x } }) ∧
        (o.left = 1 → ∃ t, exec (.wack m) s = .next t ∧ t.lnk.ops = s.lnk.ops.filter (fun x => x.opid != o.opid) ∧
          t.lnk.sent = s.lnk.sent ++ [s.acks m] ∧ t.nss = s.nss ∧ t.resv = s.resv)) ∧
      (s.lnk.fans = [] → (∀ x ∈ s.lnk.ops, x.waiting = []) → Heard (exec (.waking m) s) s m p [s.acks m] { s with lnk := { s.lnk with
        ops := s.lnk.ops.map fun x => if x.opid == o.opid then { x with until_ := x.until_ + 130000 } else x } }) ∧
      (∀ r, (s.part o.part).run = some r → (s.part o.part).batch = none → r.teardown = none → (s.part o.part).resetting = false →
          r.clusters ≠ [] → o.part < s.parts.length → s.lnk.fans = [] →
        (∀ i, i ∈ [Instr.remoteTimeout m.opid m.src, .reject m] → (i = .reject m → m.addr.toNat % 256 ≠ 1) →
          (partokOf r.job.cmd = true → ∃ t, exec i s = .next t ∧ (t.part o.part).run = some { r with
              missing := if r.missing.contains m.src then r.missing else r.missing ++ [m.src] } ∧
            t.lnk.ops = s.lnk.ops.filter (fun x => x.opid != o.opid)) ∧
          (partokOf r.job.cmd = false → ∃ t, exec i s = .next t ∧ (t.part o.part).run = some { r with
            teardown := some (if i = .reject m then .remoteUnreachable else .remoteTimeout), tdAt := s.now })) ∧
        (m.addr.toNat % 256 = 1 → s.jobPart o.clu = some o.part → ∃ t, exec (.reject m) s = .next t ∧
          (t.part o.part).run = some { r with teardown := some .internalError, tdAt := s.now }))) ∧
    (∀ e, s.lnk.fans = [] → (∀ o ∈ s.lnk.ops, o.opid ≠ e) → ∀ d, exec (.remoteTimeout e d) s = .next s) ∧
    (∀ d, s.working = [d] → d = (m.src, m.opid) → m.flow = 128 → ∃ t, exec .fanprogTimer s = .next t ∧
      t.lnk.sent = s.lnk.sent ++ [{ s.msg 0x21 m.src 128 with opid := m.opid, seq := n, ack := g }] ∧ t = { s with lnk := { s.lnk with
        sent := t.lnk.sent
        flows := t.lnk.flows
        peers := t.lnk.peers
        ports := t.lnk.ports } }) ∧
    (s.working = [] → exec .fanprogTimer s = .next s) ∧
    (∀ f, s.lnk.fans = [f] → f.tag = m.opid → f.waiting.any (fun w => w.1 == m.src) = true →
      Heard (exec (.fanprog m) s) s m p [s.acks m] { s with lnk := { s.lnk with fans := [{ f with
        waiting := f.waiting.map fun w => if w.1 == m.src then (w.1, s.now + s.rtmo) else w }] } } ∧
      (m.inst = 0 → s.lnk.parcels = [] → m.addr.toNat = m.payload.length * 2 ^ 32 →
        Heard (exec (.fanres m) s) s m p [s.acks m] { s with lnk := { s.lnk with fans := [{ f with
          waiting := f.waiting.filter fun w => w.1 != m.src
          results := f.results ++ [(m.src, m.payload)] }] } }) ∧
      (∀ r, m.inst ≠ 0 → s.lnk.parcels = [] → m.addr.toNat = m.payload.length * 2 ^ 32 → (s.part f.part).run = some r →
        (s.part f.part).batch = none → r.teardown = none → (s.part f.part).resetting = false → r.clusters ≠ [] → f.part < s.parts.length →
        ∃ t, exec (.fanres m) s = .next t ∧ (partokOf r.job.cmd = true → s.shuffle? f.tag s.cfg.conf.devnum = none →
          (t.part f.part).run = some { r with
            missing := if r.missing.contains m.src then r.missing else r.missing ++ [m.src] }) ∧
          (partokOf r.job.cmd = false → (t.part f.part).run = some { r with teardown := some (statusOf m.inst), tdAt := s.now }))) ∧
    (m.flow = 128 → s.lnk.parcels = [] → m.addr.toNat = m.payload.length * 2 ^ 32 →
        (joinStage (m.payload.take m.inst)).sopc ≠ 0x93 → ∀ d, d = (joinStage (m.payload.take m.inst)).objid →
      (s.groupOf m.jobtag 0 d = none → Heard (exec (.fanreq m) s) s m p [{ s.reply m 0x1B n with addr := 3 }] s) ∧
      (∀ x, s.groupOf m.jobtag 0 d = some x →
        (s.ns? m.jobtag = none ∨ s.index? m.jobtag d = none →
          Heard (exec (.fanreq m) s) s m p [{ s.reply m 0x1B n with addr := 2 }] s) ∧
        (s.ns? m.jobtag ≠ none → s.index? m.jobtag d ≠ none → (s.part x.part).idle = false → (s.part x.part).resetting = false →
          x.part < 8 → x.jq < 16 → ∃ j, j.kind = .fan m.src m.opid ∧ j.opc = 0x8F ∧ j.part = x.part ∧ j.jq = x.jq ∧ partokOf j.cmd = true ∧
            j.cmd.nsid = m.jobtag ∧ j.cmd.data = m.payload.drop m.inst ∧
            Heard (exec (.fanreq m) s) s m p [s.acks m] { s with parts := s.parts.modify x.part fun y => { y with
              queues := y.queues.modify x.jq (· ++ [j]) } }))) ∧
    (∀ x, s.lnk.shuffles = [x] → x.tag = m.opid → x.fdev = m.inst → x.members.length = 0 ∨ (∃ d ∈ x.members, d ≠ m.src ∧ d ∉ x.ended) →
      (m.poison = [] → Heard (exec (.shufitem m) s) s m p [s.acks m] { s with lnk := { s.lnk with shuffles := [{ x with
        items := x.items ++ [(m.jobtag, m.sgen, m.src, m.addr.toNat, m.payload)] }] } }) ∧
      (m.poison ≠ [] → Heard (exec (.shufitem m) s) s m p [s.acks m] { s with lnk := { s.lnk with shuffles := [{ x with
        hurt := x.hurt ++ [m.addr.toNat] }] } }) ∧
      (∀ e, m.addr.toNat = e + 1 → (∃ d ∈ x.members, d ≠ e ∧ d ∉ x.ended) → Heard (exec (.shufend m) s) s m p [s.acks m]
        { s with lnk := { s.lnk with shuffles := [{ x with
          items := x.items.filter fun i => i.2.2.1 != e
          pairs := x.pairs.filter fun q => q.1 != e
          ended := if x.ended.contains e then x.ended else e :: x.ended
          owners := if x.owners.contains e then x.owners else e :: x.owners }] } }) ∧
      (m.inst ≠ s.cfg.conf.devnum → m.addr = 0 → Heard (exec (.shufend m) s) s m p [s.acks m] { s with lnk := { s.lnk with shuffles := [{ x with
        ended := if x.ended.contains m.src then x.ended else m.src :: x.ended }] } }) ∧
      (∀ h, m.inst = s.cfg.conf.devnum → h = x.hurt ++ ((List.range ((m.payload.length - 24 * m.jobtag) / 8)).map fun i =>
          field m.payload (24 * m.jobtag + 8 * i) 8) →
        (m.addr.toNat % 2 = 0 → Heard (exec (.shufpair m) s) s m p [s.acks m] { s with lnk := { s.lnk with
          shuffles := [{ x with
            pairs := x.pairs ++ [(m.src, m.payload.take (24 * m.jobtag))]
            hurt := h }] } }) ∧
        (m.addr.toNat % 2 = 1 → s.lnk.fans = [] → Heard (exec (.shufpair m) s) s m p [s.acks m]
          { s with lnk := { s.lnk with shuffles := [{ x with
            pairs := x.pairs ++ [(m.src, m.payload.take (24 * m.jobtag))]
            hurt := h
            stat := x.stat + m.addr.toNat / 2
            owners := m.src :: x.owners }] } }))))

/-- While the management processor runs, in Trickle mode as well, the sled answers SPDM on the management bus, and nothing but the
responder changes, and the free values that a nonce takes. GET_VERSION offers 1.2 and 1.3 and begins the negotiation anew.
GET_CAPABILITIES agrees on one of the two and offers certificates, challenge and measurements with signature, no session, key
exchange or pre-shared key. NEGOTIATE_ALGORITHMS offers Ed448 and SHA3-512, and refuses a requester without them. GET_DIGESTS
gives the digest of the chain of slot 0, GET_CERTIFICATE a portion of it and nothing beyond its end or of another slot. CHALLENGE
is signed with the identity key over the negotiation, the certificates and the exchange. GET_MEASUREMENTS gives MEAS0 to MEAS5 as
indices 1 to 6, their number for operation 0, signed when asked. A request out of its turn, or under another version, is an error
and changes nothing else. The message formats, which the spec names and does not restate, are presumed (log 53). -/
def Obligations.SpdmAnswersInItsTurn : Prop :=
  ∀ (s : State) (req : List Byte) (x : Spdm) (f : Spdm → State), s.quiet → x = s.sec.spdm →
      f = (fun y => { s with sec := { s.sec with spdm := y } }) →
    (s.answers = false → ∀ i, i ∈ [Instr.spdmGetVersion req, .spdmGetCapabilities req, .spdmNegotiateAlgorithms req, .spdmGetDigests req,
      .spdmGetCertificate req, .spdmChallenge req, .spdmGetMeasurements req] → exec i s = .next s) ∧
    (s.answers = true → ∀ err : Nat → State,
        err = (fun c => f { x with reply := [BitVec.ofNat 8 (max 0x10 x.ver), 0x7F, BitVec.ofNat 8 c, 0] }) →
      (∀ i k, (i, k) ∈ [(Instr.spdmGetCapabilities req, 1), (.spdmNegotiateAlgorithms req, 2), (.spdmGetDigests req, 3),
        (.spdmGetCertificate req, 3), (.spdmChallenge req, 3), (.spdmGetMeasurements req, 3)] →
        (x.step < k → exec i s = .next (err 4)) ∧
        (k ≤ x.step → 2 ≤ k → 4 ≤ req.length → field req 0 1 ≠ x.ver → exec i s = .next (err 0x41))) ∧
      (∀ r, r = ([0x10, 0x04, 0, 0, 0, 2, 0x00, 0x12, 0x00, 0x13] : List Byte) →
        (4 ≤ req.length → field req 0 1 = 0x10 → exec (.spdmGetVersion req) s = .next (f ⟨0, 1, req ++ r, [], [], r⟩)) ∧
        (field req 0 1 ≠ 0x10 → exec (.spdmGetVersion req) s = .next (err 0x41))) ∧
      (1 ≤ x.step →
        (field req 0 1 = 0x12 ∨ field req 0 1 = 0x13 → ∃ r, exec (.spdmGetCapabilities req) s = .next (f { x with
            ver := field req 0 1
            step := 2
            base := x.base ++ req ++ r
            reply := r }) ∧
          r.length = 20 ∧ field r 0 1 = field req 0 1 ∧ field r 1 1 = 0x61 ∧ bit (field r 8 4) 1 = true ∧ bit (field r 8 4) 2 = true ∧
          bits (field r 8 4) 4 3 = 2 ∧ bits (field r 8 4) 31 6 = 0) ∧
        (field req 0 1 ≠ 0x12 → field req 0 1 ≠ 0x13 → exec (.spdmGetCapabilities req) s = .next (err 0x41))) ∧
      (4 ≤ req.length → field req 0 1 = x.ver → x.ver = 0x12 ∨ x.ver = 0x13 →
        (2 ≤ x.step →
          (bit (field req 8 4) 11 = true → bit (field req 12 4) 5 = true → ∃ r, exec (.spdmNegotiateAlgorithms req) s = .next (f { x with
              step := 3
              base := x.base ++ req ++ r
              reply := r }) ∧
            r.length = 36 ∧ field r 0 1 = x.ver ∧ field r 1 1 = 0x63 ∧ field r 4 2 = 36 ∧ field r 12 4 = 2 ^ 11 ∧ field r 16 4 = 2 ^ 5) ∧
          (bit (field req 8 4) 11 = false ∨ bit (field req 12 4) 5 = false → exec (.spdmNegotiateAlgorithms req) s = .next (err 1))) ∧
        (3 ≤ x.step →
          (∀ r, r = [BitVec.ofNat 8 x.ver, 0x01, (if x.ver = 0x13 then 1 else 0), 1] ++ sha3_512 certChain →
            exec (.spdmGetDigests req) s = .next (f { x with
              certs := x.certs ++ req ++ r
              reply := r })) ∧
          (∀ o n, o = field req 4 2 → n = min (field req 6 2) (certChain.length - o) →
            (field req 2 1 % 16 = 0 → o < certChain.length → ∀ r,
              r = [BitVec.ofNat 8 x.ver, 0x02, 0, 0] ++ leBytes 2 n ++ leBytes 2 (certChain.length - o - n) ++ slice certChain o n →
              exec (.spdmGetCertificate req) s = .next (f { x with
                certs := x.certs ++ req ++ r
                reply := r })) ∧
            (field req 2 1 % 16 ≠ 0 ∨ certChain.length ≤ o → exec (.spdmGetCertificate req) s = .next (err 1))) ∧
          (field req 2 1 = 0 → ∃ r, exec (.spdmChallenge req) s = .next { (f { x with
                certs := []
                reply := r ++ sign [BitVec.ofNat 8 x.ver, 0] (sha3_512 (x.base ++ x.certs ++ req ++ r)) }) with free := s.free + 32 } ∧
            ∃ z, r = [BitVec.ofNat 8 x.ver, 0x03, 0, 1] ++ sha3_512 certChain ++ freeBytes s.free 32 ++ z) ∧
          (field req 2 1 ≠ 0 → exec (.spdmChallenge req) s = .next (err 1)) ∧
          (∀ o, o = field req 3 1 →
            (6 < o → o ≠ 0xFF → exec (.spdmGetMeasurements req) s = .next (err 1)) ∧
            (∀ l bs, (o = 0 → l = []) → (o = 0xFF → l = List.range 6) → (1 ≤ o → o ≤ 6 → l = [o - 1]) → o ≤ 6 ∨ o = 0xFF →
                bs = (l.flatMap fun i => measBlock i s) → ∃ r z,
              r = [BitVec.ofNat 8 x.ver, 0x60, (if o = 0 then 6 else 0), 0] ++ leBytes 1 l.length ++ leBytes 3 bs.length ++ bs ++
                freeBytes s.free 32 ++ z ∧
              (∀ i ∈ l, field (measBlock i s) 0 1 = i + 1 ∧ (measBlock i s).drop 7 = s.sec.meas.getD i (zeros 64)) ∧
              (bit (field req 2 1) 0 = true → exec (.spdmGetMeasurements req) s = .next { (f { x with
                meas := []
                reply := r ++ sign [BitVec.ofNat 8 x.ver, 1] (sha3_512 (x.base ++ (x.meas ++ req ++ r))) }) with free := s.free + 32 }) ∧
              (bit (field req 2 1) 0 = false → exec (.spdmGetMeasurements req) s = .next { (f { x with
                meas := x.meas ++ req ++ r
                reply := r }) with free := s.free + 32 }))))))

/-- The sled takes the Set Features next from the admin queue. One to PS0, PS1 or PS2 stays in flight with the change noted for
the next frame marker; one to PS3 or PS4 begins the entry at its fetch, notes the operational state to resume, and suspends (PS3)
or ends with result 8h (PS4) the self-test that runs; a state above 4 completes with Invalid Field in Command. When the drain has
ended with the Set Features the only command in flight and no job, PS3 is entered, the contents of tile and instruction memory are
lost, and the command completes with success. PS4 is entered, with no peer sled known, with the Reservoir empty, no result set,
the write-back buffer on flash and a clean-stop record as well. When the wake-ups of an exit have been granted, the last
operational state is in force again and a suspended self-test goes on. -/
def Obligations.PowerStateChangesFollowSetFeatures : Prop :=
  ∀ (s : State) (q : Sq) (k : Cq),
    (∀ c ps, AdminTurn s q k c → ps = bits c.cdw11.toNat 4 0 → bit c.cdw10.toNat 31 = false →
      (ps ≤ 2 → Pends (exec (.setFeaturesPowerManagement c) s) s q 0x09 (withDw10 c 7 0 0x02) .executing []
        (s.modPwr fun p => { p with pendingPs := some (ps, 0, c.cid) })) ∧
      (ps = 3 → Pends (exec (.setFeaturesPowerManagement c) s) s q 0x09 (withDw10 c 7 0 0x02) .executing []
        (s.modMgmt fun m => { m with
          entry := some (3, 0, c.cid), lastOp := m.ps, test := m.test.map fun t => { t with suspended := true } })) ∧
      (ps = 4 → Pends (exec (.setFeaturesPowerManagement c) s) s q 0x09 (withDw10 c 7 0 0x02) .executing []
        ((endSelfTest 8 0 s).modMgmt fun m => { m with entry := some (4, 0, c.cid), lastOp := m.ps })) ∧
      (4 < ps → Completes (exec (.setFeaturesPowerManagement c) s) s q k c.cid .invalidField 0 0 [] s)) ∧
    (∀ f ps, s.carries q k f → q.id = 0 → f.phase = .executing → s.mgmt.entry = some (ps, 0, f.cid) →
      s.mgmt.exiting = false → (∀ p < 8, (s.part p).run = none ∧ (s.part p).batch = none ∧ (s.part p).resetting = false ∧ (s.part p).sel = none ∧
        ∀ l ∈ (s.part p).queues, l = []) →
      (ps = 4 → s.lnk.peers = [] ∧ s.lnk.flows = []) →
      ∃ u, Finishes (exec .powerStateEntryDrained s) s q k f .success 0 0 [] u ∧
        u.mgmt = { s.mgmt with ps := ps, entry := none } ∧
        u.clus = s.clus.map (fun x => { x with tile := [], tpois := [], im := [], improg := 0, imlen := 0 }) ∧
        u.nss = s.nss ∧ u.cfg = s.cfg ∧ u.idx = s.idx ∧ u.store.objs = s.store.objs ∧ u.cad = s.cad ∧ u.sec = s.sec ∧
        (ps ≠ 4 → u = { s with mgmt := u.mgmt, clus := u.clus, pwr := u.pwr }) ∧
        (ps = 4 → u.res.sets = [] ∧ u.resv.units = [] ∧ u.resv.mem = [] ∧ u.media.wb = [] ∧ u.media.dirty = [] ∧
          u.boot.clean = true)) ∧
    (s.quiet → s.mgmt.exiting = true → s.awake = true → s.mgmt.ps = 3 → s.lnk.held = [] →
      exec .powerStateExitDone s = .next (s.modMgmt fun m => { m with
        ps := m.lastOp, exiting := false, test := m.test.map fun t => { t with suspended := false } }))

/-- The sled takes the command next from the admin queue. A Create of a completion queue or of a submission queue with a free
identifier up to 1,024, 2 to 4,096 entries, physically contiguous and, for the submission queue, an existing completion queue,
completes with success and adds the empty queue. A size outside the limits completes with Invalid Queue Size, an identifier
outside them or in use with Invalid Queue Identifier. Delete removes a completion queue that no submission queue uses, and refuses
one in use with Invalid Queue Deletion. With none of its commands in flight, Delete of a submission queue removes it. Nothing else
changes. The positions of the fields in the dwords are the NVMe standard's (log 27). -/
def Obligations.IoQueuesAreCreatedAndDeleted : Prop :=
  ∀ (s : State) (q : Sq) (k : Cq) (c : Cmd) (id size : Nat), AdminTurn s q k c →
    id = c.cdw10.toNat % 65536 → size = c.cdw10.toNat / 65536 + 1 →
    (1 ≤ id → id ≤ 1024 → (∀ x ∈ s.nvm.cqs, x.id ≠ id) → 2 ≤ size → size ≤ 4096 → bit c.cdw11.toNat 0 = true →
      c.cdw11.toNat / 65536 ≤ 1024 →
      Completes (exec (.createIoCompletionQueue c) s) s q k c.cid .success 0 0 []
        (s.modNvm fun n => { n with
          cqs := n.cqs ++ [⟨id, size, 0, 0, c.cdw11.toNat / 65536, bit c.cdw11.toNat 1, []⟩] })) ∧
    (1 ≤ id → id ≤ 1024 → (∀ x ∈ s.nvm.sqs, x.id ≠ id) → 2 ≤ size → size ≤ 4096 → bit c.cdw11.toNat 0 = true →
      c.cdw11.toNat / 65536 ≠ 0 → (∃ x ∈ s.nvm.cqs, x.id = c.cdw11.toNat / 65536) →
      Completes (exec (.createIoSubmissionQueue c) s) s q k c.cid .success 0 0 []
        (s.modNvm fun n => { n with
          sqs := n.sqs ++ [⟨id, size, 0, 0, c.cdw11.toNat / 65536, bits c.cdw11.toNat 2 1, []⟩] })) ∧
    (id = 0 ∨ 1024 < id →
      Completes (exec (.createIoCompletionQueue c) s) s q k c.cid .invalidQueueId 0 0 [] s ∧
      Completes (exec (.createIoSubmissionQueue c) s) s q k c.cid .invalidQueueId 0 0 [] s) ∧
    (1 ≤ id → id ≤ 1024 → size < 2 ∨ 4096 < size →
      ((∀ x ∈ s.nvm.cqs, x.id ≠ id) →
        Completes (exec (.createIoCompletionQueue c) s) s q k c.cid .invalidQueueSize 0 0 [] s) ∧
      ((∀ x ∈ s.nvm.sqs, x.id ≠ id) →
        Completes (exec (.createIoSubmissionQueue c) s) s q k c.cid .invalidQueueSize 0 0 [] s)) ∧
    (id ≠ 0 → (∃ x ∈ s.nvm.cqs, x.id = id) → (∀ x ∈ s.nvm.sqs, x.cqid ≠ id) →
      Completes (exec (.deleteIoCompletionQueue c) s) s q k c.cid .success 0 0 []
        (s.modNvm fun n => { n with cqs := n.cqs.filter fun x => x.id != id })) ∧
    (id ≠ 0 → (∃ x ∈ s.nvm.cqs, x.id = id) → (∃ x ∈ s.nvm.sqs, x.cqid = id) →
      Completes (exec (.deleteIoCompletionQueue c) s) s q k c.cid .invalidQueueDeletion 0 0 [] s) ∧
    (id ≠ 0 → (∃ x ∈ s.nvm.sqs, x.id = id) →
      Completes (exec (.deleteIoSubmissionQueue c) s) s q k c.cid .success 0 0 []
        (s.modNvm fun n => { n with sqs := n.sqs.filter fun x => x.id != id }))

/-- The sled takes the command next from the admin queue. With no command in flight, an Abort completes with success and 1 in
dword 0, since its target was not caught. An Asynchronous Event Request stays in flight as an outstanding request while no event
that is not masked waits; otherwise it completes with the type, information and log page of the oldest such event. The page is
masked from then on, but for page 04h, which no Get Log Page could unmask (log 109). -/
def Obligations.AbortAndEventRequestsAnswer : Prop :=
  ∀ (s : State) (q : Sq) (k : Cq) (c : Cmd), AdminTurn s q k c →
    Completes (exec (.adminAbort c) s) s q k c.cid .success 1 0 [] s ∧
    ((∀ e ∈ s.nvm.events, e.page ∈ s.nvm.masked) →
      Pends (exec (.asynchronousEventRequest c) s) s q 0x0C c .executing []
        (s.modNvm fun n => { n with aers := [(0, c.cid)] })) ∧
    (∀ e, s.nvm.events.find? (fun e => !s.nvm.masked.contains e.page) = some e →
      Completes (exec (.asynchronousEventRequest c) s) s q k c.cid .success (e.typ + e.info * 256 + e.page * 65536) 0 []
        (s.modNvm fun n => { n with events := n.events.erase e, masked := if e.page = 4 then n.masked else e.page :: n.masked }))

/-- The sled takes the command next from the admin queue. With no test running, code 1h or 2h starts the short or the extended
test; with one running, either completes with Device Self-test in Progress. Code Fh ends the running test with result 1h. A slice
that the test can take is recorded, with the first failed segment, and the test goes on while slices are missing; when the last
one is done it ends with result 0 or, with a failed segment, 7h; one that it cannot take does nothing. A slice counts the pages it
decodes, one in segment 3 and six in segment 7, whose steps are open; a failed one marks its cluster, an array of it or a block. An
extended test that has lasted 24 hours ends with result 8h. The log keeps the latest 20 results. -/
def Obligations.SelfTestsRunAndEnd : Prop :=
  ∀ (s : State) (q : Sq) (k : Cq) (c : Cmd),
    (AdminTurn s q k c → s.mgmt.test = none →
      Completes (exec (.deviceSelfTestShort c) s) s q k c.cid .success 0 0 []
        (s.modMgmt fun m => { m with test := some ⟨1, [], false, 0⟩ }) ∧
      Completes (exec (.deviceSelfTestExtended c) s) s q k c.cid .success 0 0 []
        (s.modMgmt fun m => { m with test := some ⟨2, [], false, 0⟩ })) ∧
    (∀ t, AdminTurn s q k c → s.mgmt.test = some t →
      Completes (exec (.deviceSelfTestShort c) s) s q k c.cid .selfTestInProgress 0 0 [] s ∧
      Completes (exec (.deviceSelfTestExtended c) s) s q k c.cid .selfTestInProgress 0 0 [] s ∧
      Completes (exec (.deviceSelfTestStop c) s) s q k c.cid .success 0 0 []
        (s.modMgmt fun m => { m with
          test := none, testLog := (⟨t.code, 1, 0, s.now / 3600000000⟩ :: m.testLog).take 20 })) ∧
    (∀ t seg unit passed, s.mgmt.test = some t → t.suspended = false → 1 ≤ seg → seg ≤ lastSegment t.code →
      unit < s.segUnits seg → (∀ j < seg, 1 ≤ j → ∀ v < s.segUnits j, j * 4096 + v ∈ t.done) →
      (∀ v < s.variant.clusters, s.clusterIdle v = true) →
      (∃ j v, 1 ≤ j ∧ j ≤ lastSegment t.code ∧ v < s.segUnits j ∧ j * 4096 + v ∉ t.done ++ [seg * 4096 + unit]) →
      exec (.selfTestSlice seg unit passed) s = .next (settle ((sliceFinds seg unit passed s).modMgmt fun m => { m with
        test := some { t with
          done := t.done ++ [seg * 4096 + unit]
          failed := if passed || t.failed != 0 then t.failed else seg } }))) ∧
    (∀ t seg unit passed bad, s.mgmt.test = some t → t.suspended = false → 1 ≤ seg → seg ≤ lastSegment t.code →
      unit < s.segUnits seg → (∀ v < s.variant.clusters, s.clusterIdle v = true) →
      (∀ j v, 1 ≤ j → j ≤ lastSegment t.code → v < s.segUnits j → j * 4096 + v ∈ t.done ++ [seg * 4096 + unit]) →
      (∀ j < seg, 1 ≤ j → ∀ v < s.segUnits j, j * 4096 + v ∈ t.done) →
      bad = (if passed || t.failed != 0 then t.failed else seg) →
      exec (.selfTestSlice seg unit passed) s = .next (settle ((sliceFinds seg unit passed s).modMgmt fun m => { m with
        test := none
        testLog := (⟨t.code, if bad = 0 then 0 else 7, bad, s.now / 3600000000⟩ :: m.testLog).take 20 }))) ∧
    (∀ seg unit passed, s.sliceRuns seg unit = false → exec (.selfTestSlice seg unit passed) s = .next s) ∧
    (∀ seg unit passed u, u = sliceFinds seg unit passed s →
      u.mgmt = s.mgmt ∧
      (passed = true → u = { s with
          media := { s.media with hist := u.media.hist, chans := u.media.chans }
          free := u.free } ∧
        (s.media.hist.length = 9 →
          u.media.hist.sum = s.media.hist.sum + (if seg = 3 then 1 else if seg = 7 then 6 else 0))) ∧
      (passed = false → unit < s.clus.length →
        (seg = 4 → (u.clu unit).cluFail = true ∨ (u.clu unit).lost = true) ∧
        (seg = 8 → ∃ a < 16, a ∈ (u.clu unit).failPend)) ∧
      (passed = false → seg = 7 → ∃ r ∈ u.media.retired, r.ch = unit / s.variant.diesPerChannel ∧
        r.die = unit % s.variant.diesPerChannel)) ∧
    (∀ t, s.mgmt.test = some t →
      exec .selfTestTimeout s = .next (settle (if t.code = 2 then s.modMgmt fun m => { m with
        test := none, testLog := (⟨2, 8, 0, s.now / 3600000000⟩ :: m.testLog).take 20 } else s)))

/-- The sled takes the command next from the admin queue. A piece whose offset and length are multiples of 4 KiB, that ends within
64 MiB and overlaps no piece, is added to the staging area; one that overlaps completes with Overlapping Range, one that is not
aligned or too far out with Invalid Field in Command. Firmware Commit of a slot above 1 completes with Invalid Firmware Slot.
Action 010b completes with success and changes nothing; 000b and the actions above it complete with Invalid Field in Command. Action
001b completes with Invalid Firmware Image, the boot flash untouched, when no whole image is staged or its verification fails. Else,
when the flash operations end well, the image stands in the pending area, the marker is set, and the command completes with success;
when they do not, the marker is clear and it completes with Internal Error. Outside the pending area the boot flash stays as it was.
The row of action 010b acts so for a command that gives 001b, which has a row of its own. -/
def Obligations.FirmwareIsDownloadedAndCommitted : Prop :=
  ∀ (s : State) (q : Sq) (k : Cq) (c : Cmd) (n off : Nat), AdminTurn s q k c →
    n = (c.cdw10.toNat + 1) * 4 → off = c.cdw11.toNat * 4 →
    (n % 4096 = 0 → off % 4096 = 0 → off + n ≤ 2 ^ 26 → (∀ p ∈ s.mgmt.fw, off + n ≤ p.1 ∨ p.1 + p.2.length ≤ off) →
      Completes (exec (.firmwareImageDownload c) s) s q k c.cid .success 0 0 []
        (s.modMgmt fun m => { m with fw := m.fw ++ [(off, slice c.data 0 n)] })) ∧
    (n % 4096 = 0 → off % 4096 = 0 → off + n ≤ 2 ^ 26 → (∃ p ∈ s.mgmt.fw, p.1 < off + n ∧ off < p.1 + p.2.length) →
      Completes (exec (.firmwareImageDownload c) s) s q k c.cid .overlappingRange 0 0 [] s) ∧
    (n % 4096 ≠ 0 ∨ off % 4096 ≠ 0 ∨ 2 ^ 26 < off + n →
      Completes (exec (.firmwareImageDownload c) s) s q k c.cid .invalidField 0 0 [] s) ∧
    (1 < bits c.cdw10.toNat 2 0 →
      Completes (exec (.firmwareCommitActivate c) s) s q k c.cid .invalidFwSlot 0 0 [] s ∧
      Completes (exec (.firmwareCommitReplaceActivate c) s) s q k c.cid .invalidFwSlot 0 0 [] s) ∧
    (bits c.cdw10.toNat 2 0 ≤ 1 → bits c.cdw10.toNat 5 3 = 1 ∨ bits c.cdw10.toNat 5 3 = 2 →
      Completes (exec (.firmwareCommitActivate c) s) s q k c.cid .success 0 0 [] s) ∧
    (bits c.cdw10.toNat 2 0 ≤ 1 → bits c.cdw10.toNat 5 3 ∈ [0, 3, 4, 5, 6, 7] →
      Completes (exec (.firmwareCommitActivate c) s) s q k c.cid .invalidField 0 0 [] s) ∧
    (bits c.cdw10.toNat 2 0 ≤ 1 → s.stagedImage = none →
      Completes (exec (.firmwareCommitReplaceActivate c) s) s q k c.cid .invalidFwImage 0 0 [] s) ∧
    (∀ b, bits c.cdw10.toNat 2 0 ≤ 1 → s.stagedImage = some b →
      match firmwareCheck (slice b) s.sec with
      | some _ => Completes (exec (.firmwareCommitReplaceActivate c) s) s q k c.cid .invalidFwImage 0 0 [] s
      | none => ∃ u,
        Completes (exec (.firmwareCommitReplaceActivate c) s) s q k c.cid (if c.ok then .success else .internalError) 0 0 [] u ∧
        u = { s with
          boot := { s.boot with flash := u.boot.flash, made := u.boot.made, spoiled := u.boot.spoiled, marker := c.ok }
          free := u.free } ∧
        (Mem.wf 0xFF s.boot.flash → b.length ≤ 2 ^ 26 →
          (c.ok = true → Mem.read 0xFF u.boot.flash (2 ^ 26) b.length = b ∧ u.free = s.free) ∧
          ∀ a n, a + n ≤ 2 ^ 26 ∨ 2 ^ 27 ≤ a → Mem.read 0xFF u.boot.flash a n = Mem.read 0xFF s.boot.flash a n))

/-- The sled takes the command next from the admin queue. Either Sanitize completes with success with the sanitize running, a
running self-test ended with result 9h, every namespace empty and under a new key, and no index, result set, stored object or
staged image left; the configuration in force, the start ledger, the error records and the clusters stay. SANITIZE_DONE ends it,
and the log page gives it as completed. Format NVM of one namespace to format 0 empties that namespace, gives it a new key with
Secure Erase Settings 1 or 2, removes its indexes, and leaves the other namespaces alone; another format completes with Invalid
Format. -/
def Obligations.SanitizeAndFormatDestroy : Prop :=
  ∀ (s : State) (q : Sq) (k : Cq) (c : Cmd),
    (AdminTurn s q k c → ∃ u v,
      Completes (exec (.sanitizeCryptoErase c) s) s q k c.cid .success 0 0 [] u ∧
      Completes (exec (.sanitizeBlockErase c) s) s q k c.cid .success 0 0 [] v ∧
      u.mgmt.sanitize = some (withDw10 c 2 0 4).cdw10.toNat ∧ v.mgmt.sanitize = some (withDw10 c 2 0 2).cdw10.toNat ∧
      ∀ w, w = u ∨ w = v →
        (∀ n ∈ w.nss, n.mem = []) ∧
        w.nss.map (fun n => (n.id, n.size, n.attached)) = s.nss.map (fun n => (n.id, n.size, n.attached)) ∧
        w.nss.map (·.keyGen) = (List.range s.nss.length).map (fun i => s.keyGens + 1 + i) ∧
        (∀ t, s.mgmt.test = some t → w.mgmt.testLog = (⟨t.code, 9, 0, s.now / 3600000000⟩ :: s.mgmt.testLog).take 20) ∧
        w.idx = [] ∧ w.res.sets = [] ∧ w.store = Store.reset ∧ w.media.map = [] ∧ w.media.wb = [] ∧ w.mgmt.test = none ∧
        (s.cfg.commit = none → w.cfg.image = none) ∧ w.cfg.conf = s.cfg.conf ∧ w.boot = s.boot ∧ w.ras = s.ras ∧ w.clus = s.clus ∧
        w.cad = s.cad ∧ w.pwr = s.pwr ∧ w.cis = s.cis ∧ w.lnk = s.lnk) ∧
    (∀ a, s.mgmt.sanitize = some a → exec .sanitizeDone s = .next (settle (s.modMgmt fun m => { m with
      sanitize := none, sanResume := false, sanStatus := 1 + a * 65536 }))) ∧
    (∀ n ses, AdminTurn s q k c → ses = bits c.cdw10.toNat 11 9 → c.nsid ≠ 0xFFFFFFFF →
      s.nss.filter (fun x => x.id == c.nsid) = [n] → bits c.cdw10.toNat 8 0 = 0 → bits c.cdw10.toNat 13 12 = 0 → ses ≤ 2 →
      ∃ u, Completes (exec (.formatNvm c) s) s q k c.cid .success 0 0 [] u ∧
        (∀ x ∈ u.nss, x.id = c.nsid → x.size = n.size ∧ x.keyGen = (if ses = 0 then n.keyGen else s.keyGens + 1) ∧
          ∀ a < n.size * 4096, Mem.get 0 x.mem a = 0) ∧
        u.nss.filter (fun x => x.id != c.nsid) = s.nss.filter (fun x => x.id != c.nsid) ∧
        u.idx = s.idx.filter (fun i => i.nsid != c.nsid) ∧ u.cfg = s.cfg ∧ u.clus = s.clus ∧ u.store = s.store ∧ u.mgmt.test = none) ∧
    (AdminTurn s q k c → (∃ n ∈ s.nss, n.id = c.nsid) → c.nsid ≠ 0xFFFFFFFF → bits c.cdw10.toNat 3 0 ≠ 0 →
      Completes (exec (.formatNvm c) s) s q k c.cid .invalidFormat 0 0 [] s)

/-- The sled takes the command next from the admin queue. A create whose NCAP is its NSZE and that fits in the exported capacity
completes with the lowest free NSID in dword 0, and adds the namespace, empty, detached and under a new key; with NCAP other than
NSZE it completes with Invalid Field in Command, beyond the capacity with Namespace Insufficient Capacity. An attach or detach
takes the controller list of 0001h alone. An attach makes the namespace attached; a detach, with no command in flight, ends its
attachment and its result sets and keeps its contents and indexes. A delete removes the namespace with its indexes and result sets
and leaves the others. Attach, detach and delete raise the Notice event unless it is masked. -/
def Obligations.NamespacesAreCreatedAndEnded : Prop :=
  ∀ (s : State) (q : Sq) (k : Cq) (c : Cmd), AdminTurn s q k c →
    (∀ i, field c.data 26 1 = 0 → field c.data 29 1 = 0 → field c.data 0 8 ≠ 0 → field c.data 8 8 = field c.data 0 8 →
      sumOf (s.nss.map (·.size)) + field c.data 0 8 ≤ s.variant.exportedBlocks →
      i < 128 → (∀ n ∈ s.nss, n.id ≠ i + 1) → (∀ j < i, ∃ n ∈ s.nss, n.id = j + 1) →
      Completes (exec (.namespaceCreate c) s) s q k c.cid .success (i + 1) 0 []
        ((s.modKeyGens (· + 1)).modNss (· ++ [⟨i + 1, field c.data 0 8, false, s.keyGens + 1, none, []⟩]))) ∧
    (field c.data 26 1 = 0 → field c.data 29 1 = 0 → field c.data 8 8 ≠ field c.data 0 8 →
      Completes (exec (.namespaceCreate c) s) s q k c.cid .invalidField 0 0 [] s) ∧
    (field c.data 26 1 = 0 → field c.data 29 1 = 0 → field c.data 0 8 ≠ 0 → field c.data 8 8 = field c.data 0 8 →
      s.variant.exportedBlocks < sumOf (s.nss.map (·.size)) + field c.data 0 8 →
      Completes (exec (.namespaceCreate c) s) s q k c.cid .nsCapacity 0 0 [] s) ∧
    (∀ n, s.nss.filter (fun x => x.id == c.nsid) = [n] → c.nsid ≠ 0xFFFFFFFF → field c.data 0 2 = 1 → field c.data 2 2 = 1 →
      (n.attached = false → Completes (exec (.namespaceAttach c) s) s q k c.cid .success 0 0 []
        (nsChanged (s.modNss (·.map fun x => if x.id == c.nsid then { x with attached := true } else x)))) ∧
      (n.attached = true → Completes (exec (.namespaceAttach c) s) s q k c.cid .nsAttached 0 0 [] s) ∧
      (n.attached = false → Completes (exec (.namespaceDetach c) s) s q k c.cid .nsNotAttached 0 0 [] s) ∧
      (n.attached = true → ∃ u, Completes (exec (.namespaceDetach c) s) s q k c.cid .success 0 0 [] u ∧
        u.nss = s.nss.map (fun x => if x.id == c.nsid then { x with attached := false } else x) ∧ u.idx = s.idx ∧
        u.res.sets = s.res.sets.filter (fun r => r.nsid != c.nsid) ∧ u.cfg = s.cfg ∧ u.store = s.store ∧ u.media = s.media)) ∧
    (∀ n, s.nss.filter (fun x => x.id == c.nsid) = [n] → c.nsid ≠ 0xFFFFFFFF → ¬(field c.data 0 2 = 1 ∧ field c.data 2 2 = 1) →
      Completes (exec (.namespaceAttach c) s) s q k c.cid .controllerList 0 0 [] s ∧
      Completes (exec (.namespaceDetach c) s) s q k c.cid .controllerList 0 0 [] s) ∧
    (∀ n, s.nss.filter (fun x => x.id == c.nsid) = [n] → c.nsid ≠ 0xFFFFFFFF →
      ∃ u, Completes (exec (.namespaceDelete c) s) s q k c.cid .success 0 0 [] u ∧
        u.nss = s.nss.filter (fun x => x.id != c.nsid) ∧ u.idx = s.idx.filter (fun i => i.nsid != c.nsid) ∧
        u.res.sets = s.res.sets.filter (fun r => r.nsid != c.nsid) ∧ u.cfg = s.cfg ∧ u.store = s.store)

/-- While the management processor runs, the Subsystem Health Status Poll answers the SMART Critical Warning and the composite
status, and the tunnel serves Get Log Page of C2h and C3h and Register Read of one RAS register; reading C3h ends the management
alert; another page or opcode is answered with its error status. NVMe-MI Send taken from the admin queue completes with success
and changes nothing. NVMe-MI Receive of a health status poll returns the Critical Warning and the composite temperature; of any
other request it completes with a free value in dword 0 (log 48). -/
def Obligations.ManagementBusReportsHealth : Prop :=
  ∀ (s : State) (q : Sq) (k : Cq) (c : Cmd),
    (s.answers = true →
      exec .subsystemHealthStatusPoll s =
        .next (settle (busReply (leBytes 1 s.criticalWarning ++ leBytes 2 s.compositeStatus) s))) ∧
    (∀ b n off, s.answers = true → bits c.cdw10.toNat 7 0 ∈ [0xC2, 0xC3] → logPage (bits c.cdw10.toNat 7 0) s = some b →
      n = (bits c.cdw10.toNat 31 16 + bits c.cdw11.toNat 15 0 * 65536 + 1) * 4 → off = c.cdw12.toNat + c.cdw13.toNat * 2 ^ 32 →
      off % 4 = 0 → off < b.length →
      exec (.nvmeMiAdminTunnel ⟨0x02, c⟩) s = .next (settle { busReply ([0, 0] ++ slice b off n) s with
        ras := if bits c.cdw10.toNat 7 0 = 0xC3 then { s.ras with alert := false } else s.ras })) ∧
    (s.answers = true → bits c.cdw10.toNat 7 0 ∉ [0xC2, 0xC3] →
      exec (.nvmeMiAdminTunnel ⟨0x02, c⟩) s = .next (settle (busReply (leBytes 2 Status.invalidLogPage.code) s))) ∧
    (∀ off, s.answers = true → blockOf c.cdw10.toNat = some (.ras, off) → regCheck c s = none → bits c.cdw11.toNat 10 0 = 1 →
      exec (.nvmeMiAdminTunnel ⟨0xDA, c⟩) s =
        .next (settle (busReply ([0, 0] ++ leBytes 4 (busRead c.cdw10.toNat 4 s).1) (busRead c.cdw10.toNat 4 s).2))) ∧
    (∀ o : BitVec 8, s.answers = true → o ≠ 0x02 → o ≠ 0xDA →
      exec (.nvmeMiAdminTunnel ⟨o, c⟩) s = .next (settle (busReply (leBytes 2 Status.invalidOpcode.code) s))) ∧
    (AdminTurn s q k c →
      Completes (exec (.nvmeMiSend c) s) s q k c.cid .success 0 0 [] s ∧
      (bits c.cdw11.toNat 7 0 = 1 →
        Completes (exec (.nvmeMiReceive c) s) s q k c.cid .success 0 0
          [.data 0 c.cid 0 s.nvm.pci.relaxed (leBytes 1 s.criticalWarning ++ leBytes 2 s.composite)] s) ∧
      (bits c.cdw11.toNat 7 0 ≠ 1 →
        Completes (exec (.nvmeMiReceive c) s) s q k c.cid .success ((Config.freeWord s.free).toNat % 2 ^ 32) 0 []
          (s.modFree (· + 1))))

/-- The sled takes the command next from the admin queue. A Register Read of one register in reach completes with its value in the
buffer and in dword 0, with the effect of the read on the register space and no other. A Register Write of GEN_FAULT sets ATTN to
bit 0 of the data and changes nothing else. An OFFSET that is no multiple of 4 or lies beyond the space completes either command
with Invalid Field in Command pointing at dword 10, an NREG of 0 or above 1,024 pointing at dword 11, and no register is accessed. The
first of the reserved dwords 2 and 3 that is not zero completes them, and the other commands of the vendor's own admin set, with
Invalid Field in Command pointing at it, and nothing else changes. -/
def Obligations.RegisterCommandsAccessRegisters : Prop :=
  ∀ (s : State) (q : Sq) (k : Cq) (c : Cmd), AdminTurn s q k c →
    (∀ (i : Instr) (d : Nat), i ∈ [Instr.registerRead c, .registerWrite c, .configurationStage c, .configurationCheck c,
        .configurationCommit c, .configurationDiscard c, .modelInstall c, .modelRemove c, .programInstall c, .attestCertificates c,
        .attestQuote c, .attestOwner c, .cisternTest c, .startLedgerClear c] →
      c.cdw2 ≠ 0 ∧ d = 2 ∨ c.cdw2 = 0 ∧ c.cdw3 ≠ 0 ∧ d = 3 → Completes (exec i s) s q k c.cid .invalidField d 0 [] s) ∧
    (regCheck c s = none → bits c.cdw11.toNat 10 0 = 1 →
      Completes (exec (.registerRead c) s) s q k c.cid .success (busRead c.cdw10.toNat 4 s).1 0
        [.data 0 c.cid 0 s.nvm.pci.relaxed (leBytes 4 (busRead c.cdw10.toNat 4 s).1)] (busRead c.cdw10.toNat 4 s).2) ∧
    (regCheck c s = none → c.cdw10 = 0x0C → bits c.cdw11.toNat 10 0 = 1 →
      Completes (exec (.registerWrite c) s) s q k c.cid .success 0 0 []
        (s.modGen fun g => { g with attn := bit (field c.data 0 4) 0 })) ∧
    (c.cdw2 = 0 → c.cdw3 = 0 → c.cdw10.toNat % 4 ≠ 0 ∨ 0x4000000 ≤ c.cdw10.toNat →
      Completes (exec (.registerRead c) s) s q k c.cid .invalidField 10 0 [] s ∧
      Completes (exec (.registerWrite c) s) s q k c.cid .invalidField 10 0 [] s) ∧
    (c.cdw2 = 0 → c.cdw3 = 0 → c.cdw10.toNat % 4 = 0 → c.cdw10.toNat < 0x4000000 → bits c.cdw11.toNat 10 0 = 0 ∨ 1024 < bits c.cdw11.toNat 10 0 →
      Completes (exec (.registerRead c) s) s q k c.cid .invalidField 11 0 [] s ∧
      Completes (exec (.registerWrite c) s) s q k c.cid .invalidField 11 0 [] s)

/-- The sled takes the command next from the admin queue, its reserved fields zero. Certificates completes with the certificate
chain in the buffer, Quote with the quote over the 32 bytes of the nonce. A buffer that is too short completes with Invalid Field
in Command and the length needed in dword 1. Owner completes with Access Denied and changes nothing when the record is refused;
when it is accepted it completes with SEC_STAT in dword 0, and only the security state has changed: OWNERSEQ is RSEQ, and the
owner, SIGNREQ and DEBUG are those of the record, or for ROP 2 none, 0 and 2. -/
def Obligations.AttestGivesCertificatesQuoteAndOwner : Prop :=
  ∀ (s : State) (q : Sq) (k : Cq) (c : Cmd), AdminTurn s q k c → c.cdw10.toNat < 16 → c.cdw11.toNat ≤ 65536 →
    c.cdw2 = 0 → c.cdw3 = 0 → c.cdw12 = 0 → c.cdw13 = 0 → c.cdw14 = 0 → c.cdw15 = 0 →
    (certChain.length ≤ c.cdw11.toNat →
      Completes (exec (.attestCertificates c) s) s q k c.cid .success 0 0 [.data 0 c.cid 0 s.nvm.pci.relaxed certChain] s) ∧
    (c.cdw11.toNat < certChain.length →
      Completes (exec (.attestCertificates c) s) s q k c.cid .invalidField 11 certChain.length [] s) ∧
    (640 ≤ c.cdw11.toNat →
      Completes (exec (.attestQuote c) s) s q k c.cid .success 0 0 [.data 0 c.cid 0 s.nvm.pci.relaxed (quote (slice c.data 0 32) s)] s) ∧
    (c.cdw11.toNat < 640 → Completes (exec (.attestQuote c) s) s q k c.cid .invalidField 11 640 [] s) ∧
    (c.cdw11.toNat < 272 → Completes (exec (.attestOwner c) s) s q k c.cid .invalidField 11 272 [] s) ∧
    (272 ≤ c.cdw11.toNat →
      match ownerRecord (slice c.data 0 272) s with
      | none => Completes (exec (.attestOwner c) s) s q k c.cid .accessDenied 0 0 [] s
      | some u => Completes (exec (.attestOwner c) s) s q k c.cid .success u.sec.stat 0 [] u ∧
          u = { s with sec := { s.sec with
            ownerSeq := field (slice c.data 0 272) 8 8
            owner := if field (slice c.data 0 272) 5 1 = 1 then some (slice (slice c.data 0 272) 0x50 57) else none
            signreq := field (slice c.data 0 272) 5 1 == 1 && bit (field (slice c.data 0 272) 7 1) 0
            debug := if field (slice c.data 0 272) 5 1 = 1 then field (slice c.data 0 272) 6 1 else 2
            meas := u.sec.meas } })

/-- The sled takes the command next from the admin queue, its reserved dwords zero. A Stage whose whole list has the form of Table
15.1 completes with the STAGEID and the number of settings that differ, and leaves the changed image, unchecked, as the staging
image; with an item of the wrong form it completes with Invalid Field in Command pointing at the item, and the image is unchanged.
A Check without an image completes with Command Sequence Error; with one it records the failures, and completes with success or
Configuration Check Failed and their number. A Commit without an image or of another STAGEID completes with Command Sequence
Error; one whose image fails a rule completes with Configuration Check Failed, the number of failures and CFGGEN; else it stays in
flight, and drains the partitions it changes until DRAIN milliseconds have passed, 1,000 for a DRAIN of 0. -/
def Obligations.ConfigurationIsStagedCheckedAndDiscarded : Prop :=
  ∀ (s : State) (q : Sq) (k : Cq) (c : Cmd), AdminTurn s q k c → c.cdw2 = 0 → c.cdw3 = 0 →
    (∀ fresh id, c.cdw12 = 0 → c.cdw13 = 0 → c.cdw14 = 0 → c.cdw15 = 0 → c.cdw11.toNat < 2 → 8 ≤ c.cdw10.toNat →
      c.cdw10.toNat ≤ 65536 → c.cdw10.toNat % 8 = 0 → fresh = (bit c.cdw11.toNat 0 || s.cfg.image.isNone) →
      id = (if fresh then (if s.cfg.lastId = 0xFFFFFFFF then 1 else s.cfg.lastId + 1) else s.cfg.stageId) →
      match applyItems (c.cdw10.toNat / 8) 0 (slice c.data 0 c.cdw10.toNat)
          (if fresh then s.cfg.conf else s.cfg.image.getD s.cfg.conf) with
      | .ok img => Completes (exec (.configurationStage c) s) s q k c.cid .success id (changed img s.cfg.conf) []
          (s.modCfg fun g => { g with
            image := some img, stageId := id, lastId := if fresh then id else g.lastId, checked := 1 })
      | .error off => Completes (exec (.configurationStage c) s) s q k c.cid .invalidField (0x80000000 + off) 0 [] s) ∧
    (c.cdw10 = 0 → c.cdw11 = 0 → c.cdw12 = 0 → c.cdw13 = 0 → c.cdw14 = 0 → c.cdw15 = 0 →
      (s.cfg.image = none → Completes (exec (.configurationCheck c) s) s q k c.cid .commandSequence 0 0 [] s) ∧
      (∀ img, s.cfg.image = some img →
        Completes (exec (.configurationCheck c) s) s q k c.cid (if checkImage s img = [] then .success else .checkFailed)
          (checkImage s img).length 0 []
          (s.modCfg fun g => { g with
            fails := (checkImage s img).take 128, nfail := (checkImage s img).length
            checked := if checkImage s img = [] then 2 else 3 }))) ∧
    (c.cdw11.toNat < 65536 → c.cdw12 = 0 → c.cdw13 = 0 → c.cdw14 = 0 → c.cdw15 = 0 →
      (s.cfg.image = none ∨ c.cdw10.toNat ≠ s.cfg.stageId →
        Completes (exec (.configurationCommit c) s) s q k c.cid .commandSequence 0 0 [] s) ∧
      (∀ img, s.cfg.image = some img → c.cdw10.toNat = s.cfg.stageId → checkImage s img ≠ [] →
        Completes (exec (.configurationCommit c) s) s q k c.cid .checkFailed (checkImage s img).length s.cfg.gen []
          (s.modCfg fun g => { g with
            fails := (checkImage s img).take 128, nfail := (checkImage s img).length, checked := 3 })) ∧
      (∀ img, s.cfg.image = some img → c.cdw10.toNat = s.cfg.stageId → checkImage s img = [] →
        (∀ p < 8, (s.part p).sel = none) →
        Pends (exec (.configurationCommit c) s) s q 0xC8 c .executing []
          (s.modCfg fun g => { g with
            fails := [], nfail := 0, checked := 4
            commit := some ⟨0, c.cid, .draining, drainedBy s img,
              s.now + 1000 * (if c.cdw11.toNat = 0 then 1000 else c.cdw11.toNat)⟩ })))

/-- The sled takes a Configuration Discard next from the admin queue, its reserved dwords zero. It completes with success, and
there is no staging image, whether or not there was one. Nothing else changes. -/
def Obligations.DiscardEndsStagingImage : Prop :=
  ∀ (s : State) (q : Sq) (k : Cq) (c : Cmd), AdminTurn s q k c →
    c.cdw2 = 0 → c.cdw3 = 0 → c.cdw10 = 0 → c.cdw11 = 0 → c.cdw12 = 0 → c.cdw13 = 0 → c.cdw14 = 0 → c.cdw15 = 0 →
    Completes (exec (.configurationDiscard c) s) s q k c.cid .success 0 0 []
      (s.modCfg fun g => { g with image := none, stageId := 0, checked := 0 })

/-- With no drained partition running a job or in reset, the end of the drain checks the image again: with a failure the commit
completes with Configuration Check Failed, the number of failures and CFGGEN, and nothing else but the Check Result page changes;
without one the commit record is written. Once the record is durable the commit waits for the frame marker. There, which on the
surrogate is the period after the last of a frame, the image becomes the configuration in force, CFGGEN advances, no staging image is
left, and the commit completes with success, the number of settings that changed and the new CFGGEN. While drained partitions run no
job, the expiry of DRAIN tears down nothing. -/
def Obligations.CommitsTakeEffectAtFrameMarker : Prop :=
  ∀ (s : State) (q : Sq) (k : Cq) (f : Flight) (m : Commit) (img : Conf), s.carries q k f → f.phase = .executing → f.opc = 0xC8 →
    q.id = 0 → s.cfg.commit = some m → s.cfg.image = some img → m.sqid = 0 → m.cid = f.cid →
    (m.phase = .draining → s.drainEnded m = true → checkImage s img ≠ [] →
      Finishes (exec .commitDrainEnd s) s q k f .checkFailed (checkImage s img).length s.cfg.gen []
        (s.modCfg fun g => { g with
          fails := (checkImage s img).take 128, nfail := (checkImage s img).length, checked := 3, commit := none })) ∧
    (m.phase = .draining → s.drainEnded m = true → checkImage s img = [] →
      exec .commitDrainEnd s = .next (s.modCfg fun g => { g with
        fails := [], nfail := 0, checked := 4, commit := some { m with phase := .recording } })) ∧
    (m.phase = .recording → exec .commitRecordDurable s =
      .next (s.modCfg fun g => { g with commit := some { m with phase := .durable } })) ∧
    (m.phase = .durable → s.powered = true → s.cad.src = 2 ∨ s.cad.src = 3 → 15 ≤ s.cad.pidx → s.nvm.aers = [] →
      (∀ x ∈ s.parts, ∀ l ∈ x.queues, l = []) → s.pwr.pendingPs = none → ∃ t, exec .surrogatePeriod s = .next t ∧
        t.cfg.conf = img ∧ t.cfg.gen = (s.cfg.gen + 1) % 2 ^ 32 ∧ t.cfg.image = none ∧ t.cfg.commit = none ∧ t.nvm.flights = [] ∧
        t.hostWrites = s.hostWrites ++ completion k 0 q.head f.cid .success (changed s.cfg.conf img) t.cfg.gen) ∧
    (m.phase = .draining → s.drainEnded m = true → exec .commitDrainTimeout s = .next s) ∧
    (m.phase = .draining → s.drainEnded m = false → exec .commitDrainEnd s = .next s)

/-- The sled takes the command next from the admin queue, its reserved dwords zero and the media not read-only. A FIRST piece of a
Model Install under a free identifier, with LAST 0, starts a staging with that piece and completes with success; without FIRST and
without a staging it completes with Command Sequence Error. A Program Install of a well-formed image whose signatures are accepted
completes with the program in the store under its identifier and MEAS3 extended; with a signature refused it completes with Access
Denied, and an image that is not well formed with Invalid Field in Command pointing at dword 13. A Model Remove of an object of the store completes with the object gone from the store and from the queue of loads; of
none it completes with Invalid Field in Command pointing at dword 10. -/
def Obligations.StoreHoldsModelsAndPrograms : Prop :=
  ∀ (s : State) (q : Sq) (k : Cq) (c : Cmd), AdminTurn s q k c → c.cdw2 = 0 → c.cdw3 = 0 → c.cdw15 = 0 →
    (∀ id off n, id = c.cdw10.toNat → off = c.cdw11.toNat * 4096 → n = c.cdw12.toNat * 4096 → id ≠ 0 →
      (∀ o, s.stored? id = some o → o.model = true) → 1 ≤ c.cdw12.toNat → c.cdw12.toNat ≤ 512 → s.media.readOnly = false →
      (c.cdw13.toNat ∈ [1, 5] → c.cdw14 ≠ 0 → off + n ≤ c.cdw14.toNat * 4096 →
        (s.store.staged.filter fun x => x.id != id).length < 4 →
        Completes (exec (.modelInstall c) s) s q k c.cid .success 0 0 []
          (s.modStore fun t => { t with
            staged := (t.staged.filter fun x => x.id != id) ++
              [⟨id, c.cdw14.toNat * 4096, bit c.cdw13.toNat 2, [(off, slice c.data 0 n)]⟩]
            installing := (t.installing.filter (· != id)) ++ [id] })) ∧
      (c.cdw13.toNat ∈ [0, 2, 4, 6] → s.store.staged.find? (fun x => x.id == id) = none →
        Completes (exec (.modelInstall c) s) s q k c.cid .commandSequence 0 0 [] s)) ∧
    (∀ id n, id = c.cdw10.toNat → n = c.cdw11.toNat → c.cdw12 = 0 → c.cdw13 = 0 → c.cdw14 = 0 → id ≠ 0 →
      (∀ o, s.stored? id = some o → o.model = false) → storeFull s id n = false → 1 ≤ n → n ≤ 2 ^ 21 → s.media.readOnly = false →
      if programForm (slice c.data 0 n) = false then Completes (exec (.programInstall c) s) s q k c.cid .invalidField 13 0 [] s
      else if signatureOk s.sec (slice c.data 0 n) = true then
        Completes (exec (.programInstall c) s) s q k c.cid .success 0 0 []
          (extendMeas 3 (shake256 (slice c.data 0 n)) (s.modStore fun t => { t with
            objs := sortBy (·.id) ((t.objs.filter fun x => x.id != id) ++ [⟨id, false, slice c.data 0 n, false⟩]) }))
      else
        Completes (exec (.programInstall c) s) s q k c.cid .accessDenied 0 0 []
          (s.modSec fun x => { x with denied := sat32 x.denied })) ∧
    (c.cdw11 = 0 → c.cdw12 = 0 → c.cdw13 = 0 → c.cdw14 = 0 →
      (∀ o, s.stored? c.cdw10.toNat = some o → s.hot? c.cdw10.toNat = none →
        Completes (exec (.modelRemove c) s) s q k c.cid .success 0 0 []
          (extendMeas 3 (shake256 (leBytes 4 c.cdw10.toNat)) (s.modStore fun t => { t with
            objs := t.objs.filter fun o => o.id != c.cdw10.toNat, loadQ := t.loadQ.filter (· != c.cdw10.toNat) }))) ∧
      (s.stored? c.cdw10.toNat = none →
        Completes (exec (.modelRemove c) s) s q k c.cid .invalidField 10 0 [] s))

/-- The sled takes the command next from the admin queue, its reserved dwords zero. Start Ledger Clear completes with FAILS as it
was in dword 0, and FAILS is 0; with HIST the entries and JGAP are cleared as well; nothing else changes. A Cistern Test joins the
test that runs; without one it starts a test of the strings it selects, and isolates the first of them, a string in service whose
loss the posted data allows. It stays in flight until the test ends. -/
def Obligations.LedgerClearAndCisternTestRun : Prop :=
  ∀ (s : State) (q : Sq) (k : Cq) (c : Cmd), AdminTurn s q k c →
    c.cdw2 = 0 → c.cdw3 = 0 → c.cdw11 = 0 → c.cdw12 = 0 → c.cdw13 = 0 → c.cdw14 = 0 → c.cdw15 = 0 →
    (c.cdw10.toNat < 2 →
      Completes (exec (.startLedgerClear c) s) s q k c.cid .success s.boot.fails 0 []
        (s.modBoot fun b => { b with
          fails := 0
          entries := if bit c.cdw10.toNat 0 then [] else b.entries
          jgap := if bit c.cdw10.toNat 0 then 0 else b.jgap })) ∧
    (2 ≤ c.cdw10.toNat → Completes (exec (.startLedgerClear c) s) s q k c.cid .invalidField 10 0 [] s) ∧
    (512 ≤ c.cdw10.toNat → Completes (exec (.cisternTest c) s) s q k c.cid .invalidField 10 0 [] s) ∧
    (∀ t, c.cdw10.toNat < 512 → s.cis.test = some t →
      Pends (exec (.cisternTest c) s) s q 0xE8 c .executing []
        (s.modCis fun x => { x with test := some { t with cmds := t.cmds ++ [(0, c.cid)] } })) ∧
    (∀ i rest x, c.cdw10.toNat < 512 → s.cis.test = none →
      (if c.cdw10.toNat = 0 then List.range 9 else (List.range 9).filter fun i => bit c.cdw10.toNat i) = i :: rest →
      s.cis.strings[i]? = some x → x.st = 0 → s.held ≤ allowWithout i s →
      ∃ u, Pends (exec (.cisternTest c) s) s q 0xE8 c .executing [] u ∧
        u.cis.test = some { current := some i, left := rest, failed := [], cmds := [(0, c.cid)], byReg := false
                            full := c.cdw10.toNat == 0 || c.cdw10.toNat == 511 } ∧
        u.cis.strings = s.cis.strings.modify i (fun y => { y with st := 2, was := y.st }) ∧
        u.nss = s.nss ∧ u.boot = s.boot ∧ u.cfg = s.cfg ∧ u.media = s.media ∧ u.clus = s.clus)

/-- A command is in flight from a queue, and rests. Whatever command the host submits to that queue with its CID, the sled
completes it with Command ID Conflict after the entry and the message, and takes no action for it: the earlier command is in
flight as before, and nothing else changes but the queues' places, the arbitration and the Error Information log. As a row this is
said of a Read. -/
def Obligations.CidConflictLeavesEarlierCommand : Prop :=
  ∀ (s : State) (q : Sq) (k : Cq) (f : Flight) (opc : BitVec 8) (c : Cmd), s.carries q k f → s.fetching = true →
    f.opc ≠ 0xF0 → (f.opc = 0x01 → (∃ w ∈ s.media.wb, w.posted = false ∧ w.sqid = f.sqid ∧ w.cid = f.cid) ∧
      s.cis.allow * 2 ^ 30 < s.held + 4096) → 1 < q.size → q.prio ≤ 3 → q.id ≠ 0 → c.sqid = q.id → c.cid = f.cid →
    (∃ t, settle (submit opc c s) = t ∧ t.nvm.flights = [f] ∧
      t = { s with
        nvm := s.nvm.withFront t.nvm
        hostWrites := s.hostWrites ++ completion k q.id ((q.head + 1) % q.size) c.cid .cidConflict 0 0 } ∧
      t.nvm.errCount = s.nvm.errCount + 1 ∧ t.nvm.orders = s.nvm.orders ∧
      t.nvm.cqs = s.nvm.cqs.map (fun x => if x.id == k.id then { x with tail := (x.tail + 1) % x.size } else x)) ∧
    exec (.read c) s = .next (settle (submit 0x02 c s))

/-- The sled takes the command next from an I/O queue. A Read of at most 512 blocks in an attached namespace, none of them lost,
completes with the blocks in the data buffer, and changes nothing but the map cache and what it evicts; one that covers a lost
block completes with Unrecovered Read Error. A Write puts its data into the namespace and completes at once while the allowance
holds its data; otherwise it stays in flight. Write Zeroes, and Dataset Management with the Deallocate attribute, make the blocks
of their ranges read as zero; without the attribute nothing changes. Writes are refused with Namespace is Write Protected when the
media is read-only, with Access Denied within an index extent, with LBA Out of Range past the end. Flush completes and changes
nothing. An NSID without an attached namespace completes with Invalid Namespace or Format. -/
def Obligations.BlockCommandsReadAndChangeBlocks : Prop :=
  ∀ (s : State) (q : Sq) (k : Cq) (c : Cmd) (m : Ns) (a n : Nat), IoTurn s q k c →
    a = c.cdw10.toNat + c.cdw11.toNat * 2 ^ 32 → n = c.cdw12.toNat % 65536 + 1 →
    (s.ns? c.nsid = some m → bits c.flags.toNat 1 0 = 0 → psdtOf c = 0 ∨ psdtOf c = 1 ∧ n * 4096 ≤ c.bufLen → n ≤ 512 → a + n ≤ m.size →
      ((∀ l ∈ s.lost c.nsid, ¬(a ≤ l ∧ l < a + n)) →
        ∃ u, Completes (exec (.read c) s) s q k c.cid .success 0 0
            [.data q.id c.cid 0 s.nvm.pci.relaxed ((List.range n).flatMap fun i => s.block c.nsid (a + i))] u ∧
          u = lookupRange c.nsid a n s ∧ u.nss = s.nss ∧ u.idx = s.idx ∧ u.media.map = s.media.map ∧ u.media.wb = s.media.wb ∧
          u.cfg = s.cfg ∧ u.clus = s.clus ∧ u.boot = s.boot) ∧
      ((∃ l ∈ s.lost c.nsid, a ≤ l ∧ l < a + n) →
        Completes (exec (.read c) s) s q k c.cid .unrecoveredRead 0 0 [] (lookupRange c.nsid a n s)) ∧
      (s.media.readOnly = false → s.hitsExtent c.nsid a n = false →
        ∀ held, held = s.held - 4096 *
            (s.media.wb.filter fun w => w.posted && w.nsid == c.nsid && decide (a ≤ w.lba ∧ w.lba < a + n)).length + n * 4096 →
        ∃ u, u.nss = s.nss.map (fun x => if x.id == c.nsid then
            { x with mem := Mem.write 0 x.mem (a * 4096) (slice c.data 0 (n * 4096)) } else x) ∧
          u.boot = { s.boot with clean := false } ∧ u.idx = s.idx ∧ u.cfg = s.cfg ∧ u.clus = s.clus ∧
          (held ≤ s.cis.allow * 2 ^ 30 → Completes (exec (.write c) s) s q k c.cid .success 0 0 [] u ∧ u.held = held) ∧
          (s.cis.allow * 2 ^ 30 < held → Pends (exec (.write c) s) s q 0x01 c .executing [] u ∧ u.held = held - n * 4096))) ∧
    (s.ns? c.nsid = some m → bits c.flags.toNat 1 0 = 0 → psdtOf c < 2 → a + n ≤ m.size → s.media.readOnly = false →
      s.hitsExtent c.nsid a n = false → ∃ u, Completes (exec (.writeZeroes c) s) s q k c.cid .success 0 0 [] u ∧
        u.nss = s.nss.map (fun x => if x.id == c.nsid then { x with mem := Mem.clear x.mem (a * 4096) (n * 4096) } else x) ∧
        u.boot = { s.boot with clean := false } ∧ u.idx = s.idx ∧ u.cfg = s.cfg ∧ u.clus = s.clus) ∧
    (s.ns? c.nsid = some m → bits c.flags.toNat 1 0 = 0 →
      psdtOf c = 0 ∨ psdtOf c = 1 ∧ 16 * (dsmRanges c).length ≤ c.bufLen → (∀ r ∈ dsmRanges c, r.1 + r.2 ≤ m.size) →
      (bit c.cdw11.toNat 2 = false → Completes (exec (.datasetManagement c) s) s q k c.cid .success 0 0 [] s) ∧
      (bit c.cdw11.toNat 2 = true → s.media.readOnly = false → (∀ r ∈ dsmRanges c, s.hitsExtent c.nsid r.1 r.2 = false) →
        ∃ u, Completes (exec (.datasetManagement c) s) s q k c.cid .success 0 0 [] u ∧
          u.nss = (dsmRanges c).foldl (fun l r => l.map fun x =>
            if x.id == c.nsid then { x with mem := Mem.clear x.mem (r.1 * 4096) (r.2 * 4096) } else x) s.nss ∧
          u.boot = { s.boot with clean := false } ∧ u.idx = s.idx ∧ u.cfg = s.cfg ∧ u.clus = s.clus)) ∧
    (s.ns? c.nsid = some m → bits c.flags.toNat 1 0 = 0 → psdtOf c = 0 ∨ psdtOf c = 1 ∧ n * 4096 ≤ c.bufLen → n ≤ 512 →
      (a + n ≤ m.size → s.media.readOnly = true →
        Completes (exec (.write c) s) s q k c.cid .writeProtected 0 0 [] s ∧
        Completes (exec (.writeZeroes c) s) s q k c.cid .writeProtected 0 0 [] s) ∧
      (a + n ≤ m.size → s.media.readOnly = false → s.hitsExtent c.nsid a n = true →
        Completes (exec (.write c) s) s q k c.cid .accessDenied 0 0 [] s ∧
        Completes (exec (.writeZeroes c) s) s q k c.cid .accessDenied 0 0 [] s) ∧
      (m.size < a + n →
        Completes (exec (.read c) s) s q k c.cid .lbaOutOfRange 0 0 [] s ∧
        Completes (exec (.write c) s) s q k c.cid .lbaOutOfRange 0 0 [] s ∧
        Completes (exec (.writeZeroes c) s) s q k c.cid .lbaOutOfRange 0 0 [] s)) ∧
    (s.ns? c.nsid = none →
      Completes (exec (.read c) s) s q k c.cid .invalidNamespace 0 0 [] s ∧
      Completes (exec (.write c) s) s q k c.cid .invalidNamespace 0 0 [] s ∧
      Completes (exec (.writeZeroes c) s) s q k c.cid .invalidNamespace 0 0 [] s ∧
      Completes (exec (.datasetManagement c) s) s q k c.cid .invalidNamespace 0 0 [] s) ∧
    (c.nsid = 0xFFFFFFFF ∨ (s.ns? c.nsid).isSome → Completes (exec (.flush c) s) s q k c.cid .success 0 0 [] s)

/-- The sled takes the command next from an I/O queue. Scan, Embed, Score, Search, Near Join, Index Insert, Job Run and Recall
Estimate that pass the checks of their fetch, for a partition that runs a job, stay in flight with their job at the end of job
queue JQ of PART, with the deadline, DEADLINE and the time of the fetch; a result set that a stage reads with SRC 2 is in use by
the command from then on. A command that fails a check at a dword completes with Invalid Field in Command pointing at it, and
changes nothing. -/
def Obligations.QueryCommandsEnterJobQueues : Prop :=
  ∀ (s : State) (q : Sq) (k : Cq) (c : Cmd) (f : Cmd → Instr) (opc : BitVec 8), IoTurn s q k c →
    (f, opc) ∈ [(Instr.scan, 0x82#8), (Instr.embed, 0x87#8), (Instr.score, 0x8A#8), (Instr.search, 0x8F#8), (Instr.nearJoin, 0x93#8),
      (Instr.indexInsert, 0x95#8), (Instr.jobRun, 0xA7#8), (Instr.recallEstimate, 0xB2#8)] →
    (checkQuery opc.toNat c s = none → (s.part (partOf c)).resetting = false → (s.part (partOf c)).idle = false →
      Pends (exec (f c) s) s q opc c .job []
        (modPart (partOf c) (fun p => { p with
            queues := p.queues.modify (jqOf c) (· ++ [{
              sqid := q.id, cid := c.cid, order := s.nvm.orders, opc := opc.toNat, cmd := c, part := partOf c, jq := jqOf c
              dl := dlOf c, deadline := c.cdw14.toNat, fetched := s.now, kind := .command }]) })
          (((stagesOf c).filter fun d => d.src == 2).foldl (fun s d => useSet d.handle (q.id, c.cid) s) s))) ∧
    (∀ d, checkQuery opc.toNat c s = some (.dword d) →
      Completes (exec (f c) s) s q k c.cid .invalidField d 0 [] s)

/-- The sled takes the command next from an I/O queue, its checks passed. A Result Fetch of a live result set from the first held
byte on, delivered by the Reservoir, completes with the bytes of the stream from CDW14 times 4,096, at most OUTLEN times 4,096, at
the start of the data buffer and their number in dword 1; the set stays. An offset below the first held byte completes with
Invalid Field in Command pointing at dword 14. A Result Release of a live set that no command uses completes with success, and no
such set is left; its memory is free again. A handle that is not live completes either with Invalid Field in Command pointing at
dword 13. -/
def Obligations.ResultSetsAreFetchedAndReleased : Prop :=
  ∀ (s : State) (q : Sq) (k : Cq) (c : Cmd) (h : Nat), IoTurn s q k c → h = bits c.cdw13.toNat 15 0 →
    (∀ r off b, checkQuery 0xAA c s = none → s.resultSet? c.nsid h = some r → off = c.cdw14.toNat * 4096 →
      (off < r.first → Completes (exec (.resultFetch c) s) s q k c.cid .invalidField 14 0 [] s) ∧
      (r.first ≤ off → b = (r.bytes.drop (off - r.first)).take (outlenOf c * 4096) → c.ok = true ∨ b = [] →
        (∀ x ∈ s.res.sets, x.released = false ∧ x.users = []) →
        ∃ u, Completes (exec (.resultFetch c) s) s q k c.cid .success 0 b.length
            (if b = [] then [] else [.data q.id c.cid 0 s.nvm.pci.relaxed b]) u ∧
          u = { s with resv := u.resv } ∧ u.resv.mem = s.resv.mem)) ∧
    (checkQuery 0xAA c s = none → s.resultSet? c.nsid h = none →
      Completes (exec (.resultFetch c) s) s q k c.cid .invalidField 13 0 [] s) ∧
    (∀ r, checkQuery 0xAC c s = none → s.resultSet? c.nsid h = some r →
      (∀ x ∈ s.res.sets, x.released = false ∧ x.users = []) →
      ∃ u, Completes (exec (.resultRelease c) s) s q k c.cid .success 0 0 [] u ∧
        u = { s with res := u.res, resv := u.resv } ∧ u.res.sets = s.res.sets.filter (fun x => x.handle != h) ∧
        u.resv = { s.resv with units := s.resv.units.filter fun x => !(x.cls == 0 && x.key == h) }) ∧
    (checkQuery 0xAC c s = none → s.resultSet? c.nsid h = none →
      Completes (exec (.resultRelease c) s) s q k c.cid .invalidField 13 0 [] s)

/-- The sled takes the command next from its queue, its checks passed. Index Delete marks each item that is live or pending and
completes with the number not found and the number marked. Index Publish that takes no entry completes with bit 0 of dword 0 and
the current epoch; one that takes entries begins, when nothing else works on the index, and its link job enters job queue 0 of the
maintenance partition. Index Compact enters its job queue, and with no plot at CDW14 completes with Invalid Field in Command
pointing at dword 14. Index Create adds the index, in training, with its job on job queue 0 of its partition. Index Drop of an
index that no command names completes at once, and the index, its copies in the Reservoir and its extent's contents are gone; of an
identifier without an index it completes with Invalid Field in Command pointing at dword 10. A reserved dword 2 or 3 that is not zero
completes Index Create and Index Drop so, pointing at it. The job queues are those of partitions that run a job. -/
def Obligations.IndexCommandsChangeIndexes : Prop :=
  ∀ (s : State) (q : Sq) (k : Cq) (c : Cmd),
    (∀ ix r, IoTurn s q k c → checkQuery 0x99 c s = none → s.index? c.nsid c.cdw13.toNat = some ix →
      r = ((deleteIds c).foldl (fun (a : Index × Nat) id =>
        ((deleteItem a.1 (q.id, c.cid) s.nvm.orders id).1, a.2 + b2n (deleteItem a.1 (q.id, c.cid) s.nvm.orders id).2)) (ix, 0)) →
      Completes (exec (.indexDelete c) s) s q k c.cid .success (inlenOf c / 8 - r.2) r.2 []
        (modIndex c.nsid c.cdw13.toNat (fun _ => { r.1 with pend := r.1.pend.map fun e => { e with done := true } }) s)) ∧
    (∀ ix pend, IoTurn s q k c → checkQuery 0x9C c s = none → s.index? c.nsid c.cdw13.toNat = some ix →
      pend = markTaken s.nvm.orders [] ix.pend →
      ((takenBy s.nvm.orders pend).1 = [] →
        Completes (exec (.indexPublish c) s) s q k c.cid .success 1 ix.epoch [] s) ∧
      ((takenBy s.nvm.orders pend).1 ≠ [] → ix.work = .none → (s.part ix.part).resetting = false →
        (s.part ix.part).idle = false → (∀ i ∈ s.idx, i.nsid = c.nsid → i.id = c.cdw13.toNat → i = ix) →
        Pends (exec (.indexPublish c) s) s q 0x9C c .executing []
          (modPart ix.part (fun p => { p with queues := p.queues.modify 0 (· ++ [{
              sqid := q.id, cid := c.cid, order := s.nvm.orders, opc := 0x9C, cmd := c, part := ix.part, jq := 0
              dl := false, deadline := 0, fetched := s.now, kind := .link c.nsid c.cdw13.toNat }]) })
            (modIndex c.nsid c.cdw13.toNat (fun _ => { ix with
              pend := pend, work := .publish q.id c.cid s.nvm.orders false }) s)))) ∧
    (∀ ix, IoTurn s q k c → checkQuery 0xA0 c s = none → s.index? c.nsid c.cdw13.toNat = some ix →
      (ix.nplots ≤ c.cdw14.toNat → Completes (exec (.indexCompact c) s) s q k c.cid .invalidField 14 0 [] s) ∧
      (c.cdw14.toNat < ix.nplots → (s.part (partOf c)).resetting = false → (s.part (partOf c)).idle = false →
        Pends (exec (.indexCompact c) s) s q 0xA0 c .job []
          (modPart (partOf c) (fun p => { p with queues := p.queues.modify (jqOf c) (· ++ [{
              sqid := q.id, cid := c.cid, order := s.nvm.orders, opc := 0xA0, cmd := c, part := partOf c, jq := jqOf c
              dl := dlOf c, deadline := c.cdw14.toNat, fetched := s.now, kind := .command }]) }) s))) ∧
    (∀ d, AdminTurn s q k c → (∀ i ∈ s.idx, i.dropping = none) → c.cdw2 ≠ 0 ∧ d = 2 ∨ c.cdw2 = 0 ∧ c.cdw3 ≠ 0 ∧ d = 3 →
      Completes (exec (.indexCreate c) s) s q k c.cid .invalidField d 0 [] s ∧
      Completes (exec (.indexDrop c) s) s q k c.cid .invalidField d 0 [] s) ∧
    (AdminTurn s q k c → c.cdw2 = 0 → c.cdw3 = 0 → (s.ns? c.nsid).isSome → icCheck c s = none → s.media.readOnly = false →
      (s.part (icNum c 0x2A 1)).resetting = false → (s.part (icNum c 0x2A 1)).idle = false →
      Pends (exec (.indexCreate c) s) s q 0xED c .job []
        (modPart (icNum c 0x2A 1) (fun p => { p with queues := p.queues.modify 0 (· ++ [{
            sqid := 0, cid := c.cid, order := s.nvm.orders, opc := 0xED, cmd := { c with sqid := 0 }, part := icNum c 0x2A 1, jq := 0
            dl := false, deadline := 0, fetched := s.now, kind := .train c.nsid (icId c) }]) })
          (s.modIdx (· ++ [icIndex c 0 c.cid])))) ∧
    (∀ ix, AdminTurn s q k c → c.cdw2 = 0 → c.cdw3 = 0 → (s.ns? c.nsid).isSome → c.cdw11 = 0 → c.cdw12 = 0 → c.cdw13 = 0 → c.cdw14 = 0 → c.cdw15 = 0 →
      s.idx.filter (fun i => i.nsid == c.nsid && i.id == c.cdw10.toNat) = [ix] → (∀ i ∈ s.idx, i.dropping = none) →
      ∃ u, Completes (exec (.indexDrop c) s) s q k c.cid .success 0 0 [] u ∧
        u.idx = s.idx.filter (fun i => !(i.nsid == c.nsid && i.id == c.cdw10.toNat)) ∧
        u.nss = s.nss.map (fun x => if x.id == c.nsid then
          { x with mem := Mem.clear x.mem (ix.first * 16 * 4096) (ix.nframes * 16 * 4096) } else x) ∧
        u.cfg = s.cfg ∧ u.clus = s.clus ∧ u.res = s.res ∧ u.parts = s.parts) ∧
    (AdminTurn s q k c → c.cdw2 = 0 → c.cdw3 = 0 → (s.ns? c.nsid).isSome →
      (∀ i ∈ s.idx, i.dropping = none ∧ ¬(i.nsid = c.nsid ∧ i.id = c.cdw10.toNat)) →
      Completes (exec (.indexDrop c) s) s q k c.cid .invalidField 10 0 [] s)

/-- The only command in flight is the one that works on the index, and the new epoch's contents are known. For an Index Publish,
when the version log has room, the index then has the new contents under the next epoch, keeps the images it must, and has lost the
entries taken from its pending log, and the Publish completes with the epoch in dword 1. Without room it gives up the images that no
query is bound to, and waits. An Index Compact completes with the plots compacted and the
nodes reclaimed, which the counters add up. An Index Create completes with 1 and the frames required, and the index is at epoch 1.
An index without new contents is left as it is. -/
def Obligations.NewEpochCompletesItsCommand : Prop :=
  ∀ (s : State) (q : Sq) (k : Cq) (f : Flight) (nsid idx : Nat) (ix : Index) (plots : List Plot) (dir : List DirE), s.carries q k f →
    s.idx.filter (fun i => i.nsid == nsid && i.id == idx) = [ix] →
    (∀ w, ix.next = some (plots, dir) → ix.roomFor plots = false → f.phase = .job →
        (∃ o b, w = .publish q.id f.cid o b) ∨ (∃ n r v, w = .compact q.id f.cid n r v) → ix.work = w →
      exec (.epochDurable nsid idx) s = .next (modIndex nsid idx (Index.giveUp plots) s)) ∧
    (∀ order b, ix.next = some (plots, dir) → ix.roomFor plots = true → ix.work = .publish q.id f.cid order b →
      Finishes (exec (.epochDurable nsid idx) s) s q k f .success 0 (nextEpoch ix.epoch) []
        (modIndex nsid idx (fun i => { i.advance plots dir (takenBy order i.pend).2 with work := .none }) s)) ∧
    (∀ n r w, ix.next = some (plots, dir) → ix.roomFor plots = true → ix.work = .compact q.id f.cid n r w →
      Finishes (exec (.epochDurable nsid idx) s) s q k f .success n r []
        (modIndex nsid idx (fun i => { i.advance plots dir i.pend with
          work := .none, reclaimed := i.reclaimed + r, sweeps := i.sweeps + w }) s)) ∧
    (ix.next = some (plots, dir) → ix.work = .training q.id f.cid →
      Finishes (exec (.epochDurable nsid idx) s) s q k f .success 1 (icReq f.cmd) []
        (countMirror (modIndex nsid idx (fun i => { i with work := .none, epoch := 1, next := none }) s))) ∧
    (ix.next = none → f.phase = .job → exec (.epochDurable nsid idx) s = .next s)

/-- The control core of a cluster is at the instruction. Its next state has the result in RD, with the poison of the register
read, its time, the next PC and the hardware loops, as Table 8.13 and R238 have them; no other register, no memory, no other
cluster and no other state changes. IMM is sign-extended in ADDI, zero-extended in ANDI, ORI and XORI; a shift takes the amount
modulo 64 (log 36). LI32 writes its second word sign-extended, LIH replaces bits 63:32. -/
def Obligations.ImmediatesWriteRegisters : Prop :=
  ∀ (s : State) (c : Nat) (w : Word) (x : Clu), s.coreAt c w x →
    (∀ f op g, (f, op, g) ∈ ([(Instr.addi, 1, fun a => a + BitVec.ofInt 64 (signedN 16 (w.toNat % 65536))),
        (Instr.andi, 2, fun a => a &&& BitVec.ofNat 64 (w.toNat % 65536)), (Instr.ori, 3, fun a => a ||| BitVec.ofNat 64 (w.toNat % 65536)),
        (Instr.xori, 4, fun a => a ^^^ BitVec.ofNat 64 (w.toNat % 65536)), (Instr.slli, 5, fun a => a <<< (w.toNat % 65536 % 64)),
        (Instr.srli, 6, fun a => a >>> (w.toNat % 65536 % 64)), (Instr.srai, 7, fun a => a.sshiftRight (w.toNat % 65536 % 64))] :
        List ((Nat → Word → Instr) × Nat × (BitVec 64 → BitVec 64))) →
      bits w.toNat 31 26 = op → ∀ rd rs, rd = bits w.toNat 25 21 → rs = bits w.toNat 20 16 →
      exec (f c w) s = .next (modClu c (fun _ => { x with
        core := x.core.retired 4 [rs] rd 1 1 (x.core.setReg rd (g (x.core.reg rs)) (x.core.regPois rs)) }) s)) ∧
    (∀ (w1 : Word) (rd : Nat), x.imWord (x.core.pc + 4) = w1.toNat → rd = bits w.toNat 25 21 →
      (bits w.toNat 31 26 = 8 → exec (.li32 c w w1) s = .next (modClu c (fun _ => { x with
        core := x.core.retired 8 [] rd 2 1 (x.core.setReg rd (BitVec.ofInt 64 (signedN 32 w1.toNat)) false) }) s)) ∧
      (bits w.toNat 31 26 = 9 → exec (.lih c w w1) s = .next (modClu c (fun _ => { x with
        core := x.core.retired 8 [rd] rd 2 1 (x.core.setReg rd
          (BitVec.ofNat 64 ((x.core.reg rd).toNat % 2 ^ 32 + w1.toNat * 2 ^ 32)) (x.core.regPois rd)) }) s)))

/-- The control core of a cluster is at an ALU instruction. For each FUNC that Table 8.5 lists its next state has the result in
RD, poisoned when a register it reads is, three cycles after it began for MUL and MULHU; nothing else changes but the time, the PC
and the loops. The amount of a shift is RS2 modulo 64 (log 36). A FUNC that is not listed is a context fault of cause 1 at the PC.
-/
def Obligations.AluComputesRegisters : Prop :=
  ∀ (s : State) (c : Nat) (w : Word) (x : Clu), s.coreAt c w x → bits w.toNat 31 26 = 0 →
    (∀ fn a b v rd rs1 rs2, fn = bits w.toNat 10 0 → rd = bits w.toNat 25 21 → rs1 = bits w.toNat 20 16 → rs2 = bits w.toNat 15 11 →
      a = x.core.reg rs1 → b = x.core.reg rs2 →
      (fn, v) ∈ ([(0, a + b), (1, a - b), (2, a &&& b), (3, a ||| b), (4, a ^^^ b), (5, a <<< (b.toNat % 64)), (6, a >>> (b.toNat % 64)),
        (7, a.sshiftRight (b.toNat % 64)), (8, a * b), (9, if a.toInt < b.toInt then 1 else 0), (10, if a.toNat < b.toNat then 1 else 0),
        (11, if a.toInt < b.toInt then a else b), (12, if a.toInt < b.toInt then b else a), (13, if a.toNat < b.toNat then a else b),
        (14, if a.toNat < b.toNat then b else a), (15, BitVec.ofNat 64 ((List.range 64).filter fun i => a.getLsbD i).length),
        (16, BitVec.ofNat 64 (a.toNat * b.toNat / 2 ^ 64))] : List (Nat × BitVec 64)) →
      exec (.alu c w) s = .next (modClu c (fun _ => { x with
        core := x.core.retired 4 [rs1, rs2] rd 1 (if fn = 8 ∨ fn = 16 then 3 else 1)
          (x.core.setReg rd v (x.core.regPois rs1 || (fn != 15 && x.core.regPois rs2))) }) s)) ∧
    (16 < bits w.toNat 10 0 → exec (.alu c w) s = .next (contextFault c x.core.pc 1 0 s))

/-- Register g0 of a control core reads as 0 and is never poisoned, and a write to it changes nothing. A write of any other
register of the 32 is read back with its poison, and every other register reads as before. -/
def Obligations.RegisterZeroReadsZero : Prop :=
  ∀ (k : Core) (r : Nat) (v : BitVec 64) (p : Bool), k.g.length = 32 → k.pois.length = 32 →
    k.reg 0 = 0 ∧ k.regPois 0 = false ∧ k.setReg 0 v p = k ∧
    (1 ≤ r → r < 32 → (k.setReg r v p).reg r = v ∧ (k.setReg r v p).regPois r = p) ∧
    (∀ q, q ≠ r → (k.setReg r v p).reg q = k.reg q ∧ (k.setReg r v p).regPois q = k.regPois q)

/-- The control core of a cluster is at the instruction; the address is g[RS1] + IMM. When it is aligned to the access and the
access lies below 1_0000h, a load writes the bytes, little-endian and zero-extended, into RD, poisoned with the address register
or with a byte read; a store writes the low bytes of RD at the address, which are poisoned when RD or the address is, and every
other byte of data memory stays as it was. A poisoned address sets PSTICKY. Nothing else changes but the time, the PC and the
loops. At any other address the instruction is a context fault of cause 2, and nothing is stored. -/
def Obligations.LoadsAndStoresMoveBytes : Prop :=
  ∀ (s : State) (c : Nat) (w : Word) (x : Clu), s.coreAt c w x → ∀ a rd rs, rd = bits w.toNat 25 21 → rs = bits w.toNat 20 16 →
      a = (x.core.reg rs + BitVec.ofInt 64 (signedN 16 (w.toNat % 65536))).toNat →
    (∀ f op n, (f, op, n) ∈ ([(Instr.ld, 0x10, 8), (Instr.lw, 0x11, 4), (Instr.lh, 0x12, 2), (Instr.lb, 0x13, 1)] :
        List ((Nat → Word → Instr) × Nat × Nat)) → bits w.toNat 31 26 = op →
      (a + n ≤ 65536 → a % n = 0 → exec (f c w) s = .next (modClu c (fun _ => { x with
        core := x.core.retired 4 [rs] rd 1 3
          { x.core.setReg rd (BitVec.ofNat 64 (leNat (Mem.read 0 x.core.dm a n)))
              (x.core.regPois rs || x.core.dmPois.any fun b => decide (a ≤ b ∧ b < a + n)) with
            sticky := x.core.sticky || x.core.regPois rs } }) s)) ∧
      (65536 < a + n ∨ a % n ≠ 0 → exec (f c w) s = .next (contextFault c x.core.pc 2 0 s))) ∧
    (∀ f op n, (f, op, n) ∈ ([(Instr.st, 0x14, 8), (Instr.sw, 0x15, 4), (Instr.sh, 0x16, 2), (Instr.sb, 0x17, 1)] :
        List ((Nat → Word → Instr) × Nat × Nat)) → bits w.toNat 31 26 = op →
      (a + n ≤ 65536 → a % n = 0 → ∃ dm pois, exec (f c w) s = .next (modClu c (fun _ => { x with
          core := x.core.retired 4 [rs, rd] 0 1 1
            { x.core with dm := dm, dmPois := pois, sticky := x.core.sticky || x.core.regPois rs } }) s) ∧
        (∀ i < n, Mem.get 0 dm (a + i) = BitVec.ofNat 8 ((x.core.reg rd).toNat / 2 ^ (8 * i))) ∧
        (∀ b, ¬(a ≤ b ∧ b < a + n) → Mem.get 0 dm b = Mem.get 0 x.core.dm b ∧ (b ∈ pois ↔ b ∈ x.core.dmPois)) ∧
        (∀ b, a ≤ b ∧ b < a + n → (b ∈ pois ↔ x.core.regPois rs = true ∨ x.core.regPois rd = true))) ∧
      (65536 < a + n ∨ a % n ≠ 0 → exec (f c w) s = .next (contextFault c x.core.pc 2 0 s)))

/-- The control core of a cluster is at the instruction. A branch whose comparison of RS1 with RS2 fails goes on with the next
instruction after a cycle. One that is taken, and JAL, go to their own address plus 4 times OFF, JALR to g[RS1] + 4 times IMM as
read before RD is written, after two cycles; the loops whose body does not hold the target are abandoned. JAL and JALR write the
next address into RD. A comparison or an address from a poisoned register sets PSTICKY. Nothing else changes. A target that is not
aligned to 4 or lies outside the image is a context fault of cause 3. -/
def Obligations.BranchesAndJumpsSetPc : Prop :=
  ∀ (s : State) (c : Nat) (w : Word) (x : Clu), s.coreAt c w x → ∀ rd rs, rd = bits w.toNat 25 21 → rs = bits w.toNat 20 16 →
    (∀ f op test a b t, a = x.core.reg rd → b = x.core.reg rs → (f, op, test) ∈ ([(Instr.beq, 0x18, decide (a = b)),
        (Instr.bne, 0x19, decide (a ≠ b)), (Instr.blt, 0x1A, decide (a.toInt < b.toInt)), (Instr.bge, 0x1B, decide (b.toInt ≤ a.toInt)),
        (Instr.bltu, 0x1C, decide (a.toNat < b.toNat)), (Instr.bgeu, 0x1D, decide (b.toNat ≤ a.toNat))] :
        List ((Nat → Word → Instr) × Nat × Bool)) → bits w.toNat 31 26 = op →
      t = (BitVec.ofNat 64 x.core.pc + 4 * BitVec.ofInt 64 (signedN 16 (w.toNat % 65536))).toNat →
      (test = false → exec (f c w) s = .next (modClu c (fun _ => { x with
        core := x.core.retired 4 [rd, rs] 0 1 1
          { x.core with sticky := x.core.sticky || (x.core.regPois rd || x.core.regPois rs) } }) s)) ∧
      (test = true → t < x.imlen → t % 4 = 0 → exec (f c w) s = .next (modClu c (fun _ => { x with
        core := x.core.jumped [rd, rs] 0 t
          { x.core with sticky := x.core.sticky || (x.core.regPois rd || x.core.regPois rs) } }) s)) ∧
      (test = true → x.imlen ≤ t ∨ t % 4 ≠ 0 → exec (f c w) s = .next (contextFault c x.core.pc 3 0 s))) ∧
    (∀ t, bits w.toNat 31 26 = 0x1E →
      t = (BitVec.ofNat 64 x.core.pc + 4 * BitVec.ofInt 64 (signedN 21 (w.toNat % 2 ^ 21))).toNat →
      (t < x.imlen → t % 4 = 0 → exec (.jal c w) s = .next (modClu c (fun _ => { x with
        core := x.core.jumped [] rd t (x.core.setReg rd (BitVec.ofNat 64 x.core.pc + 4) false) }) s)) ∧
      (x.imlen ≤ t ∨ t % 4 ≠ 0 → exec (.jal c w) s = .next (contextFault c x.core.pc 3 0 s))) ∧
    (∀ t, bits w.toNat 31 26 = 0x1F →
      t = (x.core.reg rs + 4 * BitVec.ofInt 64 (signedN 16 (w.toNat % 65536))).toNat →
      (t < x.imlen → t % 4 = 0 → exec (.jalr c w) s = .next (modClu c (fun _ => { x with
        core := x.core.jumped [rs] rd t
          { x.core.setReg rd (BitVec.ofNat 64 x.core.pc + 4) false with sticky := x.core.sticky || x.core.regPois rs } }) s)) ∧
      (x.imlen ≤ t ∨ t % 4 ≠ 0 → exec (.jalr c w) s = .next (contextFault c x.core.pc 3 0 s)))

/-- The control core of a cluster is at the instruction, the counter is not active, and the body ends at the end of an instruction
within the image and within the innermost loop. LOOP with a count above 0 in the low 32 bits of its register, and LOOPI with its COUNT, start the
loop with index 0 at the next instruction; a count of 0 goes on after the body. A counter that is already active is a context
fault of cause 4, a body beyond the image one of cause 3. LCIDX writes the index of an active counter, else 0. At the end of a
body, the innermost loop repeats while its index is below the count, and only when it has ended is the next one tested. -/
def Obligations.HardwareLoopsRepeatBodies : Prop :=
  ∀ (s : State) (c : Nat) (w : Word) (x : Clu), s.coreAt c w x →
    (∀ lc n len rs srcs f, lc = bits w.toNat 25 24 →
      (bits w.toNat 31 26 = 0x20 ∧ f = Instr.loop c w ∧ bits w.toNat 18 16 = 0 ∧ rs = bits w.toNat 23 19 ∧
          n = (x.core.reg rs).toNat % 2 ^ 32 ∧ len = w.toNat % 65536 ∧ srcs = [rs] ∨
        bits w.toNat 31 26 = 0x21 ∧ f = Instr.loopi c w ∧ rs = 0 ∧ n = bits w.toNat 23 12 ∧ len = bits w.toNat 11 0 ∧ srcs = []) →
      ((∀ l ∈ x.core.loops, l.lc ≠ lc) → x.core.pc + 4 * len < x.imlen → n = 0 →
        exec f s = .next (modClu c (fun _ => { x with
          core := x.core.retired 4 srcs 0 1 1 { x.core with
            pc := x.core.pc + 4 * len, sticky := x.core.sticky || x.core.regPois rs } }) s)) ∧
      ((∀ l ∈ x.core.loops, l.lc ≠ lc) → x.core.pc + 4 * len < x.imlen → n ≠ 0 → len ≠ 0 →
        bodyEnds x len (x.core.pc + 4) (4 * len) = true →
        (∀ l, x.core.loops.head? = some l → l.start ≤ x.core.pc + 4 ∧ x.core.pc + 4 * len ≤ l.last) →
        exec f s = .next (modClu c (fun _ => { x with
          core := x.core.retired 4 srcs 0 1 1 { x.core with
            sticky := x.core.sticky || x.core.regPois rs
            loops := ⟨lc, x.core.pc + 4, x.core.pc + 4 * len, 0, n⟩ :: x.core.loops } }) s)) ∧
      ((∃ l ∈ x.core.loops, l.lc = lc) → exec f s = .next (contextFault c x.core.pc 4 0 s)) ∧
      ((∀ l ∈ x.core.loops, l.lc ≠ lc) → x.imlen ≤ x.core.pc + 4 * len → exec f s = .next (contextFault c x.core.pc 3 0 s))) ∧
    (∀ rd i, bits w.toNat 31 26 = 0x22 → bits w.toNat 20 2 = 0 → rd = bits w.toNat 25 21 →
      (∃ l, x.core.loops.find? (fun l => l.lc == bits w.toNat 1 0) = some l ∧ i = l.idx) ∨
        x.core.loops.find? (fun l => l.lc == bits w.toNat 1 0) = none ∧ i = 0 →
      exec (.lcidx c w) s = .next (modClu c (fun _ => { x with
        core := x.core.retired 4 [] rd 1 1 (x.core.setReg rd (BitVec.ofNat 64 i) false) }) s)) ∧
    (∀ (l : HwLoop) (ls : List HwLoop) (next : Nat),
      (l.last + 4 ≠ next → loopEnd next (l :: ls) = (l :: ls, next)) ∧
      (l.last + 4 = next → l.idx + 1 < l.n → loopEnd next (l :: ls) = ({ l with idx := l.idx + 1 } :: ls, l.start)) ∧
      (l.last + 4 = next → l.n ≤ l.idx + 1 → loopEnd next (l :: ls) = loopEnd next ls) ∧ loopEnd next [] = ([], next))

/-- The control core of a cluster is at the instruction, its reserved bits zero. At a 64-byte aligned address g[RS] + IMM below
1_0000h, AGLD copies 64 bytes of data memory into the descriptor register, and AGST writes the register's bytes there and leaves
every other byte as it was; both take eight cycles. AGSET sets BASE, PEER, the COUNT of a level, which the register holds less 1,
or the STRIDE of a level. Nothing else changes but the time, the PC, the loops and PSTICKY. At another address AGLD and AGST are a
context fault of cause 2, a FIELD that is not listed is one of cause 1. -/
def Obligations.DescriptorsAreLoadedStoredAndSet : Prop :=
  ∀ (s : State) (c : Nat) (w : Word) (x : Clu), s.coreAt c w x →
    (∀ ag rs a, ag = bits w.toNat 25 23 → rs = bits w.toNat 22 18 → bits w.toNat 17 16 = 0 →
      a = (x.core.reg rs + BitVec.ofInt 64 (signedN 16 (w.toNat % 65536))).toNat →
      (bits w.toNat 31 26 = 0x24 → a + 64 ≤ 65536 → a % 64 = 0 → exec (.agld c w) s = .next (modClu c (fun _ => { x with
        core := x.core.retired 4 [rs] 0 8 1 { x.core with
          ag := x.core.ag.set ag (Mem.read 0 x.core.dm a 64)
          sticky := x.core.sticky || (x.core.regPois rs || x.core.dmPois.any fun b => decide (a ≤ b ∧ b < a + 64)) } }) s)) ∧
      (bits w.toNat 31 26 = 0x25 → a + 64 ≤ 65536 → a % 64 = 0 → exec (.agst c w) s = .next (modClu c (fun _ => { x with
        core := x.core.retired 4 [rs] 0 8 1 { x.core with
          dm := Mem.write 0 x.core.dm a (x.core.ag.getD ag (zeros 64))
          dmPois := x.core.dmPois.filter fun b => !decide (a ≤ b ∧ b < a + 64)
          sticky := x.core.sticky || x.core.regPois rs } }) s)) ∧
      (65536 < a + 64 ∨ a % 64 ≠ 0 →
        (bits w.toNat 31 26 = 0x24 → exec (.agld c w) s = .next (contextFault c x.core.pc 2 0 s)) ∧
        (bits w.toNat 31 26 = 0x25 → exec (.agst c w) s = .next (contextFault c x.core.pc 2 0 s)))) ∧
    (∀ ag rs fld v d, bits w.toNat 31 26 = 0x26 → ag = bits w.toNat 25 23 → rs = bits w.toNat 22 18 → fld = bits w.toNat 17 14 →
      bits w.toNat 13 0 = 0 → v = (x.core.reg rs).toNat → d = x.core.ag.getD ag (zeros 64) →
      (∀ off n y, (fld = 0 ∧ off = 0 ∧ n = 8 ∧ y = v ∨ fld = 1 ∧ off = 0xC ∧ n = 2 ∧ y = v ∨
          2 ≤ fld ∧ fld < 8 ∧ off = 0x10 + 8 * (fld - 2) ∧ n = 2 ∧ y = (v + 65535) % 65536 ∨
          8 ≤ fld ∧ fld < 14 ∧ off = 0x10 + 8 * (fld - 8) + 2 ∧ n = 6 ∧ y = v) →
        exec (.agset c w) s = .next (modClu c (fun _ => { x with
          core := x.core.retired 4 [rs] 0 1 1 { x.core with
            ag := x.core.ag.set ag (patch d off (leBytes n y)), sticky := x.core.sticky || x.core.regPois rs } }) s)) ∧
      (14 ≤ fld → exec (.agset c w) s = .next (contextFault c x.core.pc 1 0 s)))

/-- The control core of a cluster is at the instruction, its reserved bits zero; the count is the low 32 bits of its register.
With VALUE at least the count, SWAIT goes on and STAKE goes on with the count subtracted; otherwise the core waits, and nothing
else changes. SSET sets VALUE of an object of its own cluster. When the core waits and its wait is met, SYNC_WAIT_MET subtracts
the count of a STAKE and lets the core run at the next instruction a cycle later, before any engine command is granted; when no
waiter is met nothing changes. -/
def Obligations.SyncInstructionsWaitTakeAndSet : Prop :=
  ∀ (s : State) (c : Nat), s.hasClu c = true →
    (∀ w x o rs n take f op, s.coreAt c w x → 
      (f, op, take) ∈ ([(Instr.swait, 0x28, false), (Instr.stake, 0x29, true)] :
        List ((Nat → Word → Instr) × Nat × Bool)) → bits w.toNat 31 26 = op → bits w.toNat 12 0 = 0 → o = bits w.toNat 25 19 →
      rs = bits w.toNat 18 14 → n = (x.core.reg rs).toNat % 2 ^ 32 →
      (n ≤ (x.obj o).value → exec (f c w) s = .next (modClu c (fun _ => { x with
        objs := if take then x.objs.modify o (fun y => { y with value := y.value - n }) else x.objs
        core := x.core.retired 4 [rs] 0 1 1 x.core }) s)) ∧
      ((x.obj o).value < n → exec (f c w) s = .next (modClu c (fun _ => { x with
        core := { x.core with st := .waiting take o n (bit w.toNat 13), cycles := x.core.begins [rs] } }) s))) ∧
    (∀ w x o rs, s.coreAt c w x → bits w.toNat 31 26 = 0x2B → bits w.toNat 13 0 = 0 → o = bits w.toNat 25 19 → rs = bits w.toNat 18 14 →
      exec (.sset c w) s = .next (modClu c (fun _ => { x with
        objs := x.objs.modify o (fun y => { y with value := (x.core.reg rs).toNat % 2 ^ 32 })
        core := x.core.retired 4 [rs] 0 1 1 x.core }) s)) ∧
    (∀ (y : Clu) (p : Nat) (take : Bool) (o n : Nat) (r : Bool), s.clus[c]? = some y → s.jobPart c = some p → s.tearing p = false →
      y.run = true → y.core.st = .waiting take o n r → n ≤ (y.obj o).value →
      exec (.syncWaitMet c) s = .next (modClu c (fun _ => { y with
        objs := if take then y.objs.modify o (fun z => { z with value := z.value - n }) else y.objs
        core := { y.core with
          st := .running, cycles := y.core.cycles + 1, loops := (loopEnd (y.core.pc + 4) y.core.loops).1
          pc := (loopEnd (y.core.pc + 4) y.core.loops).2 % 2 ^ 18 } }) s)) ∧
    (∀ w x, s.coreAt c w x → (∀ e < 5, waiterMet x e = false) → exec (.syncWaitMet c) s = .next s)

/-- The control core of a cluster is at an SSIG whose reserved bits are zero, with a count of 1 to 65,535. A local one to an
object of its own cluster adds the count to VALUE and 1 to SIGCNT, and notes the cluster as the last signaller. A device signal to
an object of a cluster of the job's partition is on its way with the CTXGEN that the target had when the context started. When it
arrives at an object whose CTXGEN is that one, the count is added; otherwise it is dropped and counted. A signal count outside 1
to 65,535, or a local signal to an object of another cluster, is a context fault of cause 9. -/
def Obligations.SignalsAddToSyncObjects : Prop :=
  (∀ (s : State) (c : Nat) (w : Word) (x : Clu) (o n rc rv : Nat), s.coreAt c w x →
      bits w.toNat 31 26 = 0x2A → bits w.toNat 1 0 = 0 → o = bits w.toNat 23 12 → rc = bits w.toNat 11 7 →
      rv = bits w.toNat 6 2 → n = (x.core.reg rc).toNat % 2 ^ 32 →
    (1 ≤ n → n ≤ 65535 → bits w.toNat 25 24 = 1 → o / 128 = c → (x.obj (o % 128)).value + n ≤ 0xFFFFFFFF →
      exec (.ssig c w) s = .next (modClu c (fun _ => { x with
        objs := x.objs.modify (o % 128) (fun y => { y with
          value := y.value + n, sigcnt := (y.sigcnt + 1) % 2 ^ 32, lastDev := 0x3FFF, lastClu := c })
        core := x.core.retired 4 [rc, rv] 0 1 1 x.core }) s)) ∧
    (∀ p, 1 ≤ n → n ≤ 65535 → bits w.toNat 25 24 = 2 → s.jobPart c = some p → s.hasClu (o / 128) = true →
      bit (s.cfg.conf.clusters.getD p 0) (o / 128) = true →
      exec (.ssig c w) s = .next ((modClu c (fun _ => { x with core := x.core.retired 4 [rc, rv] 0 1 1 x.core }) s).modSigs
        (· ++ [⟨o, n, x.gens.getD (o / 128) 0, c, p⟩]))) ∧
    (bits w.toNat 25 24 ≠ 0 → n = 0 ∨ 65535 < n ∨ bits w.toNat 25 24 = 1 ∧ o / 128 ≠ c →
      exec (.ssig c w) s = .next (contextFault c x.core.pc 9 0 s))) ∧
    (∀ (s : State) (y : Clu) (g : DevSig) (rest : List DevSig) (m : Nat), s.hasClu (m / 128) = true → s.clus[m / 128]? = some y →
      s.sigs = g :: rest → g.obj = m →
      (g.ctxgen = y.ctxgen → (y.obj (m % 128)).value + g.n ≤ 0xFFFFFFFF →
        exec (.deviceSignal m) s = .next (modClu (m / 128) (fun _ => { y with
          objs := y.objs.modify (m % 128) (fun z => { z with
            value := z.value + g.n, sigcnt := (z.sigcnt + 1) % 2 ^ 32, lastDev := 0x3FFF, lastClu := g.clu }) })
          (s.modSigs fun _ => rest))) ∧
      (g.ctxgen ≠ y.ctxgen → exec (.deviceSignal m) s = .next (modClu (m / 128) (fun _ => { y with
          objs := y.objs.modify (m % 128) (fun z => { z with dropped := min (z.dropped + 1) 255 }) })
          (s.modSigs fun _ => rest))))

/-- The control core of a cluster is at an ISSUE whose reserved bits are zero, with WKIND 0 to 2 and, when it signals, SCNT of 1
to 15 and a local object of its own cluster. With fewer than 512 commands in the queue of its engine, the command with the fields
of the two words, the operands g[RS1] and g[RS2], the counts and the device as their registers hold them, SEQ and the PC stands at
the end of the queue, with the copy of the descriptor for fetch, matrix and store; it is poisoned while PSTICKY is set or an
operand is poisoned. SEQ of the queue is one more. With 512 commands the core stalls and nothing changes but the time it waits for
its registers. An invalid WKIND is a context fault of cause 1, an invalid signal one of cause 9. -/
def Obligations.IssuesQueueEngineCommands : Prop :=
  ∀ (s : State) (c : Nat) (w : Word) (x : Clu), s.coreAt c w x → ∀ (w1 : Word) (a b : Nat) (e : Nat) (f : Nat → Word → Word → Instr), a = w.toNat → b = w1.toNat →
      x.imWord (x.core.pc + 4) = b →
      (e, f) ∈ [(0, Instr.issueF), (1, Instr.issueM), (2, Instr.issueV), (3, Instr.issueH), (4, Instr.issueS)] →
      bits a 31 26 = 0x30 + e → bits a 1 0 = 0 →
    (bits b 31 30 ≠ 3 → bits b 22 21 = 0 ∨ bits b 8 5 ≠ 0 ∧ (bits b 22 21 = 1 → bits b 20 9 / 128 = c) →
      ((x.q e).queue.length < 512 → ∃ cmd : ECmd,
        cmd = {
          eop := bits a 25 20, wkind := bits b 31 30, wobj := bits b 29 23
          wcnt := if bits b 31 30 = 0 then 0 else (x.core.reg (bits a 6 2)).toNat % 2 ^ 32
          skind := bits b 22 21, sobj := bits b 20 9, scnt := bits b 8 5, sdev := (x.core.reg (bits b 4 0)).toNat % 2 ^ 14
          seq := (x.q e).seq, opa := x.core.reg (bits a 19 15), opb := x.core.reg (bits a 14 10), pc := x.core.pc
          desc := if e = 2 ∨ e = 3 then zeros 64 else x.core.ag.getD (bits a 9 7) (zeros 64)
          sticky := x.core.sticky || x.core.regPois (bits a 19 15) || x.core.regPois (bits a 14 10)
          granted := decide (bits b 31 30 = 0) } ∧
        exec (f c w w1) s = .next (modClu c (fun _ => { x with
          eng := x.eng.modify e fun q => { q with queue := q.queue ++ [cmd], seq := (q.seq + 1) % 2 ^ 32 }
          core := x.core.retired 8 [bits a 19 15, bits a 14 10, bits a 6 2, bits b 4 0] 0 2 1
            { x.core with sticky := x.core.sticky || cmd.sticky } }) s)) ∧
      (512 ≤ (x.q e).queue.length → exec (f c w w1) s = .next s)) ∧
    (bits b 31 30 = 3 → exec (f c w w1) s = .next (contextFault c x.core.pc 1 0 s)) ∧
    (bits b 31 30 ≠ 3 → bits b 22 21 ≠ 0 → bits b 8 5 = 0 ∨ bits b 22 21 = 1 ∧ bits b 20 9 / 128 ≠ c →
      exec (f c w w1) s = .next (contextFault c x.core.pc 9 0 s))

/-- The control core of a cluster is at a BAR whose reserved bits are zero. It then waits at the barrier in its mode with the low
32 bits of RS, and a halt requested by CLU_CTL takes effect there; nothing else changes but the time. Mode 11b is a context fault
of cause 1. With every engine idle, no remote operation pending, the cluster not halted and its instruction memory not reloaded, the core of a running job at a DRAIN
goes on with the next instruction. At END, while another cluster of the job has not come to its barrier, the count is added to
NREC and the cluster's part of the job is over. A cluster whose core is at no barrier is left as it is. -/
def Obligations.BarriersStopAndResumeCore : Prop :=
  ∀ (s : State) (c : Nat),
    (∀ w x rs y mode f, s.coreAt c w x → (f, mode) ∈ [(Instr.barDrain c w, 0), (Instr.barStage c w, 1), (Instr.barEnd c w, 2)] →
      bits w.toNat 31 26 = 0x38 → bits w.toNat 18 0 = 0 → bits w.toNat 25 24 = mode → rs = bits w.toNat 23 19 →
      y = (if x.haltReq then { x with haltReq := false, halted := true } else x) →
      exec f s = .next (modClu c (fun _ => { y with
        core := { x.core with st := .barrier mode ((x.core.reg rs).toNat % 2 ^ 32), cycles := x.core.begins [rs] } }) s)) ∧
    (∀ w x, s.coreAt c w x → bits w.toNat 31 26 = 0x38 → bits w.toNat 25 24 = 3 →
      exec (.barDrain c w) s = .next (contextFault c x.core.pc 1 0 s)) ∧
    (∀ w x, s.coreAt c w x → s.quiet → exec (.barrierDrained c) s = .next s) ∧
    (∀ (y : Clu) (p mode n : Nat) (r : Run), s.hasClu c = true → s.clus[c]? = some y → s.quiet → s.jobPart c = some p →
      (s.part p).run = some r → s.active c = true → y.core.st = .barrier mode n → y.halted = false → y.gen = y.imgen →
      y.idle = true → s.remoteOf c = [] →
      c ∉ r.atBar →
      (mode = 0 → exec (.barrierDrained c) s = .next (modClu c (fun _ => { y with
          core := { y.core with
            st := .running, loops := (loopEnd (y.core.pc + 4) y.core.loops).1
            pc := (loopEnd (y.core.pc + 4) y.core.loops).2 % 2 ^ 18 } }) s)) ∧
      (mode = 2 → s.fanDone p = true → (∃ d ∈ r.clusters, d ≠ c ∧ d ∉ r.atBar ∧ (s.clu d).core.st ≠ .ended) →
        exec (.barrierDrained c) s = .next
          (modRun p (fun r => { r with nrec := r.nrec + n, atBar := r.atBar ++ [c] })
            (modClu c (fun _ => { y with core := { y.core with st := .ended } }) s))))

/-- The control core of a cluster is at the instruction. RECB clears PSTICKY. VERD in a scan program adds a verdict, passed when
g[RS] is not zero, poisoned with PSTICKY or the register; in another image it is a context fault of cause 0Ch. RDCYC writes the
context's cycle count. TRAP is a context fault of cause 0Ah with its CODE. Nothing else changes but the time, the PC and the
loops. A non-zero reserved bit is a context fault of cause 1. A core that does not run, or that is at another word, changes
nothing for a row of an instruction (log 34). -/
def Obligations.RecordAndTrapInstructions : Prop :=
  ∀ (s : State) (c : Nat) (w : Word) (x : Clu), s.coreAt c w x →
    (bits w.toNat 31 26 = 0x39 → bits w.toNat 25 0 = 0 → exec (.recb c w) s = .next (modClu c (fun _ => { x with
      core := x.core.retired 4 [] 0 1 1 { x.core with sticky := false } }) s)) ∧
    (∀ rs, bits w.toNat 31 26 = 0x3A → bits w.toNat 20 0 = 0 → rs = bits w.toNat 25 21 →
      (x.imkind = 1 → exec (.verd c w) s = .next (modClu c (fun _ => { x with
        core := x.core.retired 4 [rs] 0 1 1 { x.core with
          verds := x.core.verds ++ [(decide (x.core.reg rs ≠ 0), x.core.sticky || x.core.regPois rs)] } }) s)) ∧
      (x.imkind ≠ 1 → exec (.verd c w) s = .next (contextFault c x.core.pc 0xC 0 s))) ∧
    (∀ rd, bits w.toNat 31 26 = 0x3B → bits w.toNat 20 0 = 0 → rd = bits w.toNat 25 21 →
      exec (.rdcyc c w) s = .next (modClu c (fun _ => { x with
        core := x.core.retired 4 [] rd 1 1 (x.core.setReg rd (BitVec.ofNat 64 x.core.cycles) false) }) s)) ∧
    (bits w.toNat 31 26 = 0x3C → bits w.toNat 25 16 = 0 →
      exec (.trap c w) s = .next (contextFault c x.core.pc 0xA (w.toNat % 65536) s)) ∧
    (∀ f op hi, (f, op, hi) ∈ ([(Instr.recb, 0x39, 25), (Instr.verd, 0x3A, 20), (Instr.rdcyc, 0x3B, 20), (Instr.sset, 0x2B, 13),
        (Instr.swait, 0x28, 12), (Instr.stake, 0x29, 12)] : List ((Nat → Word → Instr) × Nat × Nat)) → bits w.toNat 31 26 = op →
      bits w.toNat hi 0 ≠ 0 → exec (f c w) s = .next (contextFault c x.core.pc 1 0 s)) ∧
    (∀ (v : Word) (f : Nat → Word → Instr), v ≠ w → f ∈ [Instr.addi, Instr.ld, Instr.st, Instr.beq, Instr.jal, Instr.loop, Instr.swait,
      Instr.ssig, Instr.recb, Instr.trap] → exec (f c v) s = .next s)

/-- A cluster runs a job of a partition that is neither being torn down nor in reset, and no remote operation or fan-out belongs
to it. After a context fault the run is being torn down with Internal Error, the faulting core's PC is that of the fault, every
cluster of the job has stopped with its queues empty, tile memory, sync objects and registers as they were, and one error record of
class 2 has been added. Other clusters, the memories,
the queues of the host and the configuration are unchanged. -/
def Obligations.ContextFaultTearsContextDown : Prop :=
  ∀ (s : State) (c p pc cause code : Nat) (r : Run), s.jobPart c = some p → (s.part p).run = some r → (s.part p).batch = none →
    r.teardown = none → (s.part p).resetting = false → r.clusters ≠ [] → s.lnk.ops = [] → s.lnk.binds = [] → s.lnk.fans = [] →
    p < 8 → s.parts.length = 8 →
    ∃ t, contextFault c pc cause code s = t ∧
      (∃ q, (t.part p).run = some q ∧ q.teardown = some .internalError ∧ q = { r with teardown := q.teardown, tdAt := s.now }) ∧
      (∀ k, t.clus[k]? = (s.clus[k]?).map fun x =>
        let y := if k = c then { x with core := { x.core with pc := pc } } else x
        if k ∈ r.clusters then { y.stop with tdPend := false } else y) ∧
      (∃ e ∈ t.ras.ring, e.cls = 2 ∧ e.inst = c ∧ e.addr = pc ∧ e.part = p) ∧
      t = { s with
        free := t.free, nvm := t.nvm, ras := t.ras, parts := t.parts, clus := t.clus, hostWrites := t.hostWrites } ∧
      (∀ k < 8, k ≠ p → t.part k = s.part k)

/-- The command of the row is at the head of its engine's queue with its wait granted and nothing outstanding. A COPY, GATHER or
COPYREL of the fetch engine, or a COPY of the store engine, whose elements lie where Table 8.8 and R241 allow and whose space is
not a peer's, is taken off the queue and is outstanding; so is an APPEND or VAPPEND of valid records, or a PLIST whose list lies
in tile memory. Nothing else changes. A command that fails a check is a context fault at its PC with the check's cause; an
operation that no table lists is one of cause 8. A row of another operation changes nothing. -/
def Obligations.TransfersStartFromQueues : Prop :=
  ∀ (s : State) (c e : Nat) (k : ECmd) (x : Clu), s.headAt c e k x →
    (∀ f op d es, e = 0 → (f, op) ∈ [(Instr.fetchCopy, 0), (Instr.fetchGather, 1), (Instr.fetchCopyrel, 2)] → k.eop = op →
      xferElems s c 0 k = .ok (d, es) → d.space ≠ 2 → exec (f c) s = .next (modClu c (fun _ => x.started 0 0 k) s)) ∧
    (∀ f op cause, e = 0 → (f, op) ∈ [(Instr.fetchCopy, 0), (Instr.fetchGather, 1), (Instr.fetchCopyrel, 2)] → k.eop = op →
      xferElems s c 0 k = .error cause → exec (f c) s = .next (contextFault c k.pc cause 0 s)) ∧
    (e = 0 → 2 < k.eop → exec (.fetchCopy c) s = .next (contextFault c k.pc 8 0 s)) ∧
    (∀ d es, e = 4 → k.eop = 0 → xferElems s c 4 k = .ok (d, es) → d.space ≠ 2 →
      exec (.storeCopy c) s = .next (modClu c (fun _ => x.started 4 0 k) s)) ∧
    (∀ cause, e = 4 → k.eop = 0 → xferElems s c 4 k = .error cause → exec (.storeCopy c) s = .next (contextFault c k.pc cause 0 s)) ∧
    (∀ f op, e = 4 → (f, op) ∈ [(Instr.storeAppend, 1), (Instr.storeVappend, 2)] → k.eop = op →
      (∀ l, appended x k = .ok l → exec (f c) s = .next (modClu c (fun _ => x.started 4 0 k) s)) ∧
      (∀ cause, appended x k = .error cause → exec (f c) s = .next (contextFault c k.pc cause 0 s))) ∧
    (∀ n, e = 4 → k.eop = 3 → n = k.opa.toNat % 2 ^ 32 →
      (k.opb.toNat % 2 ^ 24 % 64 = 0 → k.opb.toNat % 2 ^ 24 + 8 * n ≤ 2 ^ 24 →
        exec (.storePlist c) s = .next (modClu c (fun _ => x.started 4 0 k) s)) ∧
      (k.opb.toNat % 2 ^ 24 % 64 = 0 → 2 ^ 24 < k.opb.toNat % 2 ^ 24 + 8 * n →
        exec (.storePlist c) s = .next (contextFault c k.pc 7 0 s)) ∧
      (k.opb.toNat % 2 ^ 24 % 64 ≠ 0 → exec (.storePlist c) s = .next (contextFault c k.pc 8 0 s))) ∧
    (e = 0 → k.eop ≠ 1 → exec (.fetchGather c) s = .next s) ∧ (e = 4 → k.eop ≠ 3 → exec (.storePlist c) s = .next s)

/-- The number of elements is the product of the counts. Element i starts at the start address plus, for each level, the index of
the level in i, which is i divided by the product of the counts below it, modulo the level's count, times its stride. -/
def Obligations.TransferElementsFollowLevels : Prop :=
  ∀ (start : Int) (levels : List (Nat × Int)), (∀ l ∈ levels, 1 ≤ l.1) →
    (elemAddrs start levels).length = levels.foldl (fun n l => n * l.1) 1 ∧
    ∀ i, i < levels.foldl (fun n l => n * l.1) 1 →
      (elemAddrs start levels)[i]? = some (start + ((List.range levels.length).map fun j =>
        ((i / (levels.take j).foldl (fun n l => n * l.1) 1 % (levels.getD j (1, 0)).1 : Nat) : Int) * (levels.getD j (1, 0)).2).sum)

/-- One transfer is outstanding, and nothing of it is poisoned. When a fetch COPY or GATHER completes, each element's bytes from
its space stand in tile memory at the element's place, in order, its granules clean, and every other byte of tile memory is as
before. When a store COPY to the Reservoir completes, the bytes of tile memory stand in the Reservoir at each element's address.
An APPEND puts its records at the end of the record area, and NREC counts them. The command is no longer outstanding and its local
signal is applied. Nothing else changes. -/
def Obligations.CompletedTransfersMoveTheirData : Prop :=
  ∀ (s : State) (c e : Nat) (k : ECmd) (x : Clu), s.runs c e k x → k.sticky = false → k.skind ≤ 1 →
      (k.skind = 1 → k.sobj / 128 = c ∧ (x.obj (k.sobj % 128)).value + k.scnt ≤ 0xFFFFFFFF) →
    (∀ d es n, e = 0 → k.eop ≤ 1 → xferElems s c 0 k = .ok (d, es) → d.space ≠ 2 → n = d.elem * 64 → s.resv.undelivered = [] →
      (∀ p ∈ es, (sourceRead s c d.space p.1.toNat n).2 = []) →
      exec (.transferComplete c .fetch k.seq) s = .next (modClu c (fun _ => { x.finished 0 c k with
        tile := es.foldl (fun m p => Mem.write 0 m p.2 (sourceRead s c d.space p.1.toNat n).1) x.tile
        tpois := x.tpois.filter fun g => es.all fun p => !decide (p.2 / 64 ≤ g ∧ g < p.2 / 64 + d.elem) }) s)) ∧
    (∀ d es n, e = 4 → k.eop = 0 → xferElems s c 4 k = .ok (d, es) → d.space = 0 → n = d.elem * 64 → x.tpois = [] →
      exec (.transferComplete c .store k.seq) s = .next ((modClu c (fun _ => x.finished 4 c k) s).modResv fun r => { r with
        mem := es.foldl (fun m p => Mem.write 0 m p.1.toNat (x.tileRead p.2 n)) r.mem
        poison := r.poison.filter fun g => es.all fun p => !decide (p.1.toNat / 64 ≤ g ∧ g * 64 < p.1.toNat + n) })) ∧
    (∀ p r rs bs, e = 4 → k.eop = 1 → s.jobPart c = some p → (s.part p).run = some r → appended x k = .ok rs → x.tpois = [] →
      bs = rs.flatMap (fun q => x.tileRead q.1 q.2.1) →
      ∃ marks, exec (.transferComplete c .store k.seq) s = .next (modClu c (fun _ => x.finished 4 c k) (modRun p (fun r => { r with
        out := outWrite r.out r.cursor bs, cursor := r.cursor + bs.length, nrec := r.nrec + rs.length
        marks := r.marks ++ marks }) s)))

/-- An engine runs one command. When it finishes it is no longer outstanding and its local signal, if it sends one, is added to
its object; nothing else changes. A finish of a command that does not run changes nothing. When the control core does not wait,
and the first engine in the order of R220 whose head waits for a count that its object holds, the resources that it names being
free (R211), is engine e, SYNC_WAIT_MET grants that head, subtracts the count of a TAKE, and changes nothing else. -/
def Obligations.EnginesFinishSignalAndAreGranted : Prop :=
  (∀ (s : State) (c : Nat) (k : ECmd) (x : Clu), k.skind ≤ 1 →
      (k.skind = 1 → k.sobj / 128 = c ∧ (x.obj (k.sobj % 128)).value + k.scnt ≤ 0xFFFFFFFF) →
    (s.runs c 1 k x → exec (.matrixRunFinish c k.seq) s = .next (modClu c (fun _ => x.finished 1 c k) s)) ∧
    (s.runs c 2 k x → exec (.engineCommandFinish c .vector) s = .next (modClu c (fun _ => x.finished 2 c k) s)) ∧
    (s.runs c 3 k x → exec (.engineCommandFinish c .hamming) s = .next (modClu c (fun _ => x.finished 3 c k) s)) ∧
    (∀ n, s.runs c 1 k x → n ≠ k.seq → exec (.matrixRunFinish c n) s = .next s)) ∧
  (∀ (s : State) (c p e : Nat) (k : ECmd) (ks : List ECmd) (x : Clu), s.hasClu c = true → s.clus[c]? = some x → x.ok → x.run = true →
      s.jobPart c = some p → s.tearing p = false → x.core.st = .running → e < 5 → (x.q e).queue = k :: ks → k.granted = false →
      k.wcnt ≤ (x.obj k.wobj).value → engineFree e x k = true → (∀ i < e, ∀ y, (x.q i).queue.head? = some y →
        y.granted = true ∨ (x.obj y.wobj).value < y.wcnt ∨ engineFree i x y = false) →
    exec (.syncWaitMet c) s = .next (modClu c (fun _ => { x with
      objs := if k.wkind = 2 then x.objs.modify k.wobj (fun y => { y with value := y.value - k.wcnt }) else x.objs
      eng := x.eng.modify e fun q => { q with queue := { k with granted := true } :: ks } }) s))

/-- The command of the row is at the head of the Hamming queue with its wait granted, not poisoned, its tile ranges aligned and
within tile memory. QLOAD loads the query registers and TLOAD the table from tile memory. XSCAN writes for each code the distance
to each query, as two bytes each in a row of 32 bytes. PQSCAN writes for each code of M bytes the sum of the M table values that
they select. SELECT writes the number of 2-byte distances that are at most the limit, and from the next granule on their indexes
in ascending order. Bytes outside what the command writes are as before; no other state changes but that the command has started.
A range beyond tile memory is a context fault of cause 7, an operation that no table lists one of cause 8. -/
def Obligations.HammingEngineComputesDistances : Prop :=
  ∀ (s : State) (c : Nat) (k : ECmd) (x : Clu) (a b n : Nat), s.headAt c 3 k x → k.sticky = false →
      a = k.opa.toNat % 2 ^ 24 → b = k.opb.toNat % 2 ^ 24 → n = k.opa.toNat / 2 ^ 32 → a % 64 = 0 →
    (∀ w, k.eop = 0 → w = k.opa.toNat / 2 ^ 40 % 64 → 1 ≤ w → w ≤ 32 → a + (n % 16 + 1) * w * 8 ≤ 2 ^ 24 →
      exec (.hammingQload c) s = .next (modClu c (fun _ => { x.started 3 0 k with ham := { x.ham with
        words := w, qs := (List.range (n % 16 + 1)).map fun i => x.tileRead (a + i * w * 8) (w * 8)
        qPois := (List.range (n % 16 + 1)).map fun i => x.poisIn (a + i * w * 8) (w * 8) } }) s)) ∧
    (∀ m, k.eop = 2 → m = n % 256 → 8 ≤ m → m ≤ 32 → m % 4 = 0 → a + 256 * m ≤ 2 ^ 24 →
      exec (.hammingTload c) s = .next (modClu c (fun _ => { x.started 3 0 k with ham := { x.ham with
        m := m, table := x.tileRead a (256 * m), tPois := x.poisIn a (256 * m) } }) s)) ∧
    (∀ len, k.eop = 1 → len = x.ham.words * 8 → a + n * len ≤ 2 ^ 24 → b % 64 = 0 → b + n * 32 ≤ 2 ^ 24 →
      x.ham.qs.length ≤ 16 →
      ∃ tile tpois, exec (.hammingXscan c) s = .next (modClu c (fun _ => { x.started 3 0 k with tile := tile, tpois := tpois }) s) ∧
        (∀ i < n, ∀ q y, x.ham.qs[q]? = some y →
          Mem.read 0 tile (b + 32 * i + 2 * q) 2 = leBytes 2 (hamming (x.tileRead (a + i * len) len) y)) ∧
        (∀ j, (∀ i < n, ¬(b + 32 * i ≤ j ∧ j < b + 32 * i + 2 * x.ham.qs.length)) → Mem.get 0 tile j = Mem.get 0 x.tile j)) ∧
    (∀ m, k.eop = 3 → m = x.ham.m → a + n * m ≤ 2 ^ 24 → b % 64 = 0 → b + 2 * n ≤ 2 ^ 24 →
      ∃ tile tpois, exec (.hammingPqscan c) s = .next (modClu c (fun _ => { x.started 3 0 k with tile := tile, tpois := tpois }) s) ∧
        (∀ i < n, Mem.read 0 tile (b + 2 * i) 2 = leBytes 2 (sumOf ((List.range m).map fun j =>
          (x.ham.table.getD (256 * j + (Mem.get 0 x.tile (a + i * m + j)).toNat) 0).toNat))) ∧
        (∀ j, ¬(b ≤ j ∧ j < b + 2 * n) → Mem.get 0 tile j = Mem.get 0 x.tile j)) ∧
    (∀ lim hits, k.eop = 4 → lim = k.opb.toNat / 2 ^ 32 % 65536 → a + 2 * n ≤ 2 ^ 24 → b % 64 = 0 →
      hits = (List.range n).filter (fun i => decide (leNat (x.tileRead (a + 2 * i) 2) ≤ lim)) → b + 64 + 4 * hits.length ≤ 2 ^ 24 →
      ∃ tile tpois, exec (.hammingSelect c) s = .next (modClu c (fun _ => { x.started 3 0 k with tile := tile, tpois := tpois }) s) ∧
        Mem.read 0 tile b 4 = leBytes 4 hits.length ∧
        (∀ i y, hits[i]? = some y → Mem.read 0 tile (b + 64 + 4 * i) 4 = leBytes 4 y) ∧
        (∀ j, ¬(b ≤ j ∧ j < b + 4) → ¬(b + 64 ≤ j ∧ j < b + 64 + 4 * hits.length) → Mem.get 0 tile j = Mem.get 0 x.tile j)) ∧
    (k.eop = 1 → 2 ^ 24 < a + n * (x.ham.words * 8) → exec (.hammingXscan c) s = .next (contextFault c k.pc 7 0 s)) ∧
    (4 < k.eop → exec (.hammingQload c) s = .next (contextFault c k.pc 8 0 s))

/-- The command is at the head of the vector queue with its wait granted, and the list lies in the image. When every entry is
valid, the engine has started the command, tile memory is as the entries leave it, one after the other, and nothing else changes;
where a reduction, a permute or a kernel reads poison, every granule that the list writes is poisoned (Table 7.5).
A list of one entry that adds INT32 elements into INT32 writes each sum, clamped to 32 bits, at the destination, and leaves every
other byte as it was. An empty list, one that reaches beyond the image, or an operation other than 0 is a context fault of cause
8; the first invalid entry is one of its cause. -/
def Obligations.VectorListsRunTheirEntries : Prop :=
  ∀ (s : State) (c : Nat) (k : ECmd) (x : Clu) (a n r : Nat), s.headAt c 2 k x → x.gen = x.imgen → a = k.opa.toNat % 2 ^ 18 →
      n = k.opa.toNat / 2 ^ 20 % 4096 → r = k.opa.toNat / 2 ^ 40 % 2 ^ 24 →
    (k.eop = 0 → n ≠ 0 → a + 16 * n ≤ x.imlen → (∀ i < n, (vEntry x a r i).bad = none) →
      ∀ vs y, vs = (List.range n).map (vEntry x a r) →
        y = vs.foldl (fun (p : Clu × Nat × Bool) v =>
          (vStep (k.opb.toNat % 2 ^ 32) p.2.1 k.sticky p.1 v, p.2.1 + v.n, p.2.2 || v.wholeHurt p.1)) (x, s.free, false) →
        ∃ tpois, exec (.vectorList c) s =
            .next ((modClu c (fun _ => { x.started 2 0 k with tile := y.1.tile, tpois := tpois }) s).modFree fun _ => y.2.1) ∧
          (y.2.2 = false → tpois = y.1.tpois) ∧
          (y.2.2 = true → ∀ g, g ∈ tpois ↔ g ∈ y.1.tpois ∨ ∃ v ∈ vs, v.d / 64 ≤ g ∧ g < v.d / 64 + (v.outSize + 63) / 64)) ∧
    (∀ v, k.eop = 0 → n = 1 → a + 16 ≤ x.imlen → v = vEntry x a r 0 → v.bad = none → v.vop = 1 → v.src = 3 → v.dst = 3 →
      ∃ t, exec (.vectorList c) s = .next t ∧
        (∀ j < 16 * v.ngran, Mem.read 0 (t.clu c).tile (v.d + 4 * j) 4 = leBytes 4 (unsignedN 32 (max (-(2 ^ 31)) (min (2 ^ 31 - 1)
          (signedN 32 (leNat (x.tileRead (v.s0 + 4 * j) 4)) + signedN 32 (leNat (x.tileRead (v.s1 + 4 * j) 4))))))) ∧
        (∀ j, ¬(v.d ≤ j ∧ j < v.d + 64 * v.ngran) → Mem.get 0 (t.clu c).tile j = Mem.get 0 x.tile j)) ∧
    (k.eop ≠ 0 ∨ n = 0 ∨ x.imlen < a + 16 * n → exec (.vectorList c) s = .next (contextFault c k.pc 8 0 s)) ∧
    (∀ i cause, k.eop = 0 → i < n → a + 16 * n ≤ x.imlen → (vEntry x a r i).bad = some cause →
      (∀ j < i, (vEntry x a r j).bad = none) → exec (.vectorList c) s = .next (contextFault c k.pc cause 0 s))

/-- The command is at the head of the matrix queue with its wait granted. Formats that are invalid are a context fault of cause 8,
an invalid schedule one of 0Bh, ranges beyond tile memory one of 7. A failing slot check is a timing fault, with the command
started; a residue mismatch of an array of the command fails that array. Otherwise the command has started, and the feeder slots
are as the schedule leaves them. A schedule without a DRAIN changes nothing else. With one DRAIN to INT32 of integer operands,
each element of C is written at its place, padding bytes are zero, every byte outside the rows is as before, and only the
arithmetic counts of the cluster change as well. -/
def Obligations.MatrixCommandsRunTheirSchedules : Prop :=
  ∀ (s : State) (c : Nat) (k : ECmd) (x : Clu) (d : MDesc) (es : List SEntry) (t : SlotSim), s.headAt c 1 k x → d = mDesc k.desc →
      es = (List.range d.slen).map (sEntry x d) → t = es.foldl (slotStep x d k.seq) ⟨x.slots, [], keepsFail d x.slots, 0⟩ →
    (∀ r, k.eop ≠ 0 ∨ d.formatsOk = false → exec (.matrixRun c r) s = .next (contextFault c k.pc 8 0 s)) ∧
    (k.eop = 0 → d.formatsOk = true →
      (∀ r, 2 ^ 15 < d.slen ∨ schedOk x d es = false → exec (.matrixRun c r) s = .next (contextFault c k.pc 0xB 0 s)) ∧
      (d.slen ≤ 2 ^ 15 → schedOk x d es = true →
        (∀ r, rangesOk d es = false → exec (.matrixRun c r) s = .next (contextFault c k.pc 7 0 s)) ∧
        (rangesOk d es = true →
          (∀ r f, t.fail = some f →
            exec (.matrixRun c r) s = .next (timingFault c k f (modClu c (fun _ => x.started 1 d.amask k) s))) ∧
          (t.fail = none → ∀ y, y = { x.started 1 d.amask k with slots := slotsAfter d k.seq t } →
            (∀ a, bit d.amask a = true →
              exec (.matrixRun c (some a)) s = .next (residueFault c a k (modClu c (fun _ => y) s))) ∧
            ((∀ e ∈ es, e.kind ≠ 3) → exec (.matrixRun c none) s = .next (modClu c (fun _ => y) s)) ∧
            (∀ e o, es.filter (fun e => e.kind == 3) = [e] → d.fc = 0xC → d.bit = false → (d.kind == .int) = true →
              o = unitOps d t (e.arr, quadOf d e.slot) →
              ∃ tile tpois ar, exec (.matrixRun c none) s =
                  .next (modClu c (fun _ => { y with tile := tile, tpois := tpois, ar := ar }) s) ∧
                (∀ m < d.outM, ∀ n < d.outN, Mem.read 0 tile (e.addr + m * d.rowBytes + 4 * n) 4 =
                  leBytes 4 (unsignedN 32 (intElem x d o m n).1)) ∧
                (∀ j, ¬(e.addr ≤ j ∧ j < e.addr + d.outM * d.rowBytes) → Mem.get 0 tile j = Mem.get 0 x.tile j))))))

/-- For integer operands without a codebook, when the zero point area holds the column sums of B for a zero point of A, the
element before the drain's format is the exact sum over k of (a less its zero point) times (b less its zero point), plus the old
element when the command accumulates, clamped once to 32 bits. -/
def Obligations.IntegerProductsAreExactThenClamped : Prop :=
  ∀ (x : Clu) (d : MDesc) (o : UnitOps) (m n : Nat) (a b : Nat → Int) (za zb c0 : Int),
    isCb d.fb = false → (∀ k, a k = intOf d.fa (codeA d o m k)) → (∀ k, b k = intOf d.fb (codeB d o k n)) →
    za = (if d.zpa then intOf (if d.fa = 0 ∨ d.fa = 2 then 0 else 1) d.za else 0) →
    zb = (if d.zpb then (leNat (x.tileRead (d.sumAt + 0x1000 + areaIx o.u n) 1) : Int) else 0) →
    c0 = (if d.acc then signedN 32 (leNat (x.tileRead (d.tc + m * d.accRow + 4 * n) 4)) else 0) →
    (d.zpa = true → signedN 32 (leNat (x.tileRead (d.sumAt + 4 * areaIx o.u n) 4)) = ((List.range d.k).map b).sum) →
    (intElem x d o m n).1 = max (-(2 ^ 31)) (min (2 ^ 31 - 1)
      (((List.range d.k).map fun k => (a k - za) * (b k - zb)).sum + c0))

/-- Nothing follows of itself from the state. A submission queue doorbell puts the entries between the tails behind the queue
while CSTS.RDY is 0; on a ready sled one entry is the command's row. A completion queue doorbell consumes entries. A doorbell that
names no queue, or a value outside its queue, raises an event of type Error and nothing else. Setting CC.EN makes the admin queue
pair. A normal shutdown notification leaves SHST 10b, the write-back buffer on flash and a clean-stop record in force, an abrupt
one SHST 10b alone. A controller disable, Hot Reset, Function Level Reset and the loss of the link do what R446 says, whatever
runs; NVM Subsystem Reset and PERST# what R447 says; a reset during a start before step 5 is absorbed; the release of PERST#
begins a start that it held. The link trains to a rate and width of Table 2.1. -/
def Obligations.HostPortEventsAreTaken : Prop :=
  ∀ (s : State),
    (∀ (q : Sq) tail entries, s.quiet → s.onBus = true → s.nvm.en = true → s.nvm.rdy = false →
      s.nvm.sqs.filter (fun x => x.id == q.id) = [q] → q.tail < q.size → tail < q.size →
      entries.length = (tail + q.size - q.tail) % q.size →
      exec (.submissionQueueDoorbell q.id tail entries) s = .next { s with nvm := { s.nvm with
        sqs := s.nvm.sqs.map fun x => if x.id == q.id then { x with
          tail := tail
          unfetched := entries.map fun e => ⟨e.opc, { e.cmd with sqid := q.id }⟩ } else x } }) ∧
    (∀ (q : Sq) (k : Cq) e, s.takes q k → s.onBus = true → q.tail < q.size →
      exec (.submissionQueueDoorbell q.id ((q.tail + 1) % q.size) [e]) s =
        .next (settle (submit e.opc { e.cmd with sqid := q.id } s))) ∧
    (∀ (k : Cq) head, s.quiet → s.onBus = true → s.nvm.en = true → s.nvm.cqs.filter (fun x => x.id == k.id) = [k] →
      k.backlog = [] → head < k.size → (head + k.size - k.head) % k.size ≤ (k.tail + k.size - k.head) % k.size →
      exec (.completionQueueDoorbell k.id head) s = .next { s with nvm := { s.nvm with
        cqs := s.nvm.cqs.map fun x => if x.id == k.id then { x with head := head } else x } }) ∧
    (∀ qid n l, s.quiet → s.onBus = true → s.nvm.en = true → s.boot.phase ≠ .trickle → s.nvm.aers = [] →
      s.nvm.masked.contains 1 = false → s.nvm.events.contains ⟨0, 0, 1⟩ = false →
      ((∀ x ∈ s.nvm.sqs, x.id ≠ qid) →
        exec (.submissionQueueDoorbell qid n l) s = .next { s with nvm := { s.nvm with events := s.nvm.events ++ [⟨0, 0, 1⟩] } }) ∧
      ((∀ x ∈ s.nvm.cqs, x.id ≠ qid) →
        exec (.completionQueueDoorbell qid n) s = .next { s with nvm := { s.nvm with events := s.nvm.events ++ [⟨0, 0, 1⟩] } })) ∧
    (∀ r, s.quiet → s.onBus = true → s.nvm.en = false → exec (.controllerEnable r) s = .next { s with nvm := { s.nvm with
        en := true
        rdy := s.boot.phase == .ready || s.boot.phase == .trickle
        cc := r.cc
        aqa := r.aqa
        asq := r.asq
        acq := r.acq
        shst := 0
        sqs := [⟨0, bits r.aqa.toNat 11 0 + 1, 0, 0, 0, 0, []⟩]
        cqs := [⟨0, bits r.aqa.toNat 27 16 + 1, 0, 0, 0, true, []⟩] } }) ∧
    (s.quiet → s.onBus = true → s.nvm.en = true →
      (∃ t, exec (.shutdownNotification 1) s = .next t ∧ t.media.wb = [] ∧ t.media.dirty = [] ∧
        t.media.offStamp = (if s.nvm.tsSet then some s.stamp else none) ∧
        t = { s with
          nvm := { s.nvm with shst := 2 }
          boot := { s.boot with clean := true }
          media := t.media
          free := t.free }) ∧
      exec (.shutdownNotification 2) s = .next { s with
        nvm := { s.nvm with shst := 2 }
        media := { s.media with offStamp := if s.nvm.tsSet then some s.stamp else none } } ∧
      exec (.shutdownNotification 0) s = .next s) ∧
    (s.escalate = false → s.lnk.bindWait = [] → s.onBus = true →
      (s.nvm.en = true → ∃ t, exec .controllerDisable s = .next t ∧ FunctionEnded s t ∧ t.nvm.link = s.nvm.link ∧
        t.nvm.aqa = s.nvm.aqa ∧ t.nvm.asq = s.nvm.asq ∧ t.nvm.acq = s.nvm.acq) ∧
      (∃ t, exec .hotReset s = .next t ∧ exec .functionLevelReset s = .next t ∧ FunctionEnded s t ∧ t.nvm.link = s.nvm.link ∧
        t.nvm.aqa = 0 ∧ t.nvm.asq = 0 ∧ t.nvm.acq = 0 ∧ t.nvm.pci = Pci.reset) ∧
      (∃ t, exec .linkDown s = .next t ∧ FunctionEnded s t ∧ t.nvm.link.up = false)) ∧
    (s.boot.phase = .replay ∨ s.boot.phase = .ready ∨ s.boot.phase = .trickle →
      (s.nvm.link.up = true → ∃ t, exec (.nvmSubsystemReset 0x4E564D65) s = .next t ∧ Restarted 2 s t ∧ t.gen.perst = s.gen.perst) ∧
      (∃ t, exec .perstAssert s = .next t ∧ Restarted 1 s t ∧ t.boot.phase = .held ∧ t.gen.perst = true)) ∧
    (∀ v, v ≠ 0x4E564D65 → exec (.nvmSubsystemReset v) s = .next s) ∧
    (s.quiet → (s.boot.phase = .fill ∨ s.boot.phase = .copy ∨ s.boot.phase = .held →
        exec .perstAssert s = .next { s with gen := { s.gen with perst := true } }) ∧
      (s.boot.phase = .held → exec .perstDeassert s = .next { s with
        gen := { s.gen with perst := false }
        boot := { s.boot with phase := .fill, t0 := s.now, ended := none, milestone := 0 } }) ∧
      (s.boot.phase ≠ .held → exec .perstDeassert s = .next { s with gen := { s.gen with perst := false } }) ∧
      (∀ rate width, s.answers = true → rate ∈ [128, 64, 32] → width ∈ [8, 4, 2, 1] →
        exec (.linkRetrain rate width) s = .next { s with nvm := { s.nvm with link := ⟨true, rate, width⟩ } }))

/-- Nothing follows of itself from the state. Power-good with at least 42 V begins a power-on start, everything that a power-on
reset reaches at reset. A fill that fails, or checkers that fail, fail the start with causes 4 and 3. Otherwise the last stop is
classed and the limit set; three failures enter Trickle mode with cause 9; a marker leads to the activation copy, none to the
verification of the slot. A copy that passes leaves the pending image in the slot, byte for byte, and the marker clear, and the
slot is verified; one that fails enters Trickle mode with cause 8. The end of replay, with the wake-ups granted, makes the sled
ready: FAILS 0, the open entry closed as ready, CSTS.RDY as CC.EN, the security floor in force. An unreadable checkpoint fails the
start with cause 6, an image that fails with 7, the start timer with 5 and KIND 4. -/
def Obligations.StartsRunTheirSteps : Prop :=
  ∀ (s : State), s.quiet →
    (∀ bay i3c vin, s.boot.phase = .off →
      (4200 ≤ vin → ∃ t, exec (.powerGood bay i3c vin) s = .next t ∧ t.boot.phase = .fill ∧ t.boot.kind = 0 ∧ t.boot.t0 = s.now ∧
        t.boot.milestone = 0 ∧ t.gen.bay = bay.toNat ∧ t.gen.i3c = i3c ∧ t.gen.pwrloss = false ∧ t.pwr.vin = vin ∧ t.pwr.grants = [] ∧
        t.cad = Cad.reset ∧ t.resv.mem = [] ∧ t.parts = List.replicate 8 Part.reset ∧ t.clus = s.clus.mapIdx Clu.afterReset ∧
        t.mgmt.ps = 0 ∧ t.nvm.en = false ∧ t.nvm.link.up = false ∧ t.sec.meas = List.replicate 6 (zeros 64) ∧
        t.ras.fatal = [] ∧ t.boot.flash = s.boot.flash) ∧
      (vin < 4200 → exec (.powerGood bay i3c vin) s = .next s)) ∧
    (∀ r, s.boot.phase = .fill →
      (r.fillOk = false → ∃ t, exec (.memoryFillDone r) s = .next t ∧ StartFailed 4 s t) ∧
      (r.fillOk = true → r.checkersOk = false → ∃ t, exec (.memoryFillDone r) s = .next t ∧ StartFailed 3 s t) ∧
      (r.fillOk = true → r.checkersOk = true → r.ledgerOk = true →
        ∃ t, exec (.memoryFillDone r) s = .next t ∧ t.boot.lastStop = lastStopOf r s.boot ∧
          t.boot.limit = (if t.boot.lastStop = 0 ∨ t.boot.lastStop = 3 then 180 else 600) ∧ t.boot.starts = s.boot.starts + 1 ∧
          (3 ≤ s.boot.fails → Trickled 9 s t ∧ t.boot.fails = s.boot.fails ∧
            ∃ e l, t.boot.entries = e :: l ∧ e.outcome = 4 ∧ e.cause = 9) ∧
          (s.boot.fails < 3 → t.ras.seqStart = s.boot.starts + 1 ∧
            (s.boot.marker = true → t.boot.phase = .copy ∧ t.boot.milestone = 3 ∧ t.boot.fails = s.boot.fails ∧
              ∃ e l, t.boot.entries = e :: l ∧ e.outcome = 0 ∧ e.kind = s.boot.kind) ∧
            (s.boot.marker = false → SlotVerified s.boot s t)))) ∧
    (s.boot.phase = .copy →
      (∃ t, exec (.activationCopyDone true) s = .next t ∧ t.boot.marker = false ∧
        (∀ a < 2 ^ 26, t.boot.byteAt a = s.boot.byteAt (2 ^ 26 + a)) ∧
        (s.entryOpen = true → SlotVerified (activate s.boot) s t)) ∧
      (∃ t, exec (.activationCopyDone false) s = .next t ∧ Trickled 8 s t ∧ t.boot.marker = s.boot.marker ∧
        t.boot.fails = s.boot.fails + 1 ∧ ∃ e l, t.boot.entries = e :: l ∧ e.outcome = 2 ∧ e.cause = 8)) ∧
    (∀ r, s.boot.phase = .replay →
      (s.awake = false → exec (.replayDone r) s = .next s) ∧
      (s.awake = true → r.checkpointOk = true → r.imageFails = false → s.mgmt.sanitize = none →
        ∃ t, exec (.replayDone r) s = .next t ∧ t.boot.phase = .ready ∧ t.boot.milestone = 8 ∧ t.boot.fails = 0 ∧
          t.nvm.rdy = s.nvm.en ∧ t.boot.ended = some ((s.now - s.boot.t0) / 1000) ∧
          t.sec.minsvn = max s.sec.minsvn s.sec.floor_ ∧ t.sec.revoked = s.sec.revoked ||| s.sec.toRevoke ∧
          (∀ e l, s.boot.entries = e :: l → e.outcome = 0 → ∃ e', t.boot.entries = e' :: l ∧ e'.outcome = 1 ∧ e'.milestone = 8)) ∧
      (s.awake = true → r.checkpointOk = false → ∃ t, exec (.replayDone r) s = .next t ∧ StartFailed 6 s t) ∧
      (s.awake = true → r.checkpointOk = true → r.imageFails = true →
        ∃ t, exec (.replayDone r) s = .next t ∧ StartFailed 7 s t ∧ t.boot.kind = 5)) ∧
    (s.boot.phase = .copy ∨ s.boot.phase = .replay →
      ∃ t, exec .startTimerExpiry s = .next t ∧ StartFailed 5 s t ∧ (s.gen.perst = false → t.boot.kind = 4))

/-- Nothing follows of itself from the state. A power-loss condition, an overvoltage trip or a power stage fault begins a dump on
a sled that is ready or replaying, and counts in PLOSS; before step 5 and in Trickle mode the sled is off at once; without power,
or during a dump, nothing changes. Overvoltage and a low input leave the envelope; a power stage fault is recorded as kind 15h. A
sensor above its critical threshold for 1 s begins a dump as well, after which the sled stays off until every sensor is cool. The
end of a dump leaves the sled off. A return into the envelope clears ENVELOPE. -/
def Obligations.PowerEventsEndRuns : Prop :=
  ∀ (s : State), s.quiet →
    (∀ i, i ∈ [Instr.powerLossCondition true, .powerLossCondition false, .overvoltageTrip] ∨ (∃ n, i = .powerStageFault n) →
      ((s.boot.phase = .ready ∨ s.boot.phase = .replay) → ∃ t, exec i s = .next t ∧ Dumping false s t ∧ t.pwr.ploss = sat32 s.pwr.ploss ∧
        (i = .powerLossCondition true → t.gen.pwrloss = true) ∧
        (i = .powerLossCondition false ∨ i = .overvoltageTrip → bit t.ras.promise 11 = true) ∧
        (∀ n, i = .powerStageFault n → ∃ e ∈ t.ras.ring, e.kind = 0x15 ∧ e.cls = 3 ∧ e.action = 9 ∧ e.inst = n)) ∧
      ((s.boot.phase = .trickle ∨ s.boot.phase = .fill ∨ s.boot.phase = .copy ∨ s.boot.phase = .held) →
        ∃ t, exec i s = .next t ∧ t.boot.phase = .off ∧ t.nvm.en = false ∧ t.nvm.link.up = false ∧ t.nvm.flights = [] ∧
          t.pwr.ploss = sat32 s.pwr.ploss) ∧
      ((s.boot.phase = .off ∨ s.boot.phase = .hot ∨ ∃ th, s.boot.phase = .dump th) → exec i s = .next s)) ∧
    (∀ th ok us j, s.boot.phase = .dump th → exec (.dumpComplete ok us j) s = .next { s with
        cis := { s.cis with dumps := sat32 s.cis.dumps, lastDump := us, dumpJ := j }
        media := { s.media with reserve := false }
        boot := { s.boot with phase := if th then .hot else .off, lastEnd := .power ok } }) ∧
    (∀ n, n < 7 → s.pwr.crit.getD n false = true →
      ((s.boot.phase = .ready ∨ s.boot.phase = .replay) → ∃ t, exec (.thermalShutdown n) s = .next t ∧ Dumping true s t ∧
        t.pwr.tshut = sat32 s.pwr.tshut) ∧
      ((s.boot.phase = .trickle ∨ s.boot.phase = .fill ∨ s.boot.phase = .copy ∨ s.boot.phase = .held) → ∃ t, exec (.thermalShutdown n) s = .next t ∧
        t.boot.phase = .hot ∧ t.nvm.en = false ∧ t.nvm.flights = [])) ∧
    (∀ n, 7 ≤ n → exec (.thermalShutdown n) s = .fault .absentUnit) ∧
    (∀ l, s.boot.phase = .hot →
      (coolEnough l = true → ∃ t, exec (.thermalShutdownRecovery l) s = .next t ∧ t.boot.phase = .fill ∧ t.boot.kind = 0 ∧
        t.boot.t0 = s.now ∧ t.pwr.temps = l ∧ t.cad = Cad.reset ∧ t.boot.flash = s.boot.flash) ∧
      (coolEnough l = false → exec (.thermalShutdownRecovery l) s = .next s)) ∧
    (s.powered = true → s.pwr.inRange = true → exec .envelopeRecovery s = .next { s with ras := { s.ras with
        promise := if bit s.ras.promise 11 then s.ras.promise - 2 ^ 11 else s.ras.promise } })

/-- The host reaches every block. A read returns a register and changes nothing else; an access that is no aligned one of 32 bits
reads 0 and writes nothing. Reading _LO of a pair latches its upper half, which the next read of _HI returns and releases; no _HI
can be written. A write of a W1C field clears the bits written as 1. HALTREQ, FRELOAD, a tile memory read, RAS_INJ and BOOT_PCTL
act, count and extend MEAS4 when the debug level allows them, and else count in SEC_DENIED. VALUE of an object is written only
while its cluster has no context. RAS_CTL and MED_CTL switch the patrols, BOOT_CTL resets, GEN_FAULT sets ATTN, CIS_TEST isolates
the first string. A program or erase that is not refused starts at PADDR; its end changes bytes as R434, R436 and R437 say, those
of an operation that failed being free values (log 9). A cluster or object that no sled has stops by name. -/
def Obligations.RegistersReadAndWrite : Prop :=
  ∀ (s : State), s.opened →
    (∀ a v size, size ≠ 4 ∨ a.toNat % 4 ≠ 0 →
      exec (.bar2Read a size) s = .next { s with busReply := 0 } ∧ exec (.bar2Write a v size) s = .next s) ∧
    (∀ v : Word, exec (.bar2Read 0x10010 4) s = .next { s with busReply := BitVec.ofNat 32 s.cad.viol } ∧
      (∀ n < s.variant.syncObjects, exec (.bar2Read (BitVec.ofNat 32 (0x2000000 + 16 * n)) 4) s =
        .next { s with busReply := BitVec.ofNat 32 ((s.clu (n / 128)).obj (n % 128)).value }) ∧
      exec (.bar2Write 0x40020 v 4) s = .next { s with boot := { s.boot with paddr := v.toNat / 512 % 2 ^ 19 * 512 } } ∧
      exec (.bar2Write 0x10010 v 4) s = .next s) ∧
    (∀ (a w v : Word) b off x, a.toNat % 4 = 0 → blockOf a.toNat = some (b, off) → s.reaches b = true → pairVal s b off = some x →
      exec (.registerPairLoRead a) s = .next { s with
        busReply := BitVec.ofNat 32 x
        gen := { s.gen with pairs := s.gen.pairs.filter (fun p => p.1 != a.toNat + 4) ++ [(a.toNat + 4, BitVec.ofNat 32 (x / 2 ^ 32))] } } ∧
      (s.gen.pairs.find? (fun p => p.1 == a.toNat + 4) = some (a.toNat + 4, w) →
        exec (.bar2Read (a + 4) 4) s = .next { s with
          busReply := w
          gen := { s.gen with pairs := s.gen.pairs.filter (fun p => p.1 != a.toNat + 4) } }) ∧
      exec (.registerPairHiWrite (a + 4) v) s = .next s) ∧
    (∀ c v x, s.hasClu c = true → s.clus[c]? = some x →
      (0 < s.sec.debug → exec (.cluCtlHaltreq c) s =
        .next (modClu c (fun x => { x with haltReq := true }) { s with sec := s.sec.acted 2 c 8 1 })) ∧
      (s.sec.debug = 0 → exec (.cluCtlHaltreq c) s = .next { s with sec := s.sec.turnedAway }) ∧
      (∀ o, 1 < s.sec.debug → x.improg ≠ 0 → s.stored? x.improg = some o → o.model = false → exec (.cluCtlFreload c) s =
        .next (modClu c (fun x => { x with imgen := (x.imgen + 1) % 65536, im := Mem.cells 0 0 (imgCode o.bytes) })
          { s with sec := s.sec.acted 3 c 8 2 })) ∧
      (1 < s.sec.debug → x.improg = 0 → x.imkind ≠ 255 → exec (.cluCtlFreload c) s = .next { s with sec := s.sec.acted 3 c 8 2 }) ∧
      (1 < s.sec.debug → x.improg ≠ 0 ∨ x.imkind = 255 → (∀ o, s.stored? x.improg = some o → o.model = true) → exec (.cluCtlFreload c) s =
        .next (modClu c (fun x => { x with imgen := (x.imgen + 1) % 65536 }) { s with sec := s.sec.acted 3 c 8 2 })) ∧
      (s.sec.debug < 2 → exec (.cluCtlFreload c) s = .next { s with sec := s.sec.turnedAway }) ∧
      (0 < s.sec.debug → s.quiescent c = true → exec (.cluTmctlRead c) s =
        .next (modClu c (fun x => { x with tmData := Mem.read 0 x.tile x.tma 64, tmPois := x.tpois.contains (x.tma / 64) })
          { s with sec := s.sec.acted 1 c 0x44 1 })) ∧
      (s.sec.debug = 0 → exec (.cluTmctlRead c) s =
        .next (modClu c (fun x => { x with tmRefused := true }) { s with sec := s.sec.turnedAway })) ∧
      (0 < s.sec.debug → s.quiescent c = false → exec (.cluTmctlRead c) s =
        .next (modClu c (fun x => { x with tmRefused := true }) s)) ∧
      (bit v.toNat 0 = false → exec (.cluTmctlWrite c v) s =
        .next (modClu c (fun x => { x with tmRefused := x.tmRefused && !bit v.toNat 1 }) s)) ∧
      exec (.cluTfinfoWrite c v) s =
        .next (modClu c (fun x => { x with tf := { x.tf with valid := x.tf.valid && !bit v.toNat 31 } }) s) ∧
      (∃ w, exec (.cluAstatWrite c v) s = .next (modClu c (fun x => { x with ar := { x.ar with astat := w } }) s) ∧
        ∀ n < 3, bit w n = (bit x.ar.astat n && !bit v.toNat n)) ∧
      (∀ n < 128, exec (.syncStatWrite (128 * c + n) v) s =
          .next (modClu c (Clu.modObj n fun o => { o with ovf := o.ovf && !bit v.toNat 0 }) s) ∧
        (x.run = false → exec (.syncValueWrite (128 * c + n) v) s =
          .next (modClu c (Clu.modObj n fun o => { o with value := v.toNat }) s)) ∧
        (x.run = true → exec (.syncValueWrite (128 * c + n) v) s = .next s))) ∧
    (∀ c v, 32 ≤ c → ∀ i, i ∈ [Instr.cluCtlHaltreq c, .cluCtlFreload c, .cluTmctlRead c, .cluTmctlWrite c v, .cluTfinfoWrite c v,
      .cluAstatWrite c v, .syncValueWrite (128 * c) v, .syncStatWrite (128 * c) v, .bootRwinRead (4 * c)] → exec i s = .fault .absentUnit) ∧
    (∀ v : Word,
      (∃ w, exec (.cadVstatWrite v) s = .next { s with cad := { s.cad with vstat := w } } ∧
        ∀ n < 4, bit w n = (bit s.cad.vstat n && !bit v.toNat n)) ∧
      (∀ x, bit v.toNat 0 = true → s.cis.test = none → s.cis.strings[0]? = some x → x.st ≠ 3 →
        (x.st = 0 → s.held ≤ allowWithout 0 s) → ∃ t, exec (.cisTestStart v) s = .next t ∧
          t.cis.test = some ⟨some 0, [1, 2, 3, 4, 5, 6, 7, 8], [], [], true, true⟩ ∧
          t.cis.strings = s.cis.strings.modify 0 (fun y => { y with st := 2, was := y.st }) ∧
          t.cis.allow = t.cis.allowance s.cfg.conf.allowcap) ∧
      (bit v.toNat 0 = false → exec (.cisTestStart v) s = .next s) ∧
      (∃ t, exec (.medCtlWrite v) s = .next t ∧ t.media = { s.media with scrubEn := bit v.toNat 0 } ∧
        (s.media.scrubEn = true → bit v.toNat 0 = false → bit t.ras.promise 10 = true) ∧
        (s.media.scrubEn = false ∨ bit v.toNat 0 = true → t.ras = s.ras)) ∧
      (∃ t, exec (.rasCtlWrite v) s = .next t ∧ t.ras.sramScrub = bit v.toNat 0 ∧ t.ras.hbmScrub = bit v.toNat 1 ∧
        (s.ras.sramScrub = true → bit v.toNat 0 = false → bit t.ras.promise 8 = true) ∧
        (s.ras.hbmScrub = true → bit v.toNat 1 = false → bit t.ras.promise 9 = true)) ∧
      (s.sec.debug = 2 → exec (.rasInjArm v) s = .next { s with
        sec := if bit v.toNat 2 then s.sec.acted 5 (v.toNat / 2 ^ 16 % 256) 0x48 v.toNat else s.sec
        ras := { s.ras with
          injInst := v.toNat / 2 ^ 16 % 256
          injMem := v.toNat / 256 % 256
          injType := v.toNat % 4
          injArm := s.ras.injArm || bit v.toNat 2 } }) ∧
      (s.sec.debug < 2 → exec (.rasInjArm v) s = .next { s with sec := s.sec.turnedAway }) ∧
      exec (.genFaultWrite v) s = .next { s with gen := { s.gen with attn := bit v.toNat 0 } } ∧
      (v.toNat / 2 ^ 16 = 0x4352 → bit v.toNat 0 = true →
        ∃ t, exec (.bootCtlCrst v) s = .next t ∧ Restarted 3 s t ∧ t.gen.perst = s.gen.perst) ∧
      (v.toNat / 2 ^ 16 ≠ 0x4352 ∨ bit v.toNat 0 = false → exec (.bootCtlCrst v) s = .next s) ∧
      exec (.bootPstatWrite v) s = .next { s with boot := { s.boot with
        rcoll := s.boot.rcoll && !bit v.toNat 4
        denied := s.boot.denied && !bit v.toNat 3
        refused := s.boot.refused && !bit v.toNat 2
        fail := s.boot.fail && !bit v.toNat 1 } }) ∧
    (∀ (v : Word) i n w, (i, n) ∈ [(Instr.bootNativeProgram v, 1), (.bootPulseVerifiedProgram v, 2), (.bootErase v, 3)] →
      w = v.toNat - v.toNat % 4 + n →
      (s.sec.debug < 2 → exec i s = .next { s with
        sec := s.sec.turnedAway
        boot := { s.boot with denied := true } }) ∧
      (s.sec.debug = 2 → bit v.toNat 8 = true → v.toNat / 2 ^ 16 = 0x5047 →
        (startRefused n s.boot.paddr s = true → exec i s = .next { s with boot := { s.boot with pop := n, refused := true } }) ∧
        (startRefused n s.boot.paddr s = false → exec i s = .next { s with
          sec := s.sec.acted 4 0 0x24 w
          boot := { s.boot with pop := n, op := some ⟨n, s.boot.paddr, if n = 3 then [] else s.boot.pbuf⟩ } })) ∧
      (s.sec.debug = 2 → bit v.toNat 8 = false ∨ v.toNat / 2 ^ 16 ≠ 0x5047 →
        exec i s = .next { s with boot := { s.boot with pop := n } })) ∧
    (∀ j a, j < 128 → a = s.boot.raddr + 4 * j →
      (s.boot.op.isSome = true →
        exec (.bootRwinRead j) s = .next { s with busReply := 0, boot := { s.boot with rcoll := true } }) ∧
      (s.boot.op = none → s.boot.locked a 4 = true →
        exec (.bootRwinRead j) s = .next { s with busReply := 0, boot := { s.boot with xoviol := sat32 s.boot.xoviol } }) ∧
      (s.boot.op = none → s.boot.locked a 4 = false → ¬(0x8000000 ≤ a ∧ a < 0xA000000) → exec (.bootRwinRead j) s =
        .next { s with busReply := BitVec.ofNat 32 (leNat ((List.range 4).map fun i => s.boot.byteAt (a + i))) })) ∧
    (∀ (o : FlashOp) passed pulses, s.boot.op = some o →
      ∃ t, exec (.bootFlashOperationDone passed pulses) s = .next t ∧ t.boot.op = none ∧
        t.boot.fail = (s.boot.fail || (!passed && o.op != 1)) ∧
        (o.op = 2 → t.boot.pulses = if passed then max 1 (min 16 pulses) else 16) ∧
        (o.op = 1 ∨ o.op = 2 → passed = true → (∀ j < o.data.length, t.boot.byteAt (o.addr + j) =
            s.boot.byteAt (o.addr + j) &&& o.data.getD j 0) ∧
          ∀ a, ¬(o.addr ≤ a ∧ a < o.addr + o.data.length) → t.boot.byteAt a = s.boot.byteAt a) ∧
        (o.op = 1 → passed = false → ∀ j < o.data.length, t.boot.byteAt (o.addr + j) =
          s.boot.byteAt (o.addr + j) &&& (o.data.getD j 0 ||| (Config.freeWord (s.free + j)).setWidth 8)) ∧
        (o.op = 2 → passed = false → ∀ j < 512, t.boot.byteAt (o.addr + j) = (Config.freeWord (s.free + j)).setWidth 8) ∧
        (o.op = 3 → passed = true → (∀ x ∈ s.boot.spoiled, x.1 / 2 ^ 22 = (x.1 + x.2.1 - 1) / 2 ^ 22) →
          ∀ a, t.boot.byteAt a = if a / 2 ^ 22 = o.addr / 2 ^ 22 then 0xFF else s.boot.byteAt a) ∧
        (o.op = 3 → passed = false → ∀ j < 2 ^ 22, t.boot.byteAt (o.addr / 2 ^ 22 * 2 ^ 22 + j) =
          (Config.freeWord (s.free + j)).setWidth 8))

/-- Nothing follows of itself from the ready sled. An accepted ordinary edge starts the next period, and the tracked period is the
median of the last 16; a rejected edge counts a violation with its bit of CAD_VSTAT; a marker after 16 periods starts a frame, at
which a pending operational state is in force; after a clean run it ends the surrogate. The loss of a tracked cadence, and 100 ms
without one, start the surrogate. A surrogate period advances the period or starts a frame. With each period the draw of the one
before is measured (R395), and only pulses of die sets with something to erase are asked for. In an owned period the one surge that
fits is granted, and in any period before a frame the grants grow by at most STEPW. A grant is released when it can be. Sensors
and strings read as reported; a string that broke has failed, and the spare switches in, which ends a test of it (the model's choice,
log 106). A test isolates a string, and its result is recorded and judged. A is recomputed from the strings. A recharge burst ends
with its grant. -/
def Obligations.CadencePowerAndCisternEventsAct : Prop :=
  ∀ (s : State), s.quiet → s.boot.phase = .ready →
    (∀ len high, s.cad.src = 1 → s.cad.frameViol < 63 →
      (pulseClass s.cad.period high = .ordinary → 40 * s.cad.period ≤ len * 100 → min (s.cad.pidx + 1) 16 ≠ s.cfg.conf.slot →
        ∃ t l, exec (.cadenceEdge len high) s = .next t ∧ (∀ g ∈ l, g.cls = 4 ∧ g.watts = 160) ∧ Measured s { s with
          cad := { s.cad with
            lens := lastN 16 (s.cad.lens ++ [len])
            tracked := median (lastN 16 (s.cad.lens ++ [len]))
            pidx := min (s.cad.pidx + 1) 16 }
          pwr := { s.pwr with surges := s.pwr.surges ++ l }
          gen := { s.gen with cadact := true } } t) ∧
      (∀ b, (pulseClass s.cad.period high = .glitch ∨ pulseClass s.cad.period high = .ambiguous) ∧ b = 2 ∨
          pulseClass s.cad.period high = .stuck ∧ b = 3 ∨
          pulseClass s.cad.period high = .ordinary ∧ len * 100 < 40 * s.cad.period ∧ b = 1 →
        exec (.cadenceEdge len high) s = .next { s with
          cad := { s.cad with
            viol := sat32 s.cad.viol
            frameViol := s.cad.frameViol + 1
            vstat := s.cad.vstat ||| 2 ^ b
            cand := [] }
          gen := { s.gen with cadact := true } }) ∧
      (pulseClass s.cad.period high = .marker → 40 * s.cad.period ≤ len * 100 → s.cfg.commit = none →
          s.cfg.conf.cadsrc = 0 → ∃ t, exec (.cadenceMarker len high) s = .next t ∧ t.cad.pidx = 0 ∧ t.cad.frames = s.cad.frames + 1 ∧ t.cad.frameViol = 0 ∧
          t.cad.realign = false ∧ t.cad.tracked = median (lastN 16 (s.cad.lens ++ [len])) ∧ t.cfg = s.cfg ∧
          t.cad.viol = (if s.cad.pidx = 15 then s.cad.viol else sat32 s.cad.viol) ∧
          (∀ ps q k, s.pwr.pendingPs = some (ps, q, k) → t.mgmt.ps = ps ∧ t.mgmt.lastOp = ps ∧ t.pwr.pendingPs = none))) ∧
    (∀ len high, s.cad.src = 2 → pulseClass s.cad.period high = .marker → 40 * s.cad.period ≤ len * 100 → cleanRun s.cad.cand = true →
      s.cfg.commit = none → s.cfg.conf.cadsrc = 0 → ∃ t, exec (.cadenceMarker len high) s = .next t ∧ t.cad.src = 1 ∧ t.cad.pidx = 0 ∧
        t.cad.realign = true ∧ t.cad.reacq = sat32 s.cad.reacq ∧ t.cad.tracked = median (s.cad.cand.map (·.1)) ∧
        t.cad.frames = s.cad.frames + 1) ∧
    (s.cad.src = 1 → ∃ t, exec .cadenceLoss s = .next t ∧ t.gen.cadact = false ∧ t.cad = { s.cad with
        src := 2, surr := sat32 s.cad.surr, loss := sat32 s.cad.loss, tracked := s.cad.period, cand := [], frameViol := 0
        pidx := s.cad.pidx % 16 } ∧
      ∃ e ∈ t.ras.ring, e.kind = 0x13 ∧ e.cls = 0) ∧
    (s.cad.src ≠ 1 → exec .cadenceLoss s = .next { s with gen := { s.gen with cadact := false } }) ∧
    (s.cad.src = 0 → ∃ t, exec .cadenceAcquireTimeout s = .next t ∧ t.cad = { s.cad with
        src := 2, noacq := true, tracked := s.cad.period, cand := [], surr := sat32 s.cad.surr }) ∧
    (s.cad.src ≠ 0 → exec .cadenceAcquireTimeout s = .next s) ∧
    (s.cad.src = 2 → s.cad.pidx < 15 →
      (s.cad.pidx + 1 ≠ s.cfg.conf.slot →
        ∃ t l, exec .surrogatePeriod s = .next t ∧ (∀ g ∈ l, g.cls = 4 ∧ g.watts = 160) ∧ Measured s { s with
          cad := { s.cad with pidx := s.cad.pidx + 1 }
          pwr := { s.pwr with surges := s.pwr.surges ++ l } } t) ∧
      (∀ t, exec .surrogatePeriod s = .next t →
        (t.pwr.grants.map (·.watts)).sum ≤ (s.pwr.grants.map (·.watts)).sum + s.cfg.conf.stepw * 10) ∧
      (∀ g, s.cad.pidx + 1 = s.cfg.conf.slot → s.cad.realign = false → s.pwr.hot = false → s.pwr.surges = [g] → g.cls ∈ [2, 3, 4] →
        g.unit ≠ .recharge → s.pwr.trimSteps = 0 → g.watts ≤ s.cfg.conf.stepw * 10 → s.drawD + g.watts ≤ s.ceiling * 10 →
        (∀ x ∈ s.pwr.grants, x.unit ≠ g.unit) → (g.cls = 4 → s.erasable = true) → (∀ b ∈ s.media.sbs, s.emptied b = false) →
        ∃ t, exec .surrogatePeriod s = .next t ∧ Measured s { s with
          cad := { s.cad with pidx := s.cad.pidx + 1 }
          pwr := { s.pwr with
            grants := s.pwr.grants ++ [⟨g.unit, g.watts, 0⟩]
            surges := []
            stagMax := max s.pwr.stagMax (s.now - g.at_)
            stagSum := s.pwr.stagSum + (s.now - g.at_) } } t)) ∧
    (s.cad.src = 2 → 15 ≤ s.cad.pidx → s.cfg.commit = none → s.cfg.conf.cadsrc = 0 → ∃ t, exec .surrogatePeriod s = .next t ∧
      t.cad = { s.cad with pidx := 0, frames := s.cad.frames + 1, frameViol := 0, realign := false }) ∧
    (∀ u, (s.releasable u = true → exec (.grantRelease u) s = .next { s with pwr := { s.pwr with
        grants := s.pwr.grants.filter fun g => g.unit != u } }) ∧
      (s.releasable u = false → exec (.grantRelease u) s = .next s)) ∧
    (∀ l, s.variant = .d1024 → l.length = 7 → (∀ i < 7, implausible s.pwr.sensed (s.pwr.temps.getD i 0) (l.getD i 0) = false) →
      4000 ≤ s.pwr.input → s.pwr.input ≤ 5950 → 150 ≤ l.getD 5 0 → l.getD 5 0 ≤ 450 → ∀ u, u = { s with pwr := { s.pwr with
        sensed := true
        temps := l
        implausible := List.replicate 7 false
        crit := (l.zip [1050, 1050, 1050, 950, 800, 500, 650]).map fun x => decide (x.2 < x.1) } } →
      (∃ t, exec (.thermalSensorRead l) s = .next t ∧ Apart u t) ∧
      (s.tempOut = true ∨ u.tempOut = false ∨ bit (s.feat 0x0B) 1 = false → exec (.thermalSensorRead l) s = .next u)) ∧
    (∀ l i, i < 7 → s.variant = .d1024 → implausible s.pwr.sensed (s.pwr.temps.getD i 0) (l.getD i 0) = true →
      (∀ e ∈ s.ras.ring, e.kind ≠ 0x16) → ∃ t, exec (.thermalSensorRead l) s = .next t ∧ t.pwr.implausible.getD i false = true ∧
        ∃ e ∈ t.ras.ring, e.kind = 0x16 ∧ e.inst = i) ∧
    (∀ r, s.cis.strings.length = 9 → ∃ t, exec (.stringMonitorRead r) s = .next t ∧ t.cis.temp = r.temp ∧
      (∀ i x, s.cis.strings[i]? = some x → ∃ y, t.cis.strings[i]? = some y ∧ y.mv = r.mv.getD i x.mv ∧ y.cap = x.cap ∧
        (i ∈ r.broken ∨ 300 < r.dev.getD i 0 → y.st = 3 ∧
          (x.st = 0 → (∀ j < 9, j ∈ r.broken ∨ 300 < r.dev.getD j 0 → j = i) → (s.cis.strings.getD 8 x).st = 1 →
            t.cis.switching = true)) ∧
        (i ∉ r.broken → r.dev.getD i 0 ≤ 300 → y.st = x.st))) ∧
    (s.cis.switching = true → ∃ t, exec .spareStringSwitchedIn s = .next t ∧ t.cis.switching = false ∧ bit t.ras.promise 6 = true ∧
      ((∀ c, s.cis.test = some c → c.current.isSome = true ∧ (c.current = some 8 → c.left = [])) →
        t.cis.strings = s.cis.strings.modify 8 (fun y =>
          if y.st = 1 ∨ y.st = 2 ∧ y.was = 1 then { y with st := 0, was := 0 } else y) ∧
        t.cis.allow = t.cis.allowance s.cfg.conf.allowcap ∧
        (∀ c, s.cis.test = some c → t.cis.test = if c.current = some 8 then none else some c))) ∧
    (s.cis.switching = false → exec .spareStringSwitchedIn s = .next s) ∧
    (∀ x, s.cis.test = none → s.cis.strings[0]? = some x → x.st ≠ 3 → (x.st = 0 → s.held ≤ allowWithout 0 s) →
      ∃ t, exec .stringTestSchedule s = .next t ∧ t.cis.test = some ⟨some 0, [1, 2, 3, 4, 5, 6, 7, 8], [], [], false, true⟩ ∧
        t.cis.strings = s.cis.strings.modify 0 fun y => { y with st := 2, was := y.st }) ∧
    (s.cis.test.isSome = true → exec .stringTestSchedule s = .next s) ∧
    (∀ i cap esr c x, s.cis.test = some c → c.current = some i → i < 9 → s.cis.strings[i]? = some x → x.st = 2 → c.left = [] → x.was < 2 →
      ∃ t y, exec (.stringTestDone i cap esr) s = .next t ∧ t.cis.strings[i]? = some y ∧ t.cis.test = none ∧ y.cap = cap ∧ y.esr = esr ∧
        y.st = (if cap < 1000 ∨ 3 * x.esr0 < esr then 3 else x.was) ∧ t.cis.lastTest = (if c.full then s.now else s.cis.lastTest) ∧
        t.cis.allow = t.cis.allowance s.cfg.conf.allowcap) ∧
    (∀ i cap esr, 9 ≤ i → exec (.stringTestDone i cap esr) s = .fault .absentUnit) ∧
    (s.cis.test = none → ∃ t, exec .allowanceRecompute s = .next t ∧ t.cis.strings = s.cis.strings ∧
      t.cis.allow = min (min s.cfg.conf.allowcap 32) ((min (min s.cis.eMeas s.cis.ePres) s.cis.eRepl - 60000) / 7000)) ∧
    (∀ b, s.cis.burst = some b → ∃ t, exec .rechargeBurstEnd s = .next t ∧ t.cis = { s.cis with burst := none } ∧
      t.pwr.grants = s.pwr.grants.filter (fun g => g.unit != .recharge)) ∧
    (s.cis.burst = none → exec .rechargeBurstEnd s = .next s)
end

