-- ==== Sys2Proof/Laws/State.lean ====
section
/-! SUPPORT. What each update of the state leaves alone: one lemma for each field and update, true by definition. -/

namespace Sys2Proof.Machine

@[simp] theorem State.modVariant_variant (f : Variant → Variant) (s : State) : (s.modVariant f).variant = f s.variant := rfl
@[simp] theorem State.modVariant_pending (f : Variant → Variant) (s : State) : (s.modVariant f).pending = s.pending := rfl
@[simp] theorem State.modVariant_free (f : Variant → Variant) (s : State) : (s.modVariant f).free = s.free := rfl
@[simp] theorem State.modVariant_now (f : Variant → Variant) (s : State) : (s.modVariant f).now = s.now := rfl
@[simp] theorem State.modVariant_upAt (f : Variant → Variant) (s : State) : (s.modVariant f).upAt = s.upAt := rfl
@[simp] theorem State.modVariant_busReply (f : Variant → Variant) (s : State) : (s.modVariant f).busReply = s.busReply := rfl
@[simp] theorem State.modVariant_hostWrites (f : Variant → Variant) (s : State) : (s.modVariant f).hostWrites = s.hostWrites := rfl
@[simp] theorem State.modVariant_nvm (f : Variant → Variant) (s : State) : (s.modVariant f).nvm = s.nvm := rfl
@[simp] theorem State.modVariant_mgmt (f : Variant → Variant) (s : State) : (s.modVariant f).mgmt = s.mgmt := rfl
@[simp] theorem State.modVariant_nss (f : Variant → Variant) (s : State) : (s.modVariant f).nss = s.nss := rfl
@[simp] theorem State.modVariant_keyGens (f : Variant → Variant) (s : State) : (s.modVariant f).keyGens = s.keyGens := rfl
@[simp] theorem State.modVariant_res (f : Variant → Variant) (s : State) : (s.modVariant f).res = s.res := rfl
@[simp] theorem State.modVariant_ras (f : Variant → Variant) (s : State) : (s.modVariant f).ras = s.ras := rfl
@[simp] theorem State.modVariant_escalate (f : Variant → Variant) (s : State) : (s.modVariant f).escalate = s.escalate := rfl
@[simp] theorem State.modVariant_cfg (f : Variant → Variant) (s : State) : (s.modVariant f).cfg = s.cfg := rfl
@[simp] theorem State.modVariant_parts (f : Variant → Variant) (s : State) : (s.modVariant f).parts = s.parts := rfl
@[simp] theorem State.modVariant_presets (f : Variant → Variant) (s : State) : (s.modVariant f).presets = s.presets := rfl
@[simp] theorem State.modVariant_store (f : Variant → Variant) (s : State) : (s.modVariant f).store = s.store := rfl
@[simp] theorem State.modVariant_resv (f : Variant → Variant) (s : State) : (s.modVariant f).resv = s.resv := rfl
@[simp] theorem State.modVariant_idx (f : Variant → Variant) (s : State) : (s.modVariant f).idx = s.idx := rfl
@[simp] theorem State.modVariant_media (f : Variant → Variant) (s : State) : (s.modVariant f).media = s.media := rfl
@[simp] theorem State.modVariant_cad (f : Variant → Variant) (s : State) : (s.modVariant f).cad = s.cad := rfl
@[simp] theorem State.modVariant_pwr (f : Variant → Variant) (s : State) : (s.modVariant f).pwr = s.pwr := rfl
@[simp] theorem State.modVariant_cis (f : Variant → Variant) (s : State) : (s.modVariant f).cis = s.cis := rfl
@[simp] theorem State.modVariant_clus (f : Variant → Variant) (s : State) : (s.modVariant f).clus = s.clus := rfl
@[simp] theorem State.modVariant_sigs (f : Variant → Variant) (s : State) : (s.modVariant f).sigs = s.sigs := rfl
@[simp] theorem State.modVariant_lnk (f : Variant → Variant) (s : State) : (s.modVariant f).lnk = s.lnk := rfl
@[simp] theorem State.modVariant_boot (f : Variant → Variant) (s : State) : (s.modVariant f).boot = s.boot := rfl
@[simp] theorem State.modVariant_sec (f : Variant → Variant) (s : State) : (s.modVariant f).sec = s.sec := rfl
@[simp] theorem State.modVariant_gen (f : Variant → Variant) (s : State) : (s.modVariant f).gen = s.gen := rfl
@[simp] theorem State.modPending_variant (f : List Instr → List Instr) (s : State) : (s.modPending f).variant = s.variant := rfl
@[simp] theorem State.modPending_pending (f : List Instr → List Instr) (s : State) : (s.modPending f).pending = f s.pending := rfl
@[simp] theorem State.modPending_free (f : List Instr → List Instr) (s : State) : (s.modPending f).free = s.free := rfl
@[simp] theorem State.modPending_now (f : List Instr → List Instr) (s : State) : (s.modPending f).now = s.now := rfl
@[simp] theorem State.modPending_upAt (f : List Instr → List Instr) (s : State) : (s.modPending f).upAt = s.upAt := rfl
@[simp] theorem State.modPending_busReply (f : List Instr → List Instr) (s : State) : (s.modPending f).busReply = s.busReply := rfl
@[simp] theorem State.modPending_hostWrites (f : List Instr → List Instr) (s : State) : (s.modPending f).hostWrites = s.hostWrites := rfl
@[simp] theorem State.modPending_nvm (f : List Instr → List Instr) (s : State) : (s.modPending f).nvm = s.nvm := rfl
@[simp] theorem State.modPending_mgmt (f : List Instr → List Instr) (s : State) : (s.modPending f).mgmt = s.mgmt := rfl
@[simp] theorem State.modPending_nss (f : List Instr → List Instr) (s : State) : (s.modPending f).nss = s.nss := rfl
@[simp] theorem State.modPending_keyGens (f : List Instr → List Instr) (s : State) : (s.modPending f).keyGens = s.keyGens := rfl
@[simp] theorem State.modPending_res (f : List Instr → List Instr) (s : State) : (s.modPending f).res = s.res := rfl
@[simp] theorem State.modPending_ras (f : List Instr → List Instr) (s : State) : (s.modPending f).ras = s.ras := rfl
@[simp] theorem State.modPending_escalate (f : List Instr → List Instr) (s : State) : (s.modPending f).escalate = s.escalate := rfl
@[simp] theorem State.modPending_cfg (f : List Instr → List Instr) (s : State) : (s.modPending f).cfg = s.cfg := rfl
@[simp] theorem State.modPending_parts (f : List Instr → List Instr) (s : State) : (s.modPending f).parts = s.parts := rfl
@[simp] theorem State.modPending_presets (f : List Instr → List Instr) (s : State) : (s.modPending f).presets = s.presets := rfl
@[simp] theorem State.modPending_store (f : List Instr → List Instr) (s : State) : (s.modPending f).store = s.store := rfl
@[simp] theorem State.modPending_resv (f : List Instr → List Instr) (s : State) : (s.modPending f).resv = s.resv := rfl
@[simp] theorem State.modPending_idx (f : List Instr → List Instr) (s : State) : (s.modPending f).idx = s.idx := rfl
@[simp] theorem State.modPending_media (f : List Instr → List Instr) (s : State) : (s.modPending f).media = s.media := rfl
@[simp] theorem State.modPending_cad (f : List Instr → List Instr) (s : State) : (s.modPending f).cad = s.cad := rfl
@[simp] theorem State.modPending_pwr (f : List Instr → List Instr) (s : State) : (s.modPending f).pwr = s.pwr := rfl
@[simp] theorem State.modPending_cis (f : List Instr → List Instr) (s : State) : (s.modPending f).cis = s.cis := rfl
@[simp] theorem State.modPending_clus (f : List Instr → List Instr) (s : State) : (s.modPending f).clus = s.clus := rfl
@[simp] theorem State.modPending_sigs (f : List Instr → List Instr) (s : State) : (s.modPending f).sigs = s.sigs := rfl
@[simp] theorem State.modPending_lnk (f : List Instr → List Instr) (s : State) : (s.modPending f).lnk = s.lnk := rfl
@[simp] theorem State.modPending_boot (f : List Instr → List Instr) (s : State) : (s.modPending f).boot = s.boot := rfl
@[simp] theorem State.modPending_sec (f : List Instr → List Instr) (s : State) : (s.modPending f).sec = s.sec := rfl
@[simp] theorem State.modPending_gen (f : List Instr → List Instr) (s : State) : (s.modPending f).gen = s.gen := rfl
@[simp] theorem State.modFree_variant (f : Nat → Nat) (s : State) : (s.modFree f).variant = s.variant := rfl
@[simp] theorem State.modFree_pending (f : Nat → Nat) (s : State) : (s.modFree f).pending = s.pending := rfl
@[simp] theorem State.modFree_free (f : Nat → Nat) (s : State) : (s.modFree f).free = f s.free := rfl
@[simp] theorem State.modFree_now (f : Nat → Nat) (s : State) : (s.modFree f).now = s.now := rfl
@[simp] theorem State.modFree_upAt (f : Nat → Nat) (s : State) : (s.modFree f).upAt = s.upAt := rfl
@[simp] theorem State.modFree_busReply (f : Nat → Nat) (s : State) : (s.modFree f).busReply = s.busReply := rfl
@[simp] theorem State.modFree_hostWrites (f : Nat → Nat) (s : State) : (s.modFree f).hostWrites = s.hostWrites := rfl
@[simp] theorem State.modFree_nvm (f : Nat → Nat) (s : State) : (s.modFree f).nvm = s.nvm := rfl
@[simp] theorem State.modFree_mgmt (f : Nat → Nat) (s : State) : (s.modFree f).mgmt = s.mgmt := rfl
@[simp] theorem State.modFree_nss (f : Nat → Nat) (s : State) : (s.modFree f).nss = s.nss := rfl
@[simp] theorem State.modFree_keyGens (f : Nat → Nat) (s : State) : (s.modFree f).keyGens = s.keyGens := rfl
@[simp] theorem State.modFree_res (f : Nat → Nat) (s : State) : (s.modFree f).res = s.res := rfl
@[simp] theorem State.modFree_ras (f : Nat → Nat) (s : State) : (s.modFree f).ras = s.ras := rfl
@[simp] theorem State.modFree_escalate (f : Nat → Nat) (s : State) : (s.modFree f).escalate = s.escalate := rfl
@[simp] theorem State.modFree_cfg (f : Nat → Nat) (s : State) : (s.modFree f).cfg = s.cfg := rfl
@[simp] theorem State.modFree_parts (f : Nat → Nat) (s : State) : (s.modFree f).parts = s.parts := rfl
@[simp] theorem State.modFree_presets (f : Nat → Nat) (s : State) : (s.modFree f).presets = s.presets := rfl
@[simp] theorem State.modFree_store (f : Nat → Nat) (s : State) : (s.modFree f).store = s.store := rfl
@[simp] theorem State.modFree_resv (f : Nat → Nat) (s : State) : (s.modFree f).resv = s.resv := rfl
@[simp] theorem State.modFree_idx (f : Nat → Nat) (s : State) : (s.modFree f).idx = s.idx := rfl
@[simp] theorem State.modFree_media (f : Nat → Nat) (s : State) : (s.modFree f).media = s.media := rfl
@[simp] theorem State.modFree_cad (f : Nat → Nat) (s : State) : (s.modFree f).cad = s.cad := rfl
@[simp] theorem State.modFree_pwr (f : Nat → Nat) (s : State) : (s.modFree f).pwr = s.pwr := rfl
@[simp] theorem State.modFree_cis (f : Nat → Nat) (s : State) : (s.modFree f).cis = s.cis := rfl
@[simp] theorem State.modFree_clus (f : Nat → Nat) (s : State) : (s.modFree f).clus = s.clus := rfl
@[simp] theorem State.modFree_sigs (f : Nat → Nat) (s : State) : (s.modFree f).sigs = s.sigs := rfl
@[simp] theorem State.modFree_lnk (f : Nat → Nat) (s : State) : (s.modFree f).lnk = s.lnk := rfl
@[simp] theorem State.modFree_boot (f : Nat → Nat) (s : State) : (s.modFree f).boot = s.boot := rfl
@[simp] theorem State.modFree_sec (f : Nat → Nat) (s : State) : (s.modFree f).sec = s.sec := rfl
@[simp] theorem State.modFree_gen (f : Nat → Nat) (s : State) : (s.modFree f).gen = s.gen := rfl
@[simp] theorem State.modNow_variant (f : Nat → Nat) (s : State) : (s.modNow f).variant = s.variant := rfl
@[simp] theorem State.modNow_pending (f : Nat → Nat) (s : State) : (s.modNow f).pending = s.pending := rfl
@[simp] theorem State.modNow_free (f : Nat → Nat) (s : State) : (s.modNow f).free = s.free := rfl
@[simp] theorem State.modNow_now (f : Nat → Nat) (s : State) : (s.modNow f).now = f s.now := rfl
@[simp] theorem State.modNow_upAt (f : Nat → Nat) (s : State) : (s.modNow f).upAt = s.upAt := rfl
@[simp] theorem State.modNow_busReply (f : Nat → Nat) (s : State) : (s.modNow f).busReply = s.busReply := rfl
@[simp] theorem State.modNow_hostWrites (f : Nat → Nat) (s : State) : (s.modNow f).hostWrites = s.hostWrites := rfl
@[simp] theorem State.modNow_nvm (f : Nat → Nat) (s : State) : (s.modNow f).nvm = s.nvm := rfl
@[simp] theorem State.modNow_mgmt (f : Nat → Nat) (s : State) : (s.modNow f).mgmt = s.mgmt := rfl
@[simp] theorem State.modNow_nss (f : Nat → Nat) (s : State) : (s.modNow f).nss = s.nss := rfl
@[simp] theorem State.modNow_keyGens (f : Nat → Nat) (s : State) : (s.modNow f).keyGens = s.keyGens := rfl
@[simp] theorem State.modNow_res (f : Nat → Nat) (s : State) : (s.modNow f).res = s.res := rfl
@[simp] theorem State.modNow_ras (f : Nat → Nat) (s : State) : (s.modNow f).ras = s.ras := rfl
@[simp] theorem State.modNow_escalate (f : Nat → Nat) (s : State) : (s.modNow f).escalate = s.escalate := rfl
@[simp] theorem State.modNow_cfg (f : Nat → Nat) (s : State) : (s.modNow f).cfg = s.cfg := rfl
@[simp] theorem State.modNow_parts (f : Nat → Nat) (s : State) : (s.modNow f).parts = s.parts := rfl
@[simp] theorem State.modNow_presets (f : Nat → Nat) (s : State) : (s.modNow f).presets = s.presets := rfl
@[simp] theorem State.modNow_store (f : Nat → Nat) (s : State) : (s.modNow f).store = s.store := rfl
@[simp] theorem State.modNow_resv (f : Nat → Nat) (s : State) : (s.modNow f).resv = s.resv := rfl
@[simp] theorem State.modNow_idx (f : Nat → Nat) (s : State) : (s.modNow f).idx = s.idx := rfl
@[simp] theorem State.modNow_media (f : Nat → Nat) (s : State) : (s.modNow f).media = s.media := rfl
@[simp] theorem State.modNow_cad (f : Nat → Nat) (s : State) : (s.modNow f).cad = s.cad := rfl
@[simp] theorem State.modNow_pwr (f : Nat → Nat) (s : State) : (s.modNow f).pwr = s.pwr := rfl
@[simp] theorem State.modNow_cis (f : Nat → Nat) (s : State) : (s.modNow f).cis = s.cis := rfl
@[simp] theorem State.modNow_clus (f : Nat → Nat) (s : State) : (s.modNow f).clus = s.clus := rfl
@[simp] theorem State.modNow_sigs (f : Nat → Nat) (s : State) : (s.modNow f).sigs = s.sigs := rfl
@[simp] theorem State.modNow_lnk (f : Nat → Nat) (s : State) : (s.modNow f).lnk = s.lnk := rfl
@[simp] theorem State.modNow_boot (f : Nat → Nat) (s : State) : (s.modNow f).boot = s.boot := rfl
@[simp] theorem State.modNow_sec (f : Nat → Nat) (s : State) : (s.modNow f).sec = s.sec := rfl
@[simp] theorem State.modNow_gen (f : Nat → Nat) (s : State) : (s.modNow f).gen = s.gen := rfl
@[simp] theorem State.modUpAt_variant (f : Nat → Nat) (s : State) : (s.modUpAt f).variant = s.variant := rfl
@[simp] theorem State.modUpAt_pending (f : Nat → Nat) (s : State) : (s.modUpAt f).pending = s.pending := rfl
@[simp] theorem State.modUpAt_free (f : Nat → Nat) (s : State) : (s.modUpAt f).free = s.free := rfl
@[simp] theorem State.modUpAt_now (f : Nat → Nat) (s : State) : (s.modUpAt f).now = s.now := rfl
@[simp] theorem State.modUpAt_upAt (f : Nat → Nat) (s : State) : (s.modUpAt f).upAt = f s.upAt := rfl
@[simp] theorem State.modUpAt_busReply (f : Nat → Nat) (s : State) : (s.modUpAt f).busReply = s.busReply := rfl
@[simp] theorem State.modUpAt_hostWrites (f : Nat → Nat) (s : State) : (s.modUpAt f).hostWrites = s.hostWrites := rfl
@[simp] theorem State.modUpAt_nvm (f : Nat → Nat) (s : State) : (s.modUpAt f).nvm = s.nvm := rfl
@[simp] theorem State.modUpAt_mgmt (f : Nat → Nat) (s : State) : (s.modUpAt f).mgmt = s.mgmt := rfl
@[simp] theorem State.modUpAt_nss (f : Nat → Nat) (s : State) : (s.modUpAt f).nss = s.nss := rfl
@[simp] theorem State.modUpAt_keyGens (f : Nat → Nat) (s : State) : (s.modUpAt f).keyGens = s.keyGens := rfl
@[simp] theorem State.modUpAt_res (f : Nat → Nat) (s : State) : (s.modUpAt f).res = s.res := rfl
@[simp] theorem State.modUpAt_ras (f : Nat → Nat) (s : State) : (s.modUpAt f).ras = s.ras := rfl
@[simp] theorem State.modUpAt_escalate (f : Nat → Nat) (s : State) : (s.modUpAt f).escalate = s.escalate := rfl
@[simp] theorem State.modUpAt_cfg (f : Nat → Nat) (s : State) : (s.modUpAt f).cfg = s.cfg := rfl
@[simp] theorem State.modUpAt_parts (f : Nat → Nat) (s : State) : (s.modUpAt f).parts = s.parts := rfl
@[simp] theorem State.modUpAt_presets (f : Nat → Nat) (s : State) : (s.modUpAt f).presets = s.presets := rfl
@[simp] theorem State.modUpAt_store (f : Nat → Nat) (s : State) : (s.modUpAt f).store = s.store := rfl
@[simp] theorem State.modUpAt_resv (f : Nat → Nat) (s : State) : (s.modUpAt f).resv = s.resv := rfl
@[simp] theorem State.modUpAt_idx (f : Nat → Nat) (s : State) : (s.modUpAt f).idx = s.idx := rfl
@[simp] theorem State.modUpAt_media (f : Nat → Nat) (s : State) : (s.modUpAt f).media = s.media := rfl
@[simp] theorem State.modUpAt_cad (f : Nat → Nat) (s : State) : (s.modUpAt f).cad = s.cad := rfl
@[simp] theorem State.modUpAt_pwr (f : Nat → Nat) (s : State) : (s.modUpAt f).pwr = s.pwr := rfl
@[simp] theorem State.modUpAt_cis (f : Nat → Nat) (s : State) : (s.modUpAt f).cis = s.cis := rfl
@[simp] theorem State.modUpAt_clus (f : Nat → Nat) (s : State) : (s.modUpAt f).clus = s.clus := rfl
@[simp] theorem State.modUpAt_sigs (f : Nat → Nat) (s : State) : (s.modUpAt f).sigs = s.sigs := rfl
@[simp] theorem State.modUpAt_lnk (f : Nat → Nat) (s : State) : (s.modUpAt f).lnk = s.lnk := rfl
@[simp] theorem State.modUpAt_boot (f : Nat → Nat) (s : State) : (s.modUpAt f).boot = s.boot := rfl
@[simp] theorem State.modUpAt_sec (f : Nat → Nat) (s : State) : (s.modUpAt f).sec = s.sec := rfl
@[simp] theorem State.modUpAt_gen (f : Nat → Nat) (s : State) : (s.modUpAt f).gen = s.gen := rfl
@[simp] theorem State.modBusReply_variant (f : Word → Word) (s : State) : (s.modBusReply f).variant = s.variant := rfl
@[simp] theorem State.modBusReply_pending (f : Word → Word) (s : State) : (s.modBusReply f).pending = s.pending := rfl
@[simp] theorem State.modBusReply_free (f : Word → Word) (s : State) : (s.modBusReply f).free = s.free := rfl
@[simp] theorem State.modBusReply_now (f : Word → Word) (s : State) : (s.modBusReply f).now = s.now := rfl
@[simp] theorem State.modBusReply_upAt (f : Word → Word) (s : State) : (s.modBusReply f).upAt = s.upAt := rfl
@[simp] theorem State.modBusReply_busReply (f : Word → Word) (s : State) : (s.modBusReply f).busReply = f s.busReply := rfl
@[simp] theorem State.modBusReply_hostWrites (f : Word → Word) (s : State) : (s.modBusReply f).hostWrites = s.hostWrites := rfl
@[simp] theorem State.modBusReply_nvm (f : Word → Word) (s : State) : (s.modBusReply f).nvm = s.nvm := rfl
@[simp] theorem State.modBusReply_mgmt (f : Word → Word) (s : State) : (s.modBusReply f).mgmt = s.mgmt := rfl
@[simp] theorem State.modBusReply_nss (f : Word → Word) (s : State) : (s.modBusReply f).nss = s.nss := rfl
@[simp] theorem State.modBusReply_keyGens (f : Word → Word) (s : State) : (s.modBusReply f).keyGens = s.keyGens := rfl
@[simp] theorem State.modBusReply_res (f : Word → Word) (s : State) : (s.modBusReply f).res = s.res := rfl
@[simp] theorem State.modBusReply_ras (f : Word → Word) (s : State) : (s.modBusReply f).ras = s.ras := rfl
@[simp] theorem State.modBusReply_escalate (f : Word → Word) (s : State) : (s.modBusReply f).escalate = s.escalate := rfl
@[simp] theorem State.modBusReply_cfg (f : Word → Word) (s : State) : (s.modBusReply f).cfg = s.cfg := rfl
@[simp] theorem State.modBusReply_parts (f : Word → Word) (s : State) : (s.modBusReply f).parts = s.parts := rfl
@[simp] theorem State.modBusReply_presets (f : Word → Word) (s : State) : (s.modBusReply f).presets = s.presets := rfl
@[simp] theorem State.modBusReply_store (f : Word → Word) (s : State) : (s.modBusReply f).store = s.store := rfl
@[simp] theorem State.modBusReply_resv (f : Word → Word) (s : State) : (s.modBusReply f).resv = s.resv := rfl
@[simp] theorem State.modBusReply_idx (f : Word → Word) (s : State) : (s.modBusReply f).idx = s.idx := rfl
@[simp] theorem State.modBusReply_media (f : Word → Word) (s : State) : (s.modBusReply f).media = s.media := rfl
@[simp] theorem State.modBusReply_cad (f : Word → Word) (s : State) : (s.modBusReply f).cad = s.cad := rfl
@[simp] theorem State.modBusReply_pwr (f : Word → Word) (s : State) : (s.modBusReply f).pwr = s.pwr := rfl
@[simp] theorem State.modBusReply_cis (f : Word → Word) (s : State) : (s.modBusReply f).cis = s.cis := rfl
@[simp] theorem State.modBusReply_clus (f : Word → Word) (s : State) : (s.modBusReply f).clus = s.clus := rfl
@[simp] theorem State.modBusReply_sigs (f : Word → Word) (s : State) : (s.modBusReply f).sigs = s.sigs := rfl
@[simp] theorem State.modBusReply_lnk (f : Word → Word) (s : State) : (s.modBusReply f).lnk = s.lnk := rfl
@[simp] theorem State.modBusReply_boot (f : Word → Word) (s : State) : (s.modBusReply f).boot = s.boot := rfl
@[simp] theorem State.modBusReply_sec (f : Word → Word) (s : State) : (s.modBusReply f).sec = s.sec := rfl
@[simp] theorem State.modBusReply_gen (f : Word → Word) (s : State) : (s.modBusReply f).gen = s.gen := rfl
@[simp] theorem State.modHostWrites_variant (f : List HostWrite → List HostWrite) (s : State) : (s.modHostWrites f).variant = s.variant := rfl
@[simp] theorem State.modHostWrites_pending (f : List HostWrite → List HostWrite) (s : State) : (s.modHostWrites f).pending = s.pending := rfl
@[simp] theorem State.modHostWrites_free (f : List HostWrite → List HostWrite) (s : State) : (s.modHostWrites f).free = s.free := rfl
@[simp] theorem State.modHostWrites_now (f : List HostWrite → List HostWrite) (s : State) : (s.modHostWrites f).now = s.now := rfl
@[simp] theorem State.modHostWrites_upAt (f : List HostWrite → List HostWrite) (s : State) : (s.modHostWrites f).upAt = s.upAt := rfl
@[simp] theorem State.modHostWrites_busReply (f : List HostWrite → List HostWrite) (s : State) : (s.modHostWrites f).busReply = s.busReply := rfl
@[simp] theorem State.modHostWrites_hostWrites (f : List HostWrite → List HostWrite) (s : State) : (s.modHostWrites f).hostWrites = f s.hostWrites := rfl
@[simp] theorem State.modHostWrites_nvm (f : List HostWrite → List HostWrite) (s : State) : (s.modHostWrites f).nvm = s.nvm := rfl
@[simp] theorem State.modHostWrites_mgmt (f : List HostWrite → List HostWrite) (s : State) : (s.modHostWrites f).mgmt = s.mgmt := rfl
@[simp] theorem State.modHostWrites_nss (f : List HostWrite → List HostWrite) (s : State) : (s.modHostWrites f).nss = s.nss := rfl
@[simp] theorem State.modHostWrites_keyGens (f : List HostWrite → List HostWrite) (s : State) : (s.modHostWrites f).keyGens = s.keyGens := rfl
@[simp] theorem State.modHostWrites_res (f : List HostWrite → List HostWrite) (s : State) : (s.modHostWrites f).res = s.res := rfl
@[simp] theorem State.modHostWrites_ras (f : List HostWrite → List HostWrite) (s : State) : (s.modHostWrites f).ras = s.ras := rfl
@[simp] theorem State.modHostWrites_escalate (f : List HostWrite → List HostWrite) (s : State) : (s.modHostWrites f).escalate = s.escalate := rfl
@[simp] theorem State.modHostWrites_cfg (f : List HostWrite → List HostWrite) (s : State) : (s.modHostWrites f).cfg = s.cfg := rfl
@[simp] theorem State.modHostWrites_parts (f : List HostWrite → List HostWrite) (s : State) : (s.modHostWrites f).parts = s.parts := rfl
@[simp] theorem State.modHostWrites_presets (f : List HostWrite → List HostWrite) (s : State) : (s.modHostWrites f).presets = s.presets := rfl
@[simp] theorem State.modHostWrites_store (f : List HostWrite → List HostWrite) (s : State) : (s.modHostWrites f).store = s.store := rfl
@[simp] theorem State.modHostWrites_resv (f : List HostWrite → List HostWrite) (s : State) : (s.modHostWrites f).resv = s.resv := rfl
@[simp] theorem State.modHostWrites_idx (f : List HostWrite → List HostWrite) (s : State) : (s.modHostWrites f).idx = s.idx := rfl
@[simp] theorem State.modHostWrites_media (f : List HostWrite → List HostWrite) (s : State) : (s.modHostWrites f).media = s.media := rfl
@[simp] theorem State.modHostWrites_cad (f : List HostWrite → List HostWrite) (s : State) : (s.modHostWrites f).cad = s.cad := rfl
@[simp] theorem State.modHostWrites_pwr (f : List HostWrite → List HostWrite) (s : State) : (s.modHostWrites f).pwr = s.pwr := rfl
@[simp] theorem State.modHostWrites_cis (f : List HostWrite → List HostWrite) (s : State) : (s.modHostWrites f).cis = s.cis := rfl
@[simp] theorem State.modHostWrites_clus (f : List HostWrite → List HostWrite) (s : State) : (s.modHostWrites f).clus = s.clus := rfl
@[simp] theorem State.modHostWrites_sigs (f : List HostWrite → List HostWrite) (s : State) : (s.modHostWrites f).sigs = s.sigs := rfl
@[simp] theorem State.modHostWrites_lnk (f : List HostWrite → List HostWrite) (s : State) : (s.modHostWrites f).lnk = s.lnk := rfl
@[simp] theorem State.modHostWrites_boot (f : List HostWrite → List HostWrite) (s : State) : (s.modHostWrites f).boot = s.boot := rfl
@[simp] theorem State.modHostWrites_sec (f : List HostWrite → List HostWrite) (s : State) : (s.modHostWrites f).sec = s.sec := rfl
@[simp] theorem State.modHostWrites_gen (f : List HostWrite → List HostWrite) (s : State) : (s.modHostWrites f).gen = s.gen := rfl
@[simp] theorem State.modNvm_variant (f : Nvm → Nvm) (s : State) : (s.modNvm f).variant = s.variant := rfl
@[simp] theorem State.modNvm_pending (f : Nvm → Nvm) (s : State) : (s.modNvm f).pending = s.pending := rfl
@[simp] theorem State.modNvm_free (f : Nvm → Nvm) (s : State) : (s.modNvm f).free = s.free := rfl
@[simp] theorem State.modNvm_now (f : Nvm → Nvm) (s : State) : (s.modNvm f).now = s.now := rfl
@[simp] theorem State.modNvm_upAt (f : Nvm → Nvm) (s : State) : (s.modNvm f).upAt = s.upAt := rfl
@[simp] theorem State.modNvm_busReply (f : Nvm → Nvm) (s : State) : (s.modNvm f).busReply = s.busReply := rfl
@[simp] theorem State.modNvm_hostWrites (f : Nvm → Nvm) (s : State) : (s.modNvm f).hostWrites = s.hostWrites := rfl
@[simp] theorem State.modNvm_nvm (f : Nvm → Nvm) (s : State) : (s.modNvm f).nvm = f s.nvm := rfl
@[simp] theorem State.modNvm_mgmt (f : Nvm → Nvm) (s : State) : (s.modNvm f).mgmt = s.mgmt := rfl
@[simp] theorem State.modNvm_nss (f : Nvm → Nvm) (s : State) : (s.modNvm f).nss = s.nss := rfl
@[simp] theorem State.modNvm_keyGens (f : Nvm → Nvm) (s : State) : (s.modNvm f).keyGens = s.keyGens := rfl
@[simp] theorem State.modNvm_res (f : Nvm → Nvm) (s : State) : (s.modNvm f).res = s.res := rfl
@[simp] theorem State.modNvm_ras (f : Nvm → Nvm) (s : State) : (s.modNvm f).ras = s.ras := rfl
@[simp] theorem State.modNvm_escalate (f : Nvm → Nvm) (s : State) : (s.modNvm f).escalate = s.escalate := rfl
@[simp] theorem State.modNvm_cfg (f : Nvm → Nvm) (s : State) : (s.modNvm f).cfg = s.cfg := rfl
@[simp] theorem State.modNvm_parts (f : Nvm → Nvm) (s : State) : (s.modNvm f).parts = s.parts := rfl
@[simp] theorem State.modNvm_presets (f : Nvm → Nvm) (s : State) : (s.modNvm f).presets = s.presets := rfl
@[simp] theorem State.modNvm_store (f : Nvm → Nvm) (s : State) : (s.modNvm f).store = s.store := rfl
@[simp] theorem State.modNvm_resv (f : Nvm → Nvm) (s : State) : (s.modNvm f).resv = s.resv := rfl
@[simp] theorem State.modNvm_idx (f : Nvm → Nvm) (s : State) : (s.modNvm f).idx = s.idx := rfl
@[simp] theorem State.modNvm_media (f : Nvm → Nvm) (s : State) : (s.modNvm f).media = s.media := rfl
@[simp] theorem State.modNvm_cad (f : Nvm → Nvm) (s : State) : (s.modNvm f).cad = s.cad := rfl
@[simp] theorem State.modNvm_pwr (f : Nvm → Nvm) (s : State) : (s.modNvm f).pwr = s.pwr := rfl
@[simp] theorem State.modNvm_cis (f : Nvm → Nvm) (s : State) : (s.modNvm f).cis = s.cis := rfl
@[simp] theorem State.modNvm_clus (f : Nvm → Nvm) (s : State) : (s.modNvm f).clus = s.clus := rfl
@[simp] theorem State.modNvm_sigs (f : Nvm → Nvm) (s : State) : (s.modNvm f).sigs = s.sigs := rfl
@[simp] theorem State.modNvm_lnk (f : Nvm → Nvm) (s : State) : (s.modNvm f).lnk = s.lnk := rfl
@[simp] theorem State.modNvm_boot (f : Nvm → Nvm) (s : State) : (s.modNvm f).boot = s.boot := rfl
@[simp] theorem State.modNvm_sec (f : Nvm → Nvm) (s : State) : (s.modNvm f).sec = s.sec := rfl
@[simp] theorem State.modNvm_gen (f : Nvm → Nvm) (s : State) : (s.modNvm f).gen = s.gen := rfl
@[simp] theorem State.modMgmt_variant (f : Mgmt → Mgmt) (s : State) : (s.modMgmt f).variant = s.variant := rfl
@[simp] theorem State.modMgmt_pending (f : Mgmt → Mgmt) (s : State) : (s.modMgmt f).pending = s.pending := rfl
@[simp] theorem State.modMgmt_free (f : Mgmt → Mgmt) (s : State) : (s.modMgmt f).free = s.free := rfl
@[simp] theorem State.modMgmt_now (f : Mgmt → Mgmt) (s : State) : (s.modMgmt f).now = s.now := rfl
@[simp] theorem State.modMgmt_upAt (f : Mgmt → Mgmt) (s : State) : (s.modMgmt f).upAt = s.upAt := rfl
@[simp] theorem State.modMgmt_busReply (f : Mgmt → Mgmt) (s : State) : (s.modMgmt f).busReply = s.busReply := rfl
@[simp] theorem State.modMgmt_hostWrites (f : Mgmt → Mgmt) (s : State) : (s.modMgmt f).hostWrites = s.hostWrites := rfl
@[simp] theorem State.modMgmt_nvm (f : Mgmt → Mgmt) (s : State) : (s.modMgmt f).nvm = s.nvm := rfl
@[simp] theorem State.modMgmt_mgmt (f : Mgmt → Mgmt) (s : State) : (s.modMgmt f).mgmt = f s.mgmt := rfl
@[simp] theorem State.modMgmt_nss (f : Mgmt → Mgmt) (s : State) : (s.modMgmt f).nss = s.nss := rfl
@[simp] theorem State.modMgmt_keyGens (f : Mgmt → Mgmt) (s : State) : (s.modMgmt f).keyGens = s.keyGens := rfl
@[simp] theorem State.modMgmt_res (f : Mgmt → Mgmt) (s : State) : (s.modMgmt f).res = s.res := rfl
@[simp] theorem State.modMgmt_ras (f : Mgmt → Mgmt) (s : State) : (s.modMgmt f).ras = s.ras := rfl
@[simp] theorem State.modMgmt_escalate (f : Mgmt → Mgmt) (s : State) : (s.modMgmt f).escalate = s.escalate := rfl
@[simp] theorem State.modMgmt_cfg (f : Mgmt → Mgmt) (s : State) : (s.modMgmt f).cfg = s.cfg := rfl
@[simp] theorem State.modMgmt_parts (f : Mgmt → Mgmt) (s : State) : (s.modMgmt f).parts = s.parts := rfl
@[simp] theorem State.modMgmt_presets (f : Mgmt → Mgmt) (s : State) : (s.modMgmt f).presets = s.presets := rfl
@[simp] theorem State.modMgmt_store (f : Mgmt → Mgmt) (s : State) : (s.modMgmt f).store = s.store := rfl
@[simp] theorem State.modMgmt_resv (f : Mgmt → Mgmt) (s : State) : (s.modMgmt f).resv = s.resv := rfl
@[simp] theorem State.modMgmt_idx (f : Mgmt → Mgmt) (s : State) : (s.modMgmt f).idx = s.idx := rfl
@[simp] theorem State.modMgmt_media (f : Mgmt → Mgmt) (s : State) : (s.modMgmt f).media = s.media := rfl
@[simp] theorem State.modMgmt_cad (f : Mgmt → Mgmt) (s : State) : (s.modMgmt f).cad = s.cad := rfl
@[simp] theorem State.modMgmt_pwr (f : Mgmt → Mgmt) (s : State) : (s.modMgmt f).pwr = s.pwr := rfl
@[simp] theorem State.modMgmt_cis (f : Mgmt → Mgmt) (s : State) : (s.modMgmt f).cis = s.cis := rfl
@[simp] theorem State.modMgmt_clus (f : Mgmt → Mgmt) (s : State) : (s.modMgmt f).clus = s.clus := rfl
@[simp] theorem State.modMgmt_sigs (f : Mgmt → Mgmt) (s : State) : (s.modMgmt f).sigs = s.sigs := rfl
@[simp] theorem State.modMgmt_lnk (f : Mgmt → Mgmt) (s : State) : (s.modMgmt f).lnk = s.lnk := rfl
@[simp] theorem State.modMgmt_boot (f : Mgmt → Mgmt) (s : State) : (s.modMgmt f).boot = s.boot := rfl
@[simp] theorem State.modMgmt_sec (f : Mgmt → Mgmt) (s : State) : (s.modMgmt f).sec = s.sec := rfl
@[simp] theorem State.modMgmt_gen (f : Mgmt → Mgmt) (s : State) : (s.modMgmt f).gen = s.gen := rfl
@[simp] theorem State.modNss_variant (f : List Ns → List Ns) (s : State) : (s.modNss f).variant = s.variant := rfl
@[simp] theorem State.modNss_pending (f : List Ns → List Ns) (s : State) : (s.modNss f).pending = s.pending := rfl
@[simp] theorem State.modNss_free (f : List Ns → List Ns) (s : State) : (s.modNss f).free = s.free := rfl
@[simp] theorem State.modNss_now (f : List Ns → List Ns) (s : State) : (s.modNss f).now = s.now := rfl
@[simp] theorem State.modNss_upAt (f : List Ns → List Ns) (s : State) : (s.modNss f).upAt = s.upAt := rfl
@[simp] theorem State.modNss_busReply (f : List Ns → List Ns) (s : State) : (s.modNss f).busReply = s.busReply := rfl
@[simp] theorem State.modNss_hostWrites (f : List Ns → List Ns) (s : State) : (s.modNss f).hostWrites = s.hostWrites := rfl
@[simp] theorem State.modNss_nvm (f : List Ns → List Ns) (s : State) : (s.modNss f).nvm = s.nvm := rfl
@[simp] theorem State.modNss_mgmt (f : List Ns → List Ns) (s : State) : (s.modNss f).mgmt = s.mgmt := rfl
@[simp] theorem State.modNss_nss (f : List Ns → List Ns) (s : State) : (s.modNss f).nss = f s.nss := rfl
@[simp] theorem State.modNss_keyGens (f : List Ns → List Ns) (s : State) : (s.modNss f).keyGens = s.keyGens := rfl
@[simp] theorem State.modNss_res (f : List Ns → List Ns) (s : State) : (s.modNss f).res = s.res := rfl
@[simp] theorem State.modNss_ras (f : List Ns → List Ns) (s : State) : (s.modNss f).ras = s.ras := rfl
@[simp] theorem State.modNss_escalate (f : List Ns → List Ns) (s : State) : (s.modNss f).escalate = s.escalate := rfl
@[simp] theorem State.modNss_cfg (f : List Ns → List Ns) (s : State) : (s.modNss f).cfg = s.cfg := rfl
@[simp] theorem State.modNss_parts (f : List Ns → List Ns) (s : State) : (s.modNss f).parts = s.parts := rfl
@[simp] theorem State.modNss_presets (f : List Ns → List Ns) (s : State) : (s.modNss f).presets = s.presets := rfl
@[simp] theorem State.modNss_store (f : List Ns → List Ns) (s : State) : (s.modNss f).store = s.store := rfl
@[simp] theorem State.modNss_resv (f : List Ns → List Ns) (s : State) : (s.modNss f).resv = s.resv := rfl
@[simp] theorem State.modNss_idx (f : List Ns → List Ns) (s : State) : (s.modNss f).idx = s.idx := rfl
@[simp] theorem State.modNss_media (f : List Ns → List Ns) (s : State) : (s.modNss f).media = s.media := rfl
@[simp] theorem State.modNss_cad (f : List Ns → List Ns) (s : State) : (s.modNss f).cad = s.cad := rfl
@[simp] theorem State.modNss_pwr (f : List Ns → List Ns) (s : State) : (s.modNss f).pwr = s.pwr := rfl
@[simp] theorem State.modNss_cis (f : List Ns → List Ns) (s : State) : (s.modNss f).cis = s.cis := rfl
@[simp] theorem State.modNss_clus (f : List Ns → List Ns) (s : State) : (s.modNss f).clus = s.clus := rfl
@[simp] theorem State.modNss_sigs (f : List Ns → List Ns) (s : State) : (s.modNss f).sigs = s.sigs := rfl
@[simp] theorem State.modNss_lnk (f : List Ns → List Ns) (s : State) : (s.modNss f).lnk = s.lnk := rfl
@[simp] theorem State.modNss_boot (f : List Ns → List Ns) (s : State) : (s.modNss f).boot = s.boot := rfl
@[simp] theorem State.modNss_sec (f : List Ns → List Ns) (s : State) : (s.modNss f).sec = s.sec := rfl
@[simp] theorem State.modNss_gen (f : List Ns → List Ns) (s : State) : (s.modNss f).gen = s.gen := rfl
@[simp] theorem State.modKeyGens_variant (f : Nat → Nat) (s : State) : (s.modKeyGens f).variant = s.variant := rfl
@[simp] theorem State.modKeyGens_pending (f : Nat → Nat) (s : State) : (s.modKeyGens f).pending = s.pending := rfl
@[simp] theorem State.modKeyGens_free (f : Nat → Nat) (s : State) : (s.modKeyGens f).free = s.free := rfl
@[simp] theorem State.modKeyGens_now (f : Nat → Nat) (s : State) : (s.modKeyGens f).now = s.now := rfl
@[simp] theorem State.modKeyGens_upAt (f : Nat → Nat) (s : State) : (s.modKeyGens f).upAt = s.upAt := rfl
@[simp] theorem State.modKeyGens_busReply (f : Nat → Nat) (s : State) : (s.modKeyGens f).busReply = s.busReply := rfl
@[simp] theorem State.modKeyGens_hostWrites (f : Nat → Nat) (s : State) : (s.modKeyGens f).hostWrites = s.hostWrites := rfl
@[simp] theorem State.modKeyGens_nvm (f : Nat → Nat) (s : State) : (s.modKeyGens f).nvm = s.nvm := rfl
@[simp] theorem State.modKeyGens_mgmt (f : Nat → Nat) (s : State) : (s.modKeyGens f).mgmt = s.mgmt := rfl
@[simp] theorem State.modKeyGens_nss (f : Nat → Nat) (s : State) : (s.modKeyGens f).nss = s.nss := rfl
@[simp] theorem State.modKeyGens_keyGens (f : Nat → Nat) (s : State) : (s.modKeyGens f).keyGens = f s.keyGens := rfl
@[simp] theorem State.modKeyGens_res (f : Nat → Nat) (s : State) : (s.modKeyGens f).res = s.res := rfl
@[simp] theorem State.modKeyGens_ras (f : Nat → Nat) (s : State) : (s.modKeyGens f).ras = s.ras := rfl
@[simp] theorem State.modKeyGens_escalate (f : Nat → Nat) (s : State) : (s.modKeyGens f).escalate = s.escalate := rfl
@[simp] theorem State.modKeyGens_cfg (f : Nat → Nat) (s : State) : (s.modKeyGens f).cfg = s.cfg := rfl
@[simp] theorem State.modKeyGens_parts (f : Nat → Nat) (s : State) : (s.modKeyGens f).parts = s.parts := rfl
@[simp] theorem State.modKeyGens_presets (f : Nat → Nat) (s : State) : (s.modKeyGens f).presets = s.presets := rfl
@[simp] theorem State.modKeyGens_store (f : Nat → Nat) (s : State) : (s.modKeyGens f).store = s.store := rfl
@[simp] theorem State.modKeyGens_resv (f : Nat → Nat) (s : State) : (s.modKeyGens f).resv = s.resv := rfl
@[simp] theorem State.modKeyGens_idx (f : Nat → Nat) (s : State) : (s.modKeyGens f).idx = s.idx := rfl
@[simp] theorem State.modKeyGens_media (f : Nat → Nat) (s : State) : (s.modKeyGens f).media = s.media := rfl
@[simp] theorem State.modKeyGens_cad (f : Nat → Nat) (s : State) : (s.modKeyGens f).cad = s.cad := rfl
@[simp] theorem State.modKeyGens_pwr (f : Nat → Nat) (s : State) : (s.modKeyGens f).pwr = s.pwr := rfl
@[simp] theorem State.modKeyGens_cis (f : Nat → Nat) (s : State) : (s.modKeyGens f).cis = s.cis := rfl
@[simp] theorem State.modKeyGens_clus (f : Nat → Nat) (s : State) : (s.modKeyGens f).clus = s.clus := rfl
@[simp] theorem State.modKeyGens_sigs (f : Nat → Nat) (s : State) : (s.modKeyGens f).sigs = s.sigs := rfl
@[simp] theorem State.modKeyGens_lnk (f : Nat → Nat) (s : State) : (s.modKeyGens f).lnk = s.lnk := rfl
@[simp] theorem State.modKeyGens_boot (f : Nat → Nat) (s : State) : (s.modKeyGens f).boot = s.boot := rfl
@[simp] theorem State.modKeyGens_sec (f : Nat → Nat) (s : State) : (s.modKeyGens f).sec = s.sec := rfl
@[simp] theorem State.modKeyGens_gen (f : Nat → Nat) (s : State) : (s.modKeyGens f).gen = s.gen := rfl
@[simp] theorem State.modRes_variant (f : Results → Results) (s : State) : (s.modRes f).variant = s.variant := rfl
@[simp] theorem State.modRes_pending (f : Results → Results) (s : State) : (s.modRes f).pending = s.pending := rfl
@[simp] theorem State.modRes_free (f : Results → Results) (s : State) : (s.modRes f).free = s.free := rfl
@[simp] theorem State.modRes_now (f : Results → Results) (s : State) : (s.modRes f).now = s.now := rfl
@[simp] theorem State.modRes_upAt (f : Results → Results) (s : State) : (s.modRes f).upAt = s.upAt := rfl
@[simp] theorem State.modRes_busReply (f : Results → Results) (s : State) : (s.modRes f).busReply = s.busReply := rfl
@[simp] theorem State.modRes_hostWrites (f : Results → Results) (s : State) : (s.modRes f).hostWrites = s.hostWrites := rfl
@[simp] theorem State.modRes_nvm (f : Results → Results) (s : State) : (s.modRes f).nvm = s.nvm := rfl
@[simp] theorem State.modRes_mgmt (f : Results → Results) (s : State) : (s.modRes f).mgmt = s.mgmt := rfl
@[simp] theorem State.modRes_nss (f : Results → Results) (s : State) : (s.modRes f).nss = s.nss := rfl
@[simp] theorem State.modRes_keyGens (f : Results → Results) (s : State) : (s.modRes f).keyGens = s.keyGens := rfl
@[simp] theorem State.modRes_res (f : Results → Results) (s : State) : (s.modRes f).res = f s.res := rfl
@[simp] theorem State.modRes_ras (f : Results → Results) (s : State) : (s.modRes f).ras = s.ras := rfl
@[simp] theorem State.modRes_escalate (f : Results → Results) (s : State) : (s.modRes f).escalate = s.escalate := rfl
@[simp] theorem State.modRes_cfg (f : Results → Results) (s : State) : (s.modRes f).cfg = s.cfg := rfl
@[simp] theorem State.modRes_parts (f : Results → Results) (s : State) : (s.modRes f).parts = s.parts := rfl
@[simp] theorem State.modRes_presets (f : Results → Results) (s : State) : (s.modRes f).presets = s.presets := rfl
@[simp] theorem State.modRes_store (f : Results → Results) (s : State) : (s.modRes f).store = s.store := rfl
@[simp] theorem State.modRes_resv (f : Results → Results) (s : State) : (s.modRes f).resv = s.resv := rfl
@[simp] theorem State.modRes_idx (f : Results → Results) (s : State) : (s.modRes f).idx = s.idx := rfl
@[simp] theorem State.modRes_media (f : Results → Results) (s : State) : (s.modRes f).media = s.media := rfl
@[simp] theorem State.modRes_cad (f : Results → Results) (s : State) : (s.modRes f).cad = s.cad := rfl
@[simp] theorem State.modRes_pwr (f : Results → Results) (s : State) : (s.modRes f).pwr = s.pwr := rfl
@[simp] theorem State.modRes_cis (f : Results → Results) (s : State) : (s.modRes f).cis = s.cis := rfl
@[simp] theorem State.modRes_clus (f : Results → Results) (s : State) : (s.modRes f).clus = s.clus := rfl
@[simp] theorem State.modRes_sigs (f : Results → Results) (s : State) : (s.modRes f).sigs = s.sigs := rfl
@[simp] theorem State.modRes_lnk (f : Results → Results) (s : State) : (s.modRes f).lnk = s.lnk := rfl
@[simp] theorem State.modRes_boot (f : Results → Results) (s : State) : (s.modRes f).boot = s.boot := rfl
@[simp] theorem State.modRes_sec (f : Results → Results) (s : State) : (s.modRes f).sec = s.sec := rfl
@[simp] theorem State.modRes_gen (f : Results → Results) (s : State) : (s.modRes f).gen = s.gen := rfl
@[simp] theorem State.modRas_variant (f : Ras → Ras) (s : State) : (s.modRas f).variant = s.variant := rfl
@[simp] theorem State.modRas_pending (f : Ras → Ras) (s : State) : (s.modRas f).pending = s.pending := rfl
@[simp] theorem State.modRas_free (f : Ras → Ras) (s : State) : (s.modRas f).free = s.free := rfl
@[simp] theorem State.modRas_now (f : Ras → Ras) (s : State) : (s.modRas f).now = s.now := rfl
@[simp] theorem State.modRas_upAt (f : Ras → Ras) (s : State) : (s.modRas f).upAt = s.upAt := rfl
@[simp] theorem State.modRas_busReply (f : Ras → Ras) (s : State) : (s.modRas f).busReply = s.busReply := rfl
@[simp] theorem State.modRas_hostWrites (f : Ras → Ras) (s : State) : (s.modRas f).hostWrites = s.hostWrites := rfl
@[simp] theorem State.modRas_nvm (f : Ras → Ras) (s : State) : (s.modRas f).nvm = s.nvm := rfl
@[simp] theorem State.modRas_mgmt (f : Ras → Ras) (s : State) : (s.modRas f).mgmt = s.mgmt := rfl
@[simp] theorem State.modRas_nss (f : Ras → Ras) (s : State) : (s.modRas f).nss = s.nss := rfl
@[simp] theorem State.modRas_keyGens (f : Ras → Ras) (s : State) : (s.modRas f).keyGens = s.keyGens := rfl
@[simp] theorem State.modRas_res (f : Ras → Ras) (s : State) : (s.modRas f).res = s.res := rfl
@[simp] theorem State.modRas_ras (f : Ras → Ras) (s : State) : (s.modRas f).ras = f s.ras := rfl
@[simp] theorem State.modRas_escalate (f : Ras → Ras) (s : State) : (s.modRas f).escalate = s.escalate := rfl
@[simp] theorem State.modRas_cfg (f : Ras → Ras) (s : State) : (s.modRas f).cfg = s.cfg := rfl
@[simp] theorem State.modRas_parts (f : Ras → Ras) (s : State) : (s.modRas f).parts = s.parts := rfl
@[simp] theorem State.modRas_presets (f : Ras → Ras) (s : State) : (s.modRas f).presets = s.presets := rfl
@[simp] theorem State.modRas_store (f : Ras → Ras) (s : State) : (s.modRas f).store = s.store := rfl
@[simp] theorem State.modRas_resv (f : Ras → Ras) (s : State) : (s.modRas f).resv = s.resv := rfl
@[simp] theorem State.modRas_idx (f : Ras → Ras) (s : State) : (s.modRas f).idx = s.idx := rfl
@[simp] theorem State.modRas_media (f : Ras → Ras) (s : State) : (s.modRas f).media = s.media := rfl
@[simp] theorem State.modRas_cad (f : Ras → Ras) (s : State) : (s.modRas f).cad = s.cad := rfl
@[simp] theorem State.modRas_pwr (f : Ras → Ras) (s : State) : (s.modRas f).pwr = s.pwr := rfl
@[simp] theorem State.modRas_cis (f : Ras → Ras) (s : State) : (s.modRas f).cis = s.cis := rfl
@[simp] theorem State.modRas_clus (f : Ras → Ras) (s : State) : (s.modRas f).clus = s.clus := rfl
@[simp] theorem State.modRas_sigs (f : Ras → Ras) (s : State) : (s.modRas f).sigs = s.sigs := rfl
@[simp] theorem State.modRas_lnk (f : Ras → Ras) (s : State) : (s.modRas f).lnk = s.lnk := rfl
@[simp] theorem State.modRas_boot (f : Ras → Ras) (s : State) : (s.modRas f).boot = s.boot := rfl
@[simp] theorem State.modRas_sec (f : Ras → Ras) (s : State) : (s.modRas f).sec = s.sec := rfl
@[simp] theorem State.modRas_gen (f : Ras → Ras) (s : State) : (s.modRas f).gen = s.gen := rfl
@[simp] theorem State.modEscalate_variant (f : Bool → Bool) (s : State) : (s.modEscalate f).variant = s.variant := rfl
@[simp] theorem State.modEscalate_pending (f : Bool → Bool) (s : State) : (s.modEscalate f).pending = s.pending := rfl
@[simp] theorem State.modEscalate_free (f : Bool → Bool) (s : State) : (s.modEscalate f).free = s.free := rfl
@[simp] theorem State.modEscalate_now (f : Bool → Bool) (s : State) : (s.modEscalate f).now = s.now := rfl
@[simp] theorem State.modEscalate_upAt (f : Bool → Bool) (s : State) : (s.modEscalate f).upAt = s.upAt := rfl
@[simp] theorem State.modEscalate_busReply (f : Bool → Bool) (s : State) : (s.modEscalate f).busReply = s.busReply := rfl
@[simp] theorem State.modEscalate_hostWrites (f : Bool → Bool) (s : State) : (s.modEscalate f).hostWrites = s.hostWrites := rfl
@[simp] theorem State.modEscalate_nvm (f : Bool → Bool) (s : State) : (s.modEscalate f).nvm = s.nvm := rfl
@[simp] theorem State.modEscalate_mgmt (f : Bool → Bool) (s : State) : (s.modEscalate f).mgmt = s.mgmt := rfl
@[simp] theorem State.modEscalate_nss (f : Bool → Bool) (s : State) : (s.modEscalate f).nss = s.nss := rfl
@[simp] theorem State.modEscalate_keyGens (f : Bool → Bool) (s : State) : (s.modEscalate f).keyGens = s.keyGens := rfl
@[simp] theorem State.modEscalate_res (f : Bool → Bool) (s : State) : (s.modEscalate f).res = s.res := rfl
@[simp] theorem State.modEscalate_ras (f : Bool → Bool) (s : State) : (s.modEscalate f).ras = s.ras := rfl
@[simp] theorem State.modEscalate_escalate (f : Bool → Bool) (s : State) : (s.modEscalate f).escalate = f s.escalate := rfl
@[simp] theorem State.modEscalate_cfg (f : Bool → Bool) (s : State) : (s.modEscalate f).cfg = s.cfg := rfl
@[simp] theorem State.modEscalate_parts (f : Bool → Bool) (s : State) : (s.modEscalate f).parts = s.parts := rfl
@[simp] theorem State.modEscalate_presets (f : Bool → Bool) (s : State) : (s.modEscalate f).presets = s.presets := rfl
@[simp] theorem State.modEscalate_store (f : Bool → Bool) (s : State) : (s.modEscalate f).store = s.store := rfl
@[simp] theorem State.modEscalate_resv (f : Bool → Bool) (s : State) : (s.modEscalate f).resv = s.resv := rfl
@[simp] theorem State.modEscalate_idx (f : Bool → Bool) (s : State) : (s.modEscalate f).idx = s.idx := rfl
@[simp] theorem State.modEscalate_media (f : Bool → Bool) (s : State) : (s.modEscalate f).media = s.media := rfl
@[simp] theorem State.modEscalate_cad (f : Bool → Bool) (s : State) : (s.modEscalate f).cad = s.cad := rfl
@[simp] theorem State.modEscalate_pwr (f : Bool → Bool) (s : State) : (s.modEscalate f).pwr = s.pwr := rfl
@[simp] theorem State.modEscalate_cis (f : Bool → Bool) (s : State) : (s.modEscalate f).cis = s.cis := rfl
@[simp] theorem State.modEscalate_clus (f : Bool → Bool) (s : State) : (s.modEscalate f).clus = s.clus := rfl
@[simp] theorem State.modEscalate_sigs (f : Bool → Bool) (s : State) : (s.modEscalate f).sigs = s.sigs := rfl
@[simp] theorem State.modEscalate_lnk (f : Bool → Bool) (s : State) : (s.modEscalate f).lnk = s.lnk := rfl
@[simp] theorem State.modEscalate_boot (f : Bool → Bool) (s : State) : (s.modEscalate f).boot = s.boot := rfl
@[simp] theorem State.modEscalate_sec (f : Bool → Bool) (s : State) : (s.modEscalate f).sec = s.sec := rfl
@[simp] theorem State.modEscalate_gen (f : Bool → Bool) (s : State) : (s.modEscalate f).gen = s.gen := rfl
@[simp] theorem State.modCfg_variant (f : Cfg → Cfg) (s : State) : (s.modCfg f).variant = s.variant := rfl
@[simp] theorem State.modCfg_pending (f : Cfg → Cfg) (s : State) : (s.modCfg f).pending = s.pending := rfl
@[simp] theorem State.modCfg_free (f : Cfg → Cfg) (s : State) : (s.modCfg f).free = s.free := rfl
@[simp] theorem State.modCfg_now (f : Cfg → Cfg) (s : State) : (s.modCfg f).now = s.now := rfl
@[simp] theorem State.modCfg_upAt (f : Cfg → Cfg) (s : State) : (s.modCfg f).upAt = s.upAt := rfl
@[simp] theorem State.modCfg_busReply (f : Cfg → Cfg) (s : State) : (s.modCfg f).busReply = s.busReply := rfl
@[simp] theorem State.modCfg_hostWrites (f : Cfg → Cfg) (s : State) : (s.modCfg f).hostWrites = s.hostWrites := rfl
@[simp] theorem State.modCfg_nvm (f : Cfg → Cfg) (s : State) : (s.modCfg f).nvm = s.nvm := rfl
@[simp] theorem State.modCfg_mgmt (f : Cfg → Cfg) (s : State) : (s.modCfg f).mgmt = s.mgmt := rfl
@[simp] theorem State.modCfg_nss (f : Cfg → Cfg) (s : State) : (s.modCfg f).nss = s.nss := rfl
@[simp] theorem State.modCfg_keyGens (f : Cfg → Cfg) (s : State) : (s.modCfg f).keyGens = s.keyGens := rfl
@[simp] theorem State.modCfg_res (f : Cfg → Cfg) (s : State) : (s.modCfg f).res = s.res := rfl
@[simp] theorem State.modCfg_ras (f : Cfg → Cfg) (s : State) : (s.modCfg f).ras = s.ras := rfl
@[simp] theorem State.modCfg_escalate (f : Cfg → Cfg) (s : State) : (s.modCfg f).escalate = s.escalate := rfl
@[simp] theorem State.modCfg_cfg (f : Cfg → Cfg) (s : State) : (s.modCfg f).cfg = f s.cfg := rfl
@[simp] theorem State.modCfg_parts (f : Cfg → Cfg) (s : State) : (s.modCfg f).parts = s.parts := rfl
@[simp] theorem State.modCfg_presets (f : Cfg → Cfg) (s : State) : (s.modCfg f).presets = s.presets := rfl
@[simp] theorem State.modCfg_store (f : Cfg → Cfg) (s : State) : (s.modCfg f).store = s.store := rfl
@[simp] theorem State.modCfg_resv (f : Cfg → Cfg) (s : State) : (s.modCfg f).resv = s.resv := rfl
@[simp] theorem State.modCfg_idx (f : Cfg → Cfg) (s : State) : (s.modCfg f).idx = s.idx := rfl
@[simp] theorem State.modCfg_media (f : Cfg → Cfg) (s : State) : (s.modCfg f).media = s.media := rfl
@[simp] theorem State.modCfg_cad (f : Cfg → Cfg) (s : State) : (s.modCfg f).cad = s.cad := rfl
@[simp] theorem State.modCfg_pwr (f : Cfg → Cfg) (s : State) : (s.modCfg f).pwr = s.pwr := rfl
@[simp] theorem State.modCfg_cis (f : Cfg → Cfg) (s : State) : (s.modCfg f).cis = s.cis := rfl
@[simp] theorem State.modCfg_clus (f : Cfg → Cfg) (s : State) : (s.modCfg f).clus = s.clus := rfl
@[simp] theorem State.modCfg_sigs (f : Cfg → Cfg) (s : State) : (s.modCfg f).sigs = s.sigs := rfl
@[simp] theorem State.modCfg_lnk (f : Cfg → Cfg) (s : State) : (s.modCfg f).lnk = s.lnk := rfl
@[simp] theorem State.modCfg_boot (f : Cfg → Cfg) (s : State) : (s.modCfg f).boot = s.boot := rfl
@[simp] theorem State.modCfg_sec (f : Cfg → Cfg) (s : State) : (s.modCfg f).sec = s.sec := rfl
@[simp] theorem State.modCfg_gen (f : Cfg → Cfg) (s : State) : (s.modCfg f).gen = s.gen := rfl
@[simp] theorem State.modParts_variant (f : List Part → List Part) (s : State) : (s.modParts f).variant = s.variant := rfl
@[simp] theorem State.modParts_pending (f : List Part → List Part) (s : State) : (s.modParts f).pending = s.pending := rfl
@[simp] theorem State.modParts_free (f : List Part → List Part) (s : State) : (s.modParts f).free = s.free := rfl
@[simp] theorem State.modParts_now (f : List Part → List Part) (s : State) : (s.modParts f).now = s.now := rfl
@[simp] theorem State.modParts_upAt (f : List Part → List Part) (s : State) : (s.modParts f).upAt = s.upAt := rfl
@[simp] theorem State.modParts_busReply (f : List Part → List Part) (s : State) : (s.modParts f).busReply = s.busReply := rfl
@[simp] theorem State.modParts_hostWrites (f : List Part → List Part) (s : State) : (s.modParts f).hostWrites = s.hostWrites := rfl
@[simp] theorem State.modParts_nvm (f : List Part → List Part) (s : State) : (s.modParts f).nvm = s.nvm := rfl
@[simp] theorem State.modParts_mgmt (f : List Part → List Part) (s : State) : (s.modParts f).mgmt = s.mgmt := rfl
@[simp] theorem State.modParts_nss (f : List Part → List Part) (s : State) : (s.modParts f).nss = s.nss := rfl
@[simp] theorem State.modParts_keyGens (f : List Part → List Part) (s : State) : (s.modParts f).keyGens = s.keyGens := rfl
@[simp] theorem State.modParts_res (f : List Part → List Part) (s : State) : (s.modParts f).res = s.res := rfl
@[simp] theorem State.modParts_ras (f : List Part → List Part) (s : State) : (s.modParts f).ras = s.ras := rfl
@[simp] theorem State.modParts_escalate (f : List Part → List Part) (s : State) : (s.modParts f).escalate = s.escalate := rfl
@[simp] theorem State.modParts_cfg (f : List Part → List Part) (s : State) : (s.modParts f).cfg = s.cfg := rfl
@[simp] theorem State.modParts_parts (f : List Part → List Part) (s : State) : (s.modParts f).parts = f s.parts := rfl
@[simp] theorem State.modParts_presets (f : List Part → List Part) (s : State) : (s.modParts f).presets = s.presets := rfl
@[simp] theorem State.modParts_store (f : List Part → List Part) (s : State) : (s.modParts f).store = s.store := rfl
@[simp] theorem State.modParts_resv (f : List Part → List Part) (s : State) : (s.modParts f).resv = s.resv := rfl
@[simp] theorem State.modParts_idx (f : List Part → List Part) (s : State) : (s.modParts f).idx = s.idx := rfl
@[simp] theorem State.modParts_media (f : List Part → List Part) (s : State) : (s.modParts f).media = s.media := rfl
@[simp] theorem State.modParts_cad (f : List Part → List Part) (s : State) : (s.modParts f).cad = s.cad := rfl
@[simp] theorem State.modParts_pwr (f : List Part → List Part) (s : State) : (s.modParts f).pwr = s.pwr := rfl
@[simp] theorem State.modParts_cis (f : List Part → List Part) (s : State) : (s.modParts f).cis = s.cis := rfl
@[simp] theorem State.modParts_clus (f : List Part → List Part) (s : State) : (s.modParts f).clus = s.clus := rfl
@[simp] theorem State.modParts_sigs (f : List Part → List Part) (s : State) : (s.modParts f).sigs = s.sigs := rfl
@[simp] theorem State.modParts_lnk (f : List Part → List Part) (s : State) : (s.modParts f).lnk = s.lnk := rfl
@[simp] theorem State.modParts_boot (f : List Part → List Part) (s : State) : (s.modParts f).boot = s.boot := rfl
@[simp] theorem State.modParts_sec (f : List Part → List Part) (s : State) : (s.modParts f).sec = s.sec := rfl
@[simp] theorem State.modParts_gen (f : List Part → List Part) (s : State) : (s.modParts f).gen = s.gen := rfl
@[simp] theorem State.modPresets_variant (f : Nat → Nat) (s : State) : (s.modPresets f).variant = s.variant := rfl
@[simp] theorem State.modPresets_pending (f : Nat → Nat) (s : State) : (s.modPresets f).pending = s.pending := rfl
@[simp] theorem State.modPresets_free (f : Nat → Nat) (s : State) : (s.modPresets f).free = s.free := rfl
@[simp] theorem State.modPresets_now (f : Nat → Nat) (s : State) : (s.modPresets f).now = s.now := rfl
@[simp] theorem State.modPresets_upAt (f : Nat → Nat) (s : State) : (s.modPresets f).upAt = s.upAt := rfl
@[simp] theorem State.modPresets_busReply (f : Nat → Nat) (s : State) : (s.modPresets f).busReply = s.busReply := rfl
@[simp] theorem State.modPresets_hostWrites (f : Nat → Nat) (s : State) : (s.modPresets f).hostWrites = s.hostWrites := rfl
@[simp] theorem State.modPresets_nvm (f : Nat → Nat) (s : State) : (s.modPresets f).nvm = s.nvm := rfl
@[simp] theorem State.modPresets_mgmt (f : Nat → Nat) (s : State) : (s.modPresets f).mgmt = s.mgmt := rfl
@[simp] theorem State.modPresets_nss (f : Nat → Nat) (s : State) : (s.modPresets f).nss = s.nss := rfl
@[simp] theorem State.modPresets_keyGens (f : Nat → Nat) (s : State) : (s.modPresets f).keyGens = s.keyGens := rfl
@[simp] theorem State.modPresets_res (f : Nat → Nat) (s : State) : (s.modPresets f).res = s.res := rfl
@[simp] theorem State.modPresets_ras (f : Nat → Nat) (s : State) : (s.modPresets f).ras = s.ras := rfl
@[simp] theorem State.modPresets_escalate (f : Nat → Nat) (s : State) : (s.modPresets f).escalate = s.escalate := rfl
@[simp] theorem State.modPresets_cfg (f : Nat → Nat) (s : State) : (s.modPresets f).cfg = s.cfg := rfl
@[simp] theorem State.modPresets_parts (f : Nat → Nat) (s : State) : (s.modPresets f).parts = s.parts := rfl
@[simp] theorem State.modPresets_presets (f : Nat → Nat) (s : State) : (s.modPresets f).presets = f s.presets := rfl
@[simp] theorem State.modPresets_store (f : Nat → Nat) (s : State) : (s.modPresets f).store = s.store := rfl
@[simp] theorem State.modPresets_resv (f : Nat → Nat) (s : State) : (s.modPresets f).resv = s.resv := rfl
@[simp] theorem State.modPresets_idx (f : Nat → Nat) (s : State) : (s.modPresets f).idx = s.idx := rfl
@[simp] theorem State.modPresets_media (f : Nat → Nat) (s : State) : (s.modPresets f).media = s.media := rfl
@[simp] theorem State.modPresets_cad (f : Nat → Nat) (s : State) : (s.modPresets f).cad = s.cad := rfl
@[simp] theorem State.modPresets_pwr (f : Nat → Nat) (s : State) : (s.modPresets f).pwr = s.pwr := rfl
@[simp] theorem State.modPresets_cis (f : Nat → Nat) (s : State) : (s.modPresets f).cis = s.cis := rfl
@[simp] theorem State.modPresets_clus (f : Nat → Nat) (s : State) : (s.modPresets f).clus = s.clus := rfl
@[simp] theorem State.modPresets_sigs (f : Nat → Nat) (s : State) : (s.modPresets f).sigs = s.sigs := rfl
@[simp] theorem State.modPresets_lnk (f : Nat → Nat) (s : State) : (s.modPresets f).lnk = s.lnk := rfl
@[simp] theorem State.modPresets_boot (f : Nat → Nat) (s : State) : (s.modPresets f).boot = s.boot := rfl
@[simp] theorem State.modPresets_sec (f : Nat → Nat) (s : State) : (s.modPresets f).sec = s.sec := rfl
@[simp] theorem State.modPresets_gen (f : Nat → Nat) (s : State) : (s.modPresets f).gen = s.gen := rfl
@[simp] theorem State.modStore_variant (f : Store → Store) (s : State) : (s.modStore f).variant = s.variant := rfl
@[simp] theorem State.modStore_pending (f : Store → Store) (s : State) : (s.modStore f).pending = s.pending := rfl
@[simp] theorem State.modStore_free (f : Store → Store) (s : State) : (s.modStore f).free = s.free := rfl
@[simp] theorem State.modStore_now (f : Store → Store) (s : State) : (s.modStore f).now = s.now := rfl
@[simp] theorem State.modStore_upAt (f : Store → Store) (s : State) : (s.modStore f).upAt = s.upAt := rfl
@[simp] theorem State.modStore_busReply (f : Store → Store) (s : State) : (s.modStore f).busReply = s.busReply := rfl
@[simp] theorem State.modStore_hostWrites (f : Store → Store) (s : State) : (s.modStore f).hostWrites = s.hostWrites := rfl
@[simp] theorem State.modStore_nvm (f : Store → Store) (s : State) : (s.modStore f).nvm = s.nvm := rfl
@[simp] theorem State.modStore_mgmt (f : Store → Store) (s : State) : (s.modStore f).mgmt = s.mgmt := rfl
@[simp] theorem State.modStore_nss (f : Store → Store) (s : State) : (s.modStore f).nss = s.nss := rfl
@[simp] theorem State.modStore_keyGens (f : Store → Store) (s : State) : (s.modStore f).keyGens = s.keyGens := rfl
@[simp] theorem State.modStore_res (f : Store → Store) (s : State) : (s.modStore f).res = s.res := rfl
@[simp] theorem State.modStore_ras (f : Store → Store) (s : State) : (s.modStore f).ras = s.ras := rfl
@[simp] theorem State.modStore_escalate (f : Store → Store) (s : State) : (s.modStore f).escalate = s.escalate := rfl
@[simp] theorem State.modStore_cfg (f : Store → Store) (s : State) : (s.modStore f).cfg = s.cfg := rfl
@[simp] theorem State.modStore_parts (f : Store → Store) (s : State) : (s.modStore f).parts = s.parts := rfl
@[simp] theorem State.modStore_presets (f : Store → Store) (s : State) : (s.modStore f).presets = s.presets := rfl
@[simp] theorem State.modStore_store (f : Store → Store) (s : State) : (s.modStore f).store = f s.store := rfl
@[simp] theorem State.modStore_resv (f : Store → Store) (s : State) : (s.modStore f).resv = s.resv := rfl
@[simp] theorem State.modStore_idx (f : Store → Store) (s : State) : (s.modStore f).idx = s.idx := rfl
@[simp] theorem State.modStore_media (f : Store → Store) (s : State) : (s.modStore f).media = s.media := rfl
@[simp] theorem State.modStore_cad (f : Store → Store) (s : State) : (s.modStore f).cad = s.cad := rfl
@[simp] theorem State.modStore_pwr (f : Store → Store) (s : State) : (s.modStore f).pwr = s.pwr := rfl
@[simp] theorem State.modStore_cis (f : Store → Store) (s : State) : (s.modStore f).cis = s.cis := rfl
@[simp] theorem State.modStore_clus (f : Store → Store) (s : State) : (s.modStore f).clus = s.clus := rfl
@[simp] theorem State.modStore_sigs (f : Store → Store) (s : State) : (s.modStore f).sigs = s.sigs := rfl
@[simp] theorem State.modStore_lnk (f : Store → Store) (s : State) : (s.modStore f).lnk = s.lnk := rfl
@[simp] theorem State.modStore_boot (f : Store → Store) (s : State) : (s.modStore f).boot = s.boot := rfl
@[simp] theorem State.modStore_sec (f : Store → Store) (s : State) : (s.modStore f).sec = s.sec := rfl
@[simp] theorem State.modStore_gen (f : Store → Store) (s : State) : (s.modStore f).gen = s.gen := rfl
@[simp] theorem State.modResv_variant (f : Resv → Resv) (s : State) : (s.modResv f).variant = s.variant := rfl
@[simp] theorem State.modResv_pending (f : Resv → Resv) (s : State) : (s.modResv f).pending = s.pending := rfl
@[simp] theorem State.modResv_free (f : Resv → Resv) (s : State) : (s.modResv f).free = s.free := rfl
@[simp] theorem State.modResv_now (f : Resv → Resv) (s : State) : (s.modResv f).now = s.now := rfl
@[simp] theorem State.modResv_upAt (f : Resv → Resv) (s : State) : (s.modResv f).upAt = s.upAt := rfl
@[simp] theorem State.modResv_busReply (f : Resv → Resv) (s : State) : (s.modResv f).busReply = s.busReply := rfl
@[simp] theorem State.modResv_hostWrites (f : Resv → Resv) (s : State) : (s.modResv f).hostWrites = s.hostWrites := rfl
@[simp] theorem State.modResv_nvm (f : Resv → Resv) (s : State) : (s.modResv f).nvm = s.nvm := rfl
@[simp] theorem State.modResv_mgmt (f : Resv → Resv) (s : State) : (s.modResv f).mgmt = s.mgmt := rfl
@[simp] theorem State.modResv_nss (f : Resv → Resv) (s : State) : (s.modResv f).nss = s.nss := rfl
@[simp] theorem State.modResv_keyGens (f : Resv → Resv) (s : State) : (s.modResv f).keyGens = s.keyGens := rfl
@[simp] theorem State.modResv_res (f : Resv → Resv) (s : State) : (s.modResv f).res = s.res := rfl
@[simp] theorem State.modResv_ras (f : Resv → Resv) (s : State) : (s.modResv f).ras = s.ras := rfl
@[simp] theorem State.modResv_escalate (f : Resv → Resv) (s : State) : (s.modResv f).escalate = s.escalate := rfl
@[simp] theorem State.modResv_cfg (f : Resv → Resv) (s : State) : (s.modResv f).cfg = s.cfg := rfl
@[simp] theorem State.modResv_parts (f : Resv → Resv) (s : State) : (s.modResv f).parts = s.parts := rfl
@[simp] theorem State.modResv_presets (f : Resv → Resv) (s : State) : (s.modResv f).presets = s.presets := rfl
@[simp] theorem State.modResv_store (f : Resv → Resv) (s : State) : (s.modResv f).store = s.store := rfl
@[simp] theorem State.modResv_resv (f : Resv → Resv) (s : State) : (s.modResv f).resv = f s.resv := rfl
@[simp] theorem State.modResv_idx (f : Resv → Resv) (s : State) : (s.modResv f).idx = s.idx := rfl
@[simp] theorem State.modResv_media (f : Resv → Resv) (s : State) : (s.modResv f).media = s.media := rfl
@[simp] theorem State.modResv_cad (f : Resv → Resv) (s : State) : (s.modResv f).cad = s.cad := rfl
@[simp] theorem State.modResv_pwr (f : Resv → Resv) (s : State) : (s.modResv f).pwr = s.pwr := rfl
@[simp] theorem State.modResv_cis (f : Resv → Resv) (s : State) : (s.modResv f).cis = s.cis := rfl
@[simp] theorem State.modResv_clus (f : Resv → Resv) (s : State) : (s.modResv f).clus = s.clus := rfl
@[simp] theorem State.modResv_sigs (f : Resv → Resv) (s : State) : (s.modResv f).sigs = s.sigs := rfl
@[simp] theorem State.modResv_lnk (f : Resv → Resv) (s : State) : (s.modResv f).lnk = s.lnk := rfl
@[simp] theorem State.modResv_boot (f : Resv → Resv) (s : State) : (s.modResv f).boot = s.boot := rfl
@[simp] theorem State.modResv_sec (f : Resv → Resv) (s : State) : (s.modResv f).sec = s.sec := rfl
@[simp] theorem State.modResv_gen (f : Resv → Resv) (s : State) : (s.modResv f).gen = s.gen := rfl
@[simp] theorem State.modIdx_variant (f : List Index → List Index) (s : State) : (s.modIdx f).variant = s.variant := rfl
@[simp] theorem State.modIdx_pending (f : List Index → List Index) (s : State) : (s.modIdx f).pending = s.pending := rfl
@[simp] theorem State.modIdx_free (f : List Index → List Index) (s : State) : (s.modIdx f).free = s.free := rfl
@[simp] theorem State.modIdx_now (f : List Index → List Index) (s : State) : (s.modIdx f).now = s.now := rfl
@[simp] theorem State.modIdx_upAt (f : List Index → List Index) (s : State) : (s.modIdx f).upAt = s.upAt := rfl
@[simp] theorem State.modIdx_busReply (f : List Index → List Index) (s : State) : (s.modIdx f).busReply = s.busReply := rfl
@[simp] theorem State.modIdx_hostWrites (f : List Index → List Index) (s : State) : (s.modIdx f).hostWrites = s.hostWrites := rfl
@[simp] theorem State.modIdx_nvm (f : List Index → List Index) (s : State) : (s.modIdx f).nvm = s.nvm := rfl
@[simp] theorem State.modIdx_mgmt (f : List Index → List Index) (s : State) : (s.modIdx f).mgmt = s.mgmt := rfl
@[simp] theorem State.modIdx_nss (f : List Index → List Index) (s : State) : (s.modIdx f).nss = s.nss := rfl
@[simp] theorem State.modIdx_keyGens (f : List Index → List Index) (s : State) : (s.modIdx f).keyGens = s.keyGens := rfl
@[simp] theorem State.modIdx_res (f : List Index → List Index) (s : State) : (s.modIdx f).res = s.res := rfl
@[simp] theorem State.modIdx_ras (f : List Index → List Index) (s : State) : (s.modIdx f).ras = s.ras := rfl
@[simp] theorem State.modIdx_escalate (f : List Index → List Index) (s : State) : (s.modIdx f).escalate = s.escalate := rfl
@[simp] theorem State.modIdx_cfg (f : List Index → List Index) (s : State) : (s.modIdx f).cfg = s.cfg := rfl
@[simp] theorem State.modIdx_parts (f : List Index → List Index) (s : State) : (s.modIdx f).parts = s.parts := rfl
@[simp] theorem State.modIdx_presets (f : List Index → List Index) (s : State) : (s.modIdx f).presets = s.presets := rfl
@[simp] theorem State.modIdx_store (f : List Index → List Index) (s : State) : (s.modIdx f).store = s.store := rfl
@[simp] theorem State.modIdx_resv (f : List Index → List Index) (s : State) : (s.modIdx f).resv = s.resv := rfl
@[simp] theorem State.modIdx_idx (f : List Index → List Index) (s : State) : (s.modIdx f).idx = f s.idx := rfl
@[simp] theorem State.modIdx_media (f : List Index → List Index) (s : State) : (s.modIdx f).media = s.media := rfl
@[simp] theorem State.modIdx_cad (f : List Index → List Index) (s : State) : (s.modIdx f).cad = s.cad := rfl
@[simp] theorem State.modIdx_pwr (f : List Index → List Index) (s : State) : (s.modIdx f).pwr = s.pwr := rfl
@[simp] theorem State.modIdx_cis (f : List Index → List Index) (s : State) : (s.modIdx f).cis = s.cis := rfl
@[simp] theorem State.modIdx_clus (f : List Index → List Index) (s : State) : (s.modIdx f).clus = s.clus := rfl
@[simp] theorem State.modIdx_sigs (f : List Index → List Index) (s : State) : (s.modIdx f).sigs = s.sigs := rfl
@[simp] theorem State.modIdx_lnk (f : List Index → List Index) (s : State) : (s.modIdx f).lnk = s.lnk := rfl
@[simp] theorem State.modIdx_boot (f : List Index → List Index) (s : State) : (s.modIdx f).boot = s.boot := rfl
@[simp] theorem State.modIdx_sec (f : List Index → List Index) (s : State) : (s.modIdx f).sec = s.sec := rfl
@[simp] theorem State.modIdx_gen (f : List Index → List Index) (s : State) : (s.modIdx f).gen = s.gen := rfl
@[simp] theorem State.modMedia_variant (f : Media → Media) (s : State) : (s.modMedia f).variant = s.variant := rfl
@[simp] theorem State.modMedia_pending (f : Media → Media) (s : State) : (s.modMedia f).pending = s.pending := rfl
@[simp] theorem State.modMedia_free (f : Media → Media) (s : State) : (s.modMedia f).free = s.free := rfl
@[simp] theorem State.modMedia_now (f : Media → Media) (s : State) : (s.modMedia f).now = s.now := rfl
@[simp] theorem State.modMedia_upAt (f : Media → Media) (s : State) : (s.modMedia f).upAt = s.upAt := rfl
@[simp] theorem State.modMedia_busReply (f : Media → Media) (s : State) : (s.modMedia f).busReply = s.busReply := rfl
@[simp] theorem State.modMedia_hostWrites (f : Media → Media) (s : State) : (s.modMedia f).hostWrites = s.hostWrites := rfl
@[simp] theorem State.modMedia_nvm (f : Media → Media) (s : State) : (s.modMedia f).nvm = s.nvm := rfl
@[simp] theorem State.modMedia_mgmt (f : Media → Media) (s : State) : (s.modMedia f).mgmt = s.mgmt := rfl
@[simp] theorem State.modMedia_nss (f : Media → Media) (s : State) : (s.modMedia f).nss = s.nss := rfl
@[simp] theorem State.modMedia_keyGens (f : Media → Media) (s : State) : (s.modMedia f).keyGens = s.keyGens := rfl
@[simp] theorem State.modMedia_res (f : Media → Media) (s : State) : (s.modMedia f).res = s.res := rfl
@[simp] theorem State.modMedia_ras (f : Media → Media) (s : State) : (s.modMedia f).ras = s.ras := rfl
@[simp] theorem State.modMedia_escalate (f : Media → Media) (s : State) : (s.modMedia f).escalate = s.escalate := rfl
@[simp] theorem State.modMedia_cfg (f : Media → Media) (s : State) : (s.modMedia f).cfg = s.cfg := rfl
@[simp] theorem State.modMedia_parts (f : Media → Media) (s : State) : (s.modMedia f).parts = s.parts := rfl
@[simp] theorem State.modMedia_presets (f : Media → Media) (s : State) : (s.modMedia f).presets = s.presets := rfl
@[simp] theorem State.modMedia_store (f : Media → Media) (s : State) : (s.modMedia f).store = s.store := rfl
@[simp] theorem State.modMedia_resv (f : Media → Media) (s : State) : (s.modMedia f).resv = s.resv := rfl
@[simp] theorem State.modMedia_idx (f : Media → Media) (s : State) : (s.modMedia f).idx = s.idx := rfl
@[simp] theorem State.modMedia_media (f : Media → Media) (s : State) : (s.modMedia f).media = f s.media := rfl
@[simp] theorem State.modMedia_cad (f : Media → Media) (s : State) : (s.modMedia f).cad = s.cad := rfl
@[simp] theorem State.modMedia_pwr (f : Media → Media) (s : State) : (s.modMedia f).pwr = s.pwr := rfl
@[simp] theorem State.modMedia_cis (f : Media → Media) (s : State) : (s.modMedia f).cis = s.cis := rfl
@[simp] theorem State.modMedia_clus (f : Media → Media) (s : State) : (s.modMedia f).clus = s.clus := rfl
@[simp] theorem State.modMedia_sigs (f : Media → Media) (s : State) : (s.modMedia f).sigs = s.sigs := rfl
@[simp] theorem State.modMedia_lnk (f : Media → Media) (s : State) : (s.modMedia f).lnk = s.lnk := rfl
@[simp] theorem State.modMedia_boot (f : Media → Media) (s : State) : (s.modMedia f).boot = s.boot := rfl
@[simp] theorem State.modMedia_sec (f : Media → Media) (s : State) : (s.modMedia f).sec = s.sec := rfl
@[simp] theorem State.modMedia_gen (f : Media → Media) (s : State) : (s.modMedia f).gen = s.gen := rfl
@[simp] theorem State.modCad_variant (f : Cad → Cad) (s : State) : (s.modCad f).variant = s.variant := rfl
@[simp] theorem State.modCad_pending (f : Cad → Cad) (s : State) : (s.modCad f).pending = s.pending := rfl
@[simp] theorem State.modCad_free (f : Cad → Cad) (s : State) : (s.modCad f).free = s.free := rfl
@[simp] theorem State.modCad_now (f : Cad → Cad) (s : State) : (s.modCad f).now = s.now := rfl
@[simp] theorem State.modCad_upAt (f : Cad → Cad) (s : State) : (s.modCad f).upAt = s.upAt := rfl
@[simp] theorem State.modCad_busReply (f : Cad → Cad) (s : State) : (s.modCad f).busReply = s.busReply := rfl
@[simp] theorem State.modCad_hostWrites (f : Cad → Cad) (s : State) : (s.modCad f).hostWrites = s.hostWrites := rfl
@[simp] theorem State.modCad_nvm (f : Cad → Cad) (s : State) : (s.modCad f).nvm = s.nvm := rfl
@[simp] theorem State.modCad_mgmt (f : Cad → Cad) (s : State) : (s.modCad f).mgmt = s.mgmt := rfl
@[simp] theorem State.modCad_nss (f : Cad → Cad) (s : State) : (s.modCad f).nss = s.nss := rfl
@[simp] theorem State.modCad_keyGens (f : Cad → Cad) (s : State) : (s.modCad f).keyGens = s.keyGens := rfl
@[simp] theorem State.modCad_res (f : Cad → Cad) (s : State) : (s.modCad f).res = s.res := rfl
@[simp] theorem State.modCad_ras (f : Cad → Cad) (s : State) : (s.modCad f).ras = s.ras := rfl
@[simp] theorem State.modCad_escalate (f : Cad → Cad) (s : State) : (s.modCad f).escalate = s.escalate := rfl
@[simp] theorem State.modCad_cfg (f : Cad → Cad) (s : State) : (s.modCad f).cfg = s.cfg := rfl
@[simp] theorem State.modCad_parts (f : Cad → Cad) (s : State) : (s.modCad f).parts = s.parts := rfl
@[simp] theorem State.modCad_presets (f : Cad → Cad) (s : State) : (s.modCad f).presets = s.presets := rfl
@[simp] theorem State.modCad_store (f : Cad → Cad) (s : State) : (s.modCad f).store = s.store := rfl
@[simp] theorem State.modCad_resv (f : Cad → Cad) (s : State) : (s.modCad f).resv = s.resv := rfl
@[simp] theorem State.modCad_idx (f : Cad → Cad) (s : State) : (s.modCad f).idx = s.idx := rfl
@[simp] theorem State.modCad_media (f : Cad → Cad) (s : State) : (s.modCad f).media = s.media := rfl
@[simp] theorem State.modCad_cad (f : Cad → Cad) (s : State) : (s.modCad f).cad = f s.cad := rfl
@[simp] theorem State.modCad_pwr (f : Cad → Cad) (s : State) : (s.modCad f).pwr = s.pwr := rfl
@[simp] theorem State.modCad_cis (f : Cad → Cad) (s : State) : (s.modCad f).cis = s.cis := rfl
@[simp] theorem State.modCad_clus (f : Cad → Cad) (s : State) : (s.modCad f).clus = s.clus := rfl
@[simp] theorem State.modCad_sigs (f : Cad → Cad) (s : State) : (s.modCad f).sigs = s.sigs := rfl
@[simp] theorem State.modCad_lnk (f : Cad → Cad) (s : State) : (s.modCad f).lnk = s.lnk := rfl
@[simp] theorem State.modCad_boot (f : Cad → Cad) (s : State) : (s.modCad f).boot = s.boot := rfl
@[simp] theorem State.modCad_sec (f : Cad → Cad) (s : State) : (s.modCad f).sec = s.sec := rfl
@[simp] theorem State.modCad_gen (f : Cad → Cad) (s : State) : (s.modCad f).gen = s.gen := rfl
@[simp] theorem State.modPwr_variant (f : Pwr → Pwr) (s : State) : (s.modPwr f).variant = s.variant := rfl
@[simp] theorem State.modPwr_pending (f : Pwr → Pwr) (s : State) : (s.modPwr f).pending = s.pending := rfl
@[simp] theorem State.modPwr_free (f : Pwr → Pwr) (s : State) : (s.modPwr f).free = s.free := rfl
@[simp] theorem State.modPwr_now (f : Pwr → Pwr) (s : State) : (s.modPwr f).now = s.now := rfl
@[simp] theorem State.modPwr_upAt (f : Pwr → Pwr) (s : State) : (s.modPwr f).upAt = s.upAt := rfl
@[simp] theorem State.modPwr_busReply (f : Pwr → Pwr) (s : State) : (s.modPwr f).busReply = s.busReply := rfl
@[simp] theorem State.modPwr_hostWrites (f : Pwr → Pwr) (s : State) : (s.modPwr f).hostWrites = s.hostWrites := rfl
@[simp] theorem State.modPwr_nvm (f : Pwr → Pwr) (s : State) : (s.modPwr f).nvm = s.nvm := rfl
@[simp] theorem State.modPwr_mgmt (f : Pwr → Pwr) (s : State) : (s.modPwr f).mgmt = s.mgmt := rfl
@[simp] theorem State.modPwr_nss (f : Pwr → Pwr) (s : State) : (s.modPwr f).nss = s.nss := rfl
@[simp] theorem State.modPwr_keyGens (f : Pwr → Pwr) (s : State) : (s.modPwr f).keyGens = s.keyGens := rfl
@[simp] theorem State.modPwr_res (f : Pwr → Pwr) (s : State) : (s.modPwr f).res = s.res := rfl
@[simp] theorem State.modPwr_ras (f : Pwr → Pwr) (s : State) : (s.modPwr f).ras = s.ras := rfl
@[simp] theorem State.modPwr_escalate (f : Pwr → Pwr) (s : State) : (s.modPwr f).escalate = s.escalate := rfl
@[simp] theorem State.modPwr_cfg (f : Pwr → Pwr) (s : State) : (s.modPwr f).cfg = s.cfg := rfl
@[simp] theorem State.modPwr_parts (f : Pwr → Pwr) (s : State) : (s.modPwr f).parts = s.parts := rfl
@[simp] theorem State.modPwr_presets (f : Pwr → Pwr) (s : State) : (s.modPwr f).presets = s.presets := rfl
@[simp] theorem State.modPwr_store (f : Pwr → Pwr) (s : State) : (s.modPwr f).store = s.store := rfl
@[simp] theorem State.modPwr_resv (f : Pwr → Pwr) (s : State) : (s.modPwr f).resv = s.resv := rfl
@[simp] theorem State.modPwr_idx (f : Pwr → Pwr) (s : State) : (s.modPwr f).idx = s.idx := rfl
@[simp] theorem State.modPwr_media (f : Pwr → Pwr) (s : State) : (s.modPwr f).media = s.media := rfl
@[simp] theorem State.modPwr_cad (f : Pwr → Pwr) (s : State) : (s.modPwr f).cad = s.cad := rfl
@[simp] theorem State.modPwr_pwr (f : Pwr → Pwr) (s : State) : (s.modPwr f).pwr = f s.pwr := rfl
@[simp] theorem State.modPwr_cis (f : Pwr → Pwr) (s : State) : (s.modPwr f).cis = s.cis := rfl
@[simp] theorem State.modPwr_clus (f : Pwr → Pwr) (s : State) : (s.modPwr f).clus = s.clus := rfl
@[simp] theorem State.modPwr_sigs (f : Pwr → Pwr) (s : State) : (s.modPwr f).sigs = s.sigs := rfl
@[simp] theorem State.modPwr_lnk (f : Pwr → Pwr) (s : State) : (s.modPwr f).lnk = s.lnk := rfl
@[simp] theorem State.modPwr_boot (f : Pwr → Pwr) (s : State) : (s.modPwr f).boot = s.boot := rfl
@[simp] theorem State.modPwr_sec (f : Pwr → Pwr) (s : State) : (s.modPwr f).sec = s.sec := rfl
@[simp] theorem State.modPwr_gen (f : Pwr → Pwr) (s : State) : (s.modPwr f).gen = s.gen := rfl
@[simp] theorem State.modCis_variant (f : Cis → Cis) (s : State) : (s.modCis f).variant = s.variant := rfl
@[simp] theorem State.modCis_pending (f : Cis → Cis) (s : State) : (s.modCis f).pending = s.pending := rfl
@[simp] theorem State.modCis_free (f : Cis → Cis) (s : State) : (s.modCis f).free = s.free := rfl
@[simp] theorem State.modCis_now (f : Cis → Cis) (s : State) : (s.modCis f).now = s.now := rfl
@[simp] theorem State.modCis_upAt (f : Cis → Cis) (s : State) : (s.modCis f).upAt = s.upAt := rfl
@[simp] theorem State.modCis_busReply (f : Cis → Cis) (s : State) : (s.modCis f).busReply = s.busReply := rfl
@[simp] theorem State.modCis_hostWrites (f : Cis → Cis) (s : State) : (s.modCis f).hostWrites = s.hostWrites := rfl
@[simp] theorem State.modCis_nvm (f : Cis → Cis) (s : State) : (s.modCis f).nvm = s.nvm := rfl
@[simp] theorem State.modCis_mgmt (f : Cis → Cis) (s : State) : (s.modCis f).mgmt = s.mgmt := rfl
@[simp] theorem State.modCis_nss (f : Cis → Cis) (s : State) : (s.modCis f).nss = s.nss := rfl
@[simp] theorem State.modCis_keyGens (f : Cis → Cis) (s : State) : (s.modCis f).keyGens = s.keyGens := rfl
@[simp] theorem State.modCis_res (f : Cis → Cis) (s : State) : (s.modCis f).res = s.res := rfl
@[simp] theorem State.modCis_ras (f : Cis → Cis) (s : State) : (s.modCis f).ras = s.ras := rfl
@[simp] theorem State.modCis_escalate (f : Cis → Cis) (s : State) : (s.modCis f).escalate = s.escalate := rfl
@[simp] theorem State.modCis_cfg (f : Cis → Cis) (s : State) : (s.modCis f).cfg = s.cfg := rfl
@[simp] theorem State.modCis_parts (f : Cis → Cis) (s : State) : (s.modCis f).parts = s.parts := rfl
@[simp] theorem State.modCis_presets (f : Cis → Cis) (s : State) : (s.modCis f).presets = s.presets := rfl
@[simp] theorem State.modCis_store (f : Cis → Cis) (s : State) : (s.modCis f).store = s.store := rfl
@[simp] theorem State.modCis_resv (f : Cis → Cis) (s : State) : (s.modCis f).resv = s.resv := rfl
@[simp] theorem State.modCis_idx (f : Cis → Cis) (s : State) : (s.modCis f).idx = s.idx := rfl
@[simp] theorem State.modCis_media (f : Cis → Cis) (s : State) : (s.modCis f).media = s.media := rfl
@[simp] theorem State.modCis_cad (f : Cis → Cis) (s : State) : (s.modCis f).cad = s.cad := rfl
@[simp] theorem State.modCis_pwr (f : Cis → Cis) (s : State) : (s.modCis f).pwr = s.pwr := rfl
@[simp] theorem State.modCis_cis (f : Cis → Cis) (s : State) : (s.modCis f).cis = f s.cis := rfl
@[simp] theorem State.modCis_clus (f : Cis → Cis) (s : State) : (s.modCis f).clus = s.clus := rfl
@[simp] theorem State.modCis_sigs (f : Cis → Cis) (s : State) : (s.modCis f).sigs = s.sigs := rfl
@[simp] theorem State.modCis_lnk (f : Cis → Cis) (s : State) : (s.modCis f).lnk = s.lnk := rfl
@[simp] theorem State.modCis_boot (f : Cis → Cis) (s : State) : (s.modCis f).boot = s.boot := rfl
@[simp] theorem State.modCis_sec (f : Cis → Cis) (s : State) : (s.modCis f).sec = s.sec := rfl
@[simp] theorem State.modCis_gen (f : Cis → Cis) (s : State) : (s.modCis f).gen = s.gen := rfl
@[simp] theorem State.modClus_variant (f : List Clu → List Clu) (s : State) : (s.modClus f).variant = s.variant := rfl
@[simp] theorem State.modClus_pending (f : List Clu → List Clu) (s : State) : (s.modClus f).pending = s.pending := rfl
@[simp] theorem State.modClus_free (f : List Clu → List Clu) (s : State) : (s.modClus f).free = s.free := rfl
@[simp] theorem State.modClus_now (f : List Clu → List Clu) (s : State) : (s.modClus f).now = s.now := rfl
@[simp] theorem State.modClus_upAt (f : List Clu → List Clu) (s : State) : (s.modClus f).upAt = s.upAt := rfl
@[simp] theorem State.modClus_busReply (f : List Clu → List Clu) (s : State) : (s.modClus f).busReply = s.busReply := rfl
@[simp] theorem State.modClus_hostWrites (f : List Clu → List Clu) (s : State) : (s.modClus f).hostWrites = s.hostWrites := rfl
@[simp] theorem State.modClus_nvm (f : List Clu → List Clu) (s : State) : (s.modClus f).nvm = s.nvm := rfl
@[simp] theorem State.modClus_mgmt (f : List Clu → List Clu) (s : State) : (s.modClus f).mgmt = s.mgmt := rfl
@[simp] theorem State.modClus_nss (f : List Clu → List Clu) (s : State) : (s.modClus f).nss = s.nss := rfl
@[simp] theorem State.modClus_keyGens (f : List Clu → List Clu) (s : State) : (s.modClus f).keyGens = s.keyGens := rfl
@[simp] theorem State.modClus_res (f : List Clu → List Clu) (s : State) : (s.modClus f).res = s.res := rfl
@[simp] theorem State.modClus_ras (f : List Clu → List Clu) (s : State) : (s.modClus f).ras = s.ras := rfl
@[simp] theorem State.modClus_escalate (f : List Clu → List Clu) (s : State) : (s.modClus f).escalate = s.escalate := rfl
@[simp] theorem State.modClus_cfg (f : List Clu → List Clu) (s : State) : (s.modClus f).cfg = s.cfg := rfl
@[simp] theorem State.modClus_parts (f : List Clu → List Clu) (s : State) : (s.modClus f).parts = s.parts := rfl
@[simp] theorem State.modClus_presets (f : List Clu → List Clu) (s : State) : (s.modClus f).presets = s.presets := rfl
@[simp] theorem State.modClus_store (f : List Clu → List Clu) (s : State) : (s.modClus f).store = s.store := rfl
@[simp] theorem State.modClus_resv (f : List Clu → List Clu) (s : State) : (s.modClus f).resv = s.resv := rfl
@[simp] theorem State.modClus_idx (f : List Clu → List Clu) (s : State) : (s.modClus f).idx = s.idx := rfl
@[simp] theorem State.modClus_media (f : List Clu → List Clu) (s : State) : (s.modClus f).media = s.media := rfl
@[simp] theorem State.modClus_cad (f : List Clu → List Clu) (s : State) : (s.modClus f).cad = s.cad := rfl
@[simp] theorem State.modClus_pwr (f : List Clu → List Clu) (s : State) : (s.modClus f).pwr = s.pwr := rfl
@[simp] theorem State.modClus_cis (f : List Clu → List Clu) (s : State) : (s.modClus f).cis = s.cis := rfl
@[simp] theorem State.modClus_clus (f : List Clu → List Clu) (s : State) : (s.modClus f).clus = f s.clus := rfl
@[simp] theorem State.modClus_sigs (f : List Clu → List Clu) (s : State) : (s.modClus f).sigs = s.sigs := rfl
@[simp] theorem State.modClus_lnk (f : List Clu → List Clu) (s : State) : (s.modClus f).lnk = s.lnk := rfl
@[simp] theorem State.modClus_boot (f : List Clu → List Clu) (s : State) : (s.modClus f).boot = s.boot := rfl
@[simp] theorem State.modClus_sec (f : List Clu → List Clu) (s : State) : (s.modClus f).sec = s.sec := rfl
@[simp] theorem State.modClus_gen (f : List Clu → List Clu) (s : State) : (s.modClus f).gen = s.gen := rfl
@[simp] theorem State.modSigs_variant (f : List DevSig → List DevSig) (s : State) : (s.modSigs f).variant = s.variant := rfl
@[simp] theorem State.modSigs_pending (f : List DevSig → List DevSig) (s : State) : (s.modSigs f).pending = s.pending := rfl
@[simp] theorem State.modSigs_free (f : List DevSig → List DevSig) (s : State) : (s.modSigs f).free = s.free := rfl
@[simp] theorem State.modSigs_now (f : List DevSig → List DevSig) (s : State) : (s.modSigs f).now = s.now := rfl
@[simp] theorem State.modSigs_upAt (f : List DevSig → List DevSig) (s : State) : (s.modSigs f).upAt = s.upAt := rfl
@[simp] theorem State.modSigs_busReply (f : List DevSig → List DevSig) (s : State) : (s.modSigs f).busReply = s.busReply := rfl
@[simp] theorem State.modSigs_hostWrites (f : List DevSig → List DevSig) (s : State) : (s.modSigs f).hostWrites = s.hostWrites := rfl
@[simp] theorem State.modSigs_nvm (f : List DevSig → List DevSig) (s : State) : (s.modSigs f).nvm = s.nvm := rfl
@[simp] theorem State.modSigs_mgmt (f : List DevSig → List DevSig) (s : State) : (s.modSigs f).mgmt = s.mgmt := rfl
@[simp] theorem State.modSigs_nss (f : List DevSig → List DevSig) (s : State) : (s.modSigs f).nss = s.nss := rfl
@[simp] theorem State.modSigs_keyGens (f : List DevSig → List DevSig) (s : State) : (s.modSigs f).keyGens = s.keyGens := rfl
@[simp] theorem State.modSigs_res (f : List DevSig → List DevSig) (s : State) : (s.modSigs f).res = s.res := rfl
@[simp] theorem State.modSigs_ras (f : List DevSig → List DevSig) (s : State) : (s.modSigs f).ras = s.ras := rfl
@[simp] theorem State.modSigs_escalate (f : List DevSig → List DevSig) (s : State) : (s.modSigs f).escalate = s.escalate := rfl
@[simp] theorem State.modSigs_cfg (f : List DevSig → List DevSig) (s : State) : (s.modSigs f).cfg = s.cfg := rfl
@[simp] theorem State.modSigs_parts (f : List DevSig → List DevSig) (s : State) : (s.modSigs f).parts = s.parts := rfl
@[simp] theorem State.modSigs_presets (f : List DevSig → List DevSig) (s : State) : (s.modSigs f).presets = s.presets := rfl
@[simp] theorem State.modSigs_store (f : List DevSig → List DevSig) (s : State) : (s.modSigs f).store = s.store := rfl
@[simp] theorem State.modSigs_resv (f : List DevSig → List DevSig) (s : State) : (s.modSigs f).resv = s.resv := rfl
@[simp] theorem State.modSigs_idx (f : List DevSig → List DevSig) (s : State) : (s.modSigs f).idx = s.idx := rfl
@[simp] theorem State.modSigs_media (f : List DevSig → List DevSig) (s : State) : (s.modSigs f).media = s.media := rfl
@[simp] theorem State.modSigs_cad (f : List DevSig → List DevSig) (s : State) : (s.modSigs f).cad = s.cad := rfl
@[simp] theorem State.modSigs_pwr (f : List DevSig → List DevSig) (s : State) : (s.modSigs f).pwr = s.pwr := rfl
@[simp] theorem State.modSigs_cis (f : List DevSig → List DevSig) (s : State) : (s.modSigs f).cis = s.cis := rfl
@[simp] theorem State.modSigs_clus (f : List DevSig → List DevSig) (s : State) : (s.modSigs f).clus = s.clus := rfl
@[simp] theorem State.modSigs_sigs (f : List DevSig → List DevSig) (s : State) : (s.modSigs f).sigs = f s.sigs := rfl
@[simp] theorem State.modSigs_lnk (f : List DevSig → List DevSig) (s : State) : (s.modSigs f).lnk = s.lnk := rfl
@[simp] theorem State.modSigs_boot (f : List DevSig → List DevSig) (s : State) : (s.modSigs f).boot = s.boot := rfl
@[simp] theorem State.modSigs_sec (f : List DevSig → List DevSig) (s : State) : (s.modSigs f).sec = s.sec := rfl
@[simp] theorem State.modSigs_gen (f : List DevSig → List DevSig) (s : State) : (s.modSigs f).gen = s.gen := rfl
@[simp] theorem State.modLnk_variant (f : Lnk → Lnk) (s : State) : (s.modLnk f).variant = s.variant := rfl
@[simp] theorem State.modLnk_pending (f : Lnk → Lnk) (s : State) : (s.modLnk f).pending = s.pending := rfl
@[simp] theorem State.modLnk_free (f : Lnk → Lnk) (s : State) : (s.modLnk f).free = s.free := rfl
@[simp] theorem State.modLnk_now (f : Lnk → Lnk) (s : State) : (s.modLnk f).now = s.now := rfl
@[simp] theorem State.modLnk_upAt (f : Lnk → Lnk) (s : State) : (s.modLnk f).upAt = s.upAt := rfl
@[simp] theorem State.modLnk_busReply (f : Lnk → Lnk) (s : State) : (s.modLnk f).busReply = s.busReply := rfl
@[simp] theorem State.modLnk_hostWrites (f : Lnk → Lnk) (s : State) : (s.modLnk f).hostWrites = s.hostWrites := rfl
@[simp] theorem State.modLnk_nvm (f : Lnk → Lnk) (s : State) : (s.modLnk f).nvm = s.nvm := rfl
@[simp] theorem State.modLnk_mgmt (f : Lnk → Lnk) (s : State) : (s.modLnk f).mgmt = s.mgmt := rfl
@[simp] theorem State.modLnk_nss (f : Lnk → Lnk) (s : State) : (s.modLnk f).nss = s.nss := rfl
@[simp] theorem State.modLnk_keyGens (f : Lnk → Lnk) (s : State) : (s.modLnk f).keyGens = s.keyGens := rfl
@[simp] theorem State.modLnk_res (f : Lnk → Lnk) (s : State) : (s.modLnk f).res = s.res := rfl
@[simp] theorem State.modLnk_ras (f : Lnk → Lnk) (s : State) : (s.modLnk f).ras = s.ras := rfl
@[simp] theorem State.modLnk_escalate (f : Lnk → Lnk) (s : State) : (s.modLnk f).escalate = s.escalate := rfl
@[simp] theorem State.modLnk_cfg (f : Lnk → Lnk) (s : State) : (s.modLnk f).cfg = s.cfg := rfl
@[simp] theorem State.modLnk_parts (f : Lnk → Lnk) (s : State) : (s.modLnk f).parts = s.parts := rfl
@[simp] theorem State.modLnk_presets (f : Lnk → Lnk) (s : State) : (s.modLnk f).presets = s.presets := rfl
@[simp] theorem State.modLnk_store (f : Lnk → Lnk) (s : State) : (s.modLnk f).store = s.store := rfl
@[simp] theorem State.modLnk_resv (f : Lnk → Lnk) (s : State) : (s.modLnk f).resv = s.resv := rfl
@[simp] theorem State.modLnk_idx (f : Lnk → Lnk) (s : State) : (s.modLnk f).idx = s.idx := rfl
@[simp] theorem State.modLnk_media (f : Lnk → Lnk) (s : State) : (s.modLnk f).media = s.media := rfl
@[simp] theorem State.modLnk_cad (f : Lnk → Lnk) (s : State) : (s.modLnk f).cad = s.cad := rfl
@[simp] theorem State.modLnk_pwr (f : Lnk → Lnk) (s : State) : (s.modLnk f).pwr = s.pwr := rfl
@[simp] theorem State.modLnk_cis (f : Lnk → Lnk) (s : State) : (s.modLnk f).cis = s.cis := rfl
@[simp] theorem State.modLnk_clus (f : Lnk → Lnk) (s : State) : (s.modLnk f).clus = s.clus := rfl
@[simp] theorem State.modLnk_sigs (f : Lnk → Lnk) (s : State) : (s.modLnk f).sigs = s.sigs := rfl
@[simp] theorem State.modLnk_lnk (f : Lnk → Lnk) (s : State) : (s.modLnk f).lnk = f s.lnk := rfl
@[simp] theorem State.modLnk_boot (f : Lnk → Lnk) (s : State) : (s.modLnk f).boot = s.boot := rfl
@[simp] theorem State.modLnk_sec (f : Lnk → Lnk) (s : State) : (s.modLnk f).sec = s.sec := rfl
@[simp] theorem State.modLnk_gen (f : Lnk → Lnk) (s : State) : (s.modLnk f).gen = s.gen := rfl
@[simp] theorem State.modBoot_variant (f : Boot → Boot) (s : State) : (s.modBoot f).variant = s.variant := rfl
@[simp] theorem State.modBoot_pending (f : Boot → Boot) (s : State) : (s.modBoot f).pending = s.pending := rfl
@[simp] theorem State.modBoot_free (f : Boot → Boot) (s : State) : (s.modBoot f).free = s.free := rfl
@[simp] theorem State.modBoot_now (f : Boot → Boot) (s : State) : (s.modBoot f).now = s.now := rfl
@[simp] theorem State.modBoot_upAt (f : Boot → Boot) (s : State) : (s.modBoot f).upAt = s.upAt := rfl
@[simp] theorem State.modBoot_busReply (f : Boot → Boot) (s : State) : (s.modBoot f).busReply = s.busReply := rfl
@[simp] theorem State.modBoot_hostWrites (f : Boot → Boot) (s : State) : (s.modBoot f).hostWrites = s.hostWrites := rfl
@[simp] theorem State.modBoot_nvm (f : Boot → Boot) (s : State) : (s.modBoot f).nvm = s.nvm := rfl
@[simp] theorem State.modBoot_mgmt (f : Boot → Boot) (s : State) : (s.modBoot f).mgmt = s.mgmt := rfl
@[simp] theorem State.modBoot_nss (f : Boot → Boot) (s : State) : (s.modBoot f).nss = s.nss := rfl
@[simp] theorem State.modBoot_keyGens (f : Boot → Boot) (s : State) : (s.modBoot f).keyGens = s.keyGens := rfl
@[simp] theorem State.modBoot_res (f : Boot → Boot) (s : State) : (s.modBoot f).res = s.res := rfl
@[simp] theorem State.modBoot_ras (f : Boot → Boot) (s : State) : (s.modBoot f).ras = s.ras := rfl
@[simp] theorem State.modBoot_escalate (f : Boot → Boot) (s : State) : (s.modBoot f).escalate = s.escalate := rfl
@[simp] theorem State.modBoot_cfg (f : Boot → Boot) (s : State) : (s.modBoot f).cfg = s.cfg := rfl
@[simp] theorem State.modBoot_parts (f : Boot → Boot) (s : State) : (s.modBoot f).parts = s.parts := rfl
@[simp] theorem State.modBoot_presets (f : Boot → Boot) (s : State) : (s.modBoot f).presets = s.presets := rfl
@[simp] theorem State.modBoot_store (f : Boot → Boot) (s : State) : (s.modBoot f).store = s.store := rfl
@[simp] theorem State.modBoot_resv (f : Boot → Boot) (s : State) : (s.modBoot f).resv = s.resv := rfl
@[simp] theorem State.modBoot_idx (f : Boot → Boot) (s : State) : (s.modBoot f).idx = s.idx := rfl
@[simp] theorem State.modBoot_media (f : Boot → Boot) (s : State) : (s.modBoot f).media = s.media := rfl
@[simp] theorem State.modBoot_cad (f : Boot → Boot) (s : State) : (s.modBoot f).cad = s.cad := rfl
@[simp] theorem State.modBoot_pwr (f : Boot → Boot) (s : State) : (s.modBoot f).pwr = s.pwr := rfl
@[simp] theorem State.modBoot_cis (f : Boot → Boot) (s : State) : (s.modBoot f).cis = s.cis := rfl
@[simp] theorem State.modBoot_clus (f : Boot → Boot) (s : State) : (s.modBoot f).clus = s.clus := rfl
@[simp] theorem State.modBoot_sigs (f : Boot → Boot) (s : State) : (s.modBoot f).sigs = s.sigs := rfl
@[simp] theorem State.modBoot_lnk (f : Boot → Boot) (s : State) : (s.modBoot f).lnk = s.lnk := rfl
@[simp] theorem State.modBoot_boot (f : Boot → Boot) (s : State) : (s.modBoot f).boot = f s.boot := rfl
@[simp] theorem State.modBoot_sec (f : Boot → Boot) (s : State) : (s.modBoot f).sec = s.sec := rfl
@[simp] theorem State.modBoot_gen (f : Boot → Boot) (s : State) : (s.modBoot f).gen = s.gen := rfl
@[simp] theorem State.modSec_variant (f : Sec → Sec) (s : State) : (s.modSec f).variant = s.variant := rfl
@[simp] theorem State.modSec_pending (f : Sec → Sec) (s : State) : (s.modSec f).pending = s.pending := rfl
@[simp] theorem State.modSec_free (f : Sec → Sec) (s : State) : (s.modSec f).free = s.free := rfl
@[simp] theorem State.modSec_now (f : Sec → Sec) (s : State) : (s.modSec f).now = s.now := rfl
@[simp] theorem State.modSec_upAt (f : Sec → Sec) (s : State) : (s.modSec f).upAt = s.upAt := rfl
@[simp] theorem State.modSec_busReply (f : Sec → Sec) (s : State) : (s.modSec f).busReply = s.busReply := rfl
@[simp] theorem State.modSec_hostWrites (f : Sec → Sec) (s : State) : (s.modSec f).hostWrites = s.hostWrites := rfl
@[simp] theorem State.modSec_nvm (f : Sec → Sec) (s : State) : (s.modSec f).nvm = s.nvm := rfl
@[simp] theorem State.modSec_mgmt (f : Sec → Sec) (s : State) : (s.modSec f).mgmt = s.mgmt := rfl
@[simp] theorem State.modSec_nss (f : Sec → Sec) (s : State) : (s.modSec f).nss = s.nss := rfl
@[simp] theorem State.modSec_keyGens (f : Sec → Sec) (s : State) : (s.modSec f).keyGens = s.keyGens := rfl
@[simp] theorem State.modSec_res (f : Sec → Sec) (s : State) : (s.modSec f).res = s.res := rfl
@[simp] theorem State.modSec_ras (f : Sec → Sec) (s : State) : (s.modSec f).ras = s.ras := rfl
@[simp] theorem State.modSec_escalate (f : Sec → Sec) (s : State) : (s.modSec f).escalate = s.escalate := rfl
@[simp] theorem State.modSec_cfg (f : Sec → Sec) (s : State) : (s.modSec f).cfg = s.cfg := rfl
@[simp] theorem State.modSec_parts (f : Sec → Sec) (s : State) : (s.modSec f).parts = s.parts := rfl
@[simp] theorem State.modSec_presets (f : Sec → Sec) (s : State) : (s.modSec f).presets = s.presets := rfl
@[simp] theorem State.modSec_store (f : Sec → Sec) (s : State) : (s.modSec f).store = s.store := rfl
@[simp] theorem State.modSec_resv (f : Sec → Sec) (s : State) : (s.modSec f).resv = s.resv := rfl
@[simp] theorem State.modSec_idx (f : Sec → Sec) (s : State) : (s.modSec f).idx = s.idx := rfl
@[simp] theorem State.modSec_media (f : Sec → Sec) (s : State) : (s.modSec f).media = s.media := rfl
@[simp] theorem State.modSec_cad (f : Sec → Sec) (s : State) : (s.modSec f).cad = s.cad := rfl
@[simp] theorem State.modSec_pwr (f : Sec → Sec) (s : State) : (s.modSec f).pwr = s.pwr := rfl
@[simp] theorem State.modSec_cis (f : Sec → Sec) (s : State) : (s.modSec f).cis = s.cis := rfl
@[simp] theorem State.modSec_clus (f : Sec → Sec) (s : State) : (s.modSec f).clus = s.clus := rfl
@[simp] theorem State.modSec_sigs (f : Sec → Sec) (s : State) : (s.modSec f).sigs = s.sigs := rfl
@[simp] theorem State.modSec_lnk (f : Sec → Sec) (s : State) : (s.modSec f).lnk = s.lnk := rfl
@[simp] theorem State.modSec_boot (f : Sec → Sec) (s : State) : (s.modSec f).boot = s.boot := rfl
@[simp] theorem State.modSec_sec (f : Sec → Sec) (s : State) : (s.modSec f).sec = f s.sec := rfl
@[simp] theorem State.modSec_gen (f : Sec → Sec) (s : State) : (s.modSec f).gen = s.gen := rfl
@[simp] theorem State.modGen_variant (f : Gen → Gen) (s : State) : (s.modGen f).variant = s.variant := rfl
@[simp] theorem State.modGen_pending (f : Gen → Gen) (s : State) : (s.modGen f).pending = s.pending := rfl
@[simp] theorem State.modGen_free (f : Gen → Gen) (s : State) : (s.modGen f).free = s.free := rfl
@[simp] theorem State.modGen_now (f : Gen → Gen) (s : State) : (s.modGen f).now = s.now := rfl
@[simp] theorem State.modGen_upAt (f : Gen → Gen) (s : State) : (s.modGen f).upAt = s.upAt := rfl
@[simp] theorem State.modGen_busReply (f : Gen → Gen) (s : State) : (s.modGen f).busReply = s.busReply := rfl
@[simp] theorem State.modGen_hostWrites (f : Gen → Gen) (s : State) : (s.modGen f).hostWrites = s.hostWrites := rfl
@[simp] theorem State.modGen_nvm (f : Gen → Gen) (s : State) : (s.modGen f).nvm = s.nvm := rfl
@[simp] theorem State.modGen_mgmt (f : Gen → Gen) (s : State) : (s.modGen f).mgmt = s.mgmt := rfl
@[simp] theorem State.modGen_nss (f : Gen → Gen) (s : State) : (s.modGen f).nss = s.nss := rfl
@[simp] theorem State.modGen_keyGens (f : Gen → Gen) (s : State) : (s.modGen f).keyGens = s.keyGens := rfl
@[simp] theorem State.modGen_res (f : Gen → Gen) (s : State) : (s.modGen f).res = s.res := rfl
@[simp] theorem State.modGen_ras (f : Gen → Gen) (s : State) : (s.modGen f).ras = s.ras := rfl
@[simp] theorem State.modGen_escalate (f : Gen → Gen) (s : State) : (s.modGen f).escalate = s.escalate := rfl
@[simp] theorem State.modGen_cfg (f : Gen → Gen) (s : State) : (s.modGen f).cfg = s.cfg := rfl
@[simp] theorem State.modGen_parts (f : Gen → Gen) (s : State) : (s.modGen f).parts = s.parts := rfl
@[simp] theorem State.modGen_presets (f : Gen → Gen) (s : State) : (s.modGen f).presets = s.presets := rfl
@[simp] theorem State.modGen_store (f : Gen → Gen) (s : State) : (s.modGen f).store = s.store := rfl
@[simp] theorem State.modGen_resv (f : Gen → Gen) (s : State) : (s.modGen f).resv = s.resv := rfl
@[simp] theorem State.modGen_idx (f : Gen → Gen) (s : State) : (s.modGen f).idx = s.idx := rfl
@[simp] theorem State.modGen_media (f : Gen → Gen) (s : State) : (s.modGen f).media = s.media := rfl
@[simp] theorem State.modGen_cad (f : Gen → Gen) (s : State) : (s.modGen f).cad = s.cad := rfl
@[simp] theorem State.modGen_pwr (f : Gen → Gen) (s : State) : (s.modGen f).pwr = s.pwr := rfl
@[simp] theorem State.modGen_cis (f : Gen → Gen) (s : State) : (s.modGen f).cis = s.cis := rfl
@[simp] theorem State.modGen_clus (f : Gen → Gen) (s : State) : (s.modGen f).clus = s.clus := rfl
@[simp] theorem State.modGen_sigs (f : Gen → Gen) (s : State) : (s.modGen f).sigs = s.sigs := rfl
@[simp] theorem State.modGen_lnk (f : Gen → Gen) (s : State) : (s.modGen f).lnk = s.lnk := rfl
@[simp] theorem State.modGen_boot (f : Gen → Gen) (s : State) : (s.modGen f).boot = s.boot := rfl
@[simp] theorem State.modGen_sec (f : Gen → Gen) (s : State) : (s.modGen f).sec = s.sec := rfl
@[simp] theorem State.modGen_gen (f : Gen → Gen) (s : State) : (s.modGen f).gen = f s.gen := rfl

end Sys2Proof.Machine
end

