-- ==== Sys2Proof/Laws/Settle.lean ====
section
/-! SUPPORT. What follows from a change when nothing waits: nothing. -/

namespace Sys2Proof.Machine

/-- In a state without commands in flight no command is found. -/
theorem find_flights {s : State} (h : s.nvm.flights = []) (p : Flight → Bool) : s.nvm.flights.find? p = none := by
  rw [h]
  rfl

theorem foldl_id {α β : Type} {f : β → α → β} {b : β} (l : List α) (hf : ∀ a ∈ l, f b a = b) : l.foldl f b = b := by
  induction l with
  | nil => rfl
  | cons a l ih =>
    rw [List.foldl_cons, hf a List.mem_cons_self]
    exact ih fun x hx => hf x (List.mem_cons_of_mem _ hx)

/-- The partition that is read is quiet, the one past the end too. -/
theorem State.still.part {s : State} (h : s.still) (p : Nat) : (s.part p).quiet := by
  unfold State.part
  rw [List.getD_eq_getElem?_getD]
  cases hx : s.parts[p]? with
  | some x => exact h.parts x (List.mem_of_getElem? hx)
  | none => exact .inr ⟨by decide, rfl⟩

/-- Queues that are all empty hold no job. -/
theorem queues_nil {l : List (List Job)} (h : ∀ q ∈ l, q = []) : l.flatMap id = [] := by
  rw [List.flatMap_eq_nil_iff]
  exact h

theorem queue_nil {l : List (List Job)} (h : ∀ q ∈ l, q = []) (i : Nat) : l.getD i [] = [] := by
  rw [List.getD_eq_getElem?_getD]
  cases hx : l[i]? with
  | some q => exact h q (List.mem_of_getElem? hx)
  | none => rfl

theorem roundRobin_nil {s : State} {p : Nat} (h : ∀ q ∈ (s.part p).queues, q = []) : (roundRobin s p).found = none := by
  have hh : ∀ q, s.headOf p q = none := by
    intro q
    unfold State.headOf
    rw [queue_nil h q]
    rfl
  unfold roundRobin
  dsimp only
  rw [if_pos]
  rw [List.isEmpty_iff, List.filter_eq_nil_iff]
  intro q _
  rw [hh q]
  decide

theorem nextJob_nil {s : State} {p : Nat} (h : ∀ q ∈ (s.part p).queues, q = []) : nextJob p s = (s, none) := by
  have hd : deadlineJob s p = none := by
    unfold deadlineJob
    rw [queues_nil h]
    rfl
  unfold nextJob
  rw [hd]
  dsimp only
  rw [roundRobin_nil h]

theorem trySelect_quiet {s : State} {p : Nat} (h : (s.part p).quiet) (n : Nat) : trySelect p (n + 1) s = s := by
  unfold trySelect
  rcases h with h | ⟨hq, hs⟩
  · rw [h]
    rfl
  · split
    · rfl
    · split
      · unfold refuseDeadlines
        rw [queues_nil hq, hs]
        rfl
      · rw [hs]
        have : selectJob p (selBound s p) s = (s, none) := by
          unfold selBound
          rw [queues_nil hq]
          show selectJob p 2 s = (s, none)
          unfold selectJob
          rw [nextJob_nil hq]
        dsimp only
        rw [this]

theorem kickAll_still {s : State} (h : s.still) : kickAll s = s := by
  unfold kickAll
  refine foldl_id _ fun p _ => ?_
  split
  · unfold kick
    split
    · rfl
    · exact trySelect_quiet (h.part p) _
  · rfl

theorem waitingEntries_nil {s : State} (h : ∀ q ∈ s.nvm.sqs, q.unfetched = []) : s.waitingEntries = 0 := by
  unfold State.waitingEntries
  have : s.nvm.sqs.map (fun q => q.unfetched.length) = s.nvm.sqs.map fun _ => 0 :=
    List.map_congr_left fun q hq => by rw [h q hq]; rfl
  rw [this]
  unfold sumOf
  induction s.nvm.sqs with
  | nil => rfl
  | cons q l ih => simpa using ih

theorem publishStep_still {s : State} (h : s.still) : publishStep s = s := by
  unfold publishStep
  rw [List.filter_eq_nil_iff.2]
  · rfl
  · intro i hi
    rw [h.waiting i hi]
    simp

theorem markDone_still {s : State} (h : s.still) : markDone s = s := by
  unfold markDone
  rw [if_pos]
  rw [List.all_eq_true]
  intro i hi
  rw [List.all_eq_true]
  exact h.pend i hi

theorem bindStep_still {s : State} (h : s.still) : bindStep s = s := by
  unfold bindStep
  rw [h.bind]
  rfl

/-- A round of `settle` up to the fetch. -/
def settleRound (s : State) : State :=
  bindStep (markDone (kickAll (postWrites (publishStep (abortStep (sqStep (nsStep (dropStep (serialStep (escalateNow s))))))))))

theorem settleLoop_succ (n : Nat) (s : State) :
    settleLoop (n + 1) s =
      if (fetchLoop (settleRound s).waitingEntries (settleRound s)).progress == s.progress
      then fetchLoop (settleRound s).waitingEntries (settleRound s)
      else settleLoop n (fetchLoop (settleRound s).waitingEntries (settleRound s)) := by
  rw [settleLoop]
  unfold settleRound
  dsimp only

/-- A round does nothing up to the fetch when nothing waits and no command is in flight. -/
theorem settleRound_still {s : State} (h : s.still) (hf : s.nvm.flights = []) : settleRound s = s := by
  have he : escalateNow s = s := by
    unfold escalateNow
    rw [h.escalate]
    rfl
  have hser : serialStep s = s := by
    have hn : nextSerial s = none := by
      unfold nextSerial
      rw [find_flights hf]
      exact ite_self _
    unfold serialStep
    rw [hn]
  have hdrop : dropStep s = s := by
    unfold dropStep readyDrop
    rw [find_flights hf]
  have hns : nsStep s = s := by
    unfold nsStep readyNsEnd
    rw [find_flights hf]
  have hsq : sqStep s = s := by
    unfold sqStep
    rw [find_flights hf]
  have hab : abortStep s = s := by
    unfold abortStep
    rw [find_flights hf]
  have hpw : postWrites s = s := by
    unfold postWrites
    rw [hf]
    rfl
  unfold settleRound
  rw [he, hser, hdrop, hns, hsq, hab, publishStep_still h, hpw, kickAll_still h, markDone_still h, bindStep_still h]

theorem settleLoop_quiet {s : State} (h : s.quiet) (n : Nat) : settleLoop n s = s := by
  cases n with
  | zero => rfl
  | succ n =>
    rw [settleLoop_succ, settleRound_still h.tostill h.flights, waitingEntries_nil h.sqs]
    exact if_pos (beq_self_eq_true _)

/-- Nothing follows from a quiet state. -/
theorem settle_quiet {s : State} (h : s.quiet) : settle s = s := settleLoop_quiet h _

end Sys2Proof.Machine
end

