-- ==== Sys2Proof/Laws/Fetch.lean ====
section
/-! SUPPORT. A command that the host submits while nothing else waits: it is fetched, entered in the audit, and routed. -/

namespace Sys2Proof.Machine

theorem foldl_add (l : List Nat) (a : Nat) : l.foldl (· + ·) a = a + l.foldl (· + ·) 0 := by
  induction l generalizing a with
  | nil => rfl
  | cons b l ih =>
    rw [List.foldl_cons, List.foldl_cons, ih, ih (0 + b)]
    omega

theorem sumOf_cons (a : Nat) (l : List Nat) : sumOf (a :: l) = a + sumOf l := by
  unfold sumOf
  rw [List.foldl_cons, foldl_add, Nat.zero_add]

theorem sumOf_ite {α : Type} (p : α → Bool) (l : List α) : sumOf (l.map fun x => if p x then 1 else 0) = (l.filter p).length := by
  induction l with
  | nil => rfl
  | cons a l ih =>
    rw [List.map_cons, sumOf_cons, ih, List.filter_cons]
    cases p a with
    | true => exact Nat.add_comm _ _
    | false => exact Nat.zero_add _

variable {s : State} {q : Sq} {k : Cq}

/-- The queue that takes the entry is the only one with its identifier. -/
theorem State.takes.only (h : s.takes q k) : ∀ x ∈ s.nvm.sqs, x.id = q.id → x = q := by
  intro x hx hi
  have : x ∈ s.nvm.sqs.filter fun x => x.id == q.id := List.mem_filter.2 ⟨hx, by rw [hi]; exact beq_self_eq_true _⟩
  rw [h.sq] at this
  exact List.mem_singleton.1 this

theorem State.takes.find (h : s.takes q k) : s.nvm.sqs.find? (fun x => x.id == q.id) = some q := by
  have := List.head?_filter (p := fun x : Sq => x.id == q.id) (l := s.nvm.sqs)
  rw [← this, h.sq]
  rfl

theorem State.takes.findCq (h : s.takes q k) : s.nvm.cqs.find? (fun x => x.id == q.cqid) = some k := by
  have := List.head?_filter (p := fun x : Cq => x.id == q.cqid) (l := s.nvm.cqs)
  rw [← this, h.cq]
  rfl

/-- The state with one entry put into the queue `q`. -/
def State.loaded (s : State) (q : Sq) (e : Sqe) : State :=
  s.modNvm fun n => { n with
    sqs := n.sqs.map fun x => if x.id == q.id then { x with unfetched := [e], tail := (x.tail + 1) % x.size } else x }

theorem submit_eq (h : s.takes q k) (opc : BitVec 8) (c : Cmd) :
    submit opc { c with sqid := q.id } s = s.loaded q ⟨opc, { c with sqid := q.id }⟩ := by
  have hd : s.deleting q.id = false := by
    unfold State.deleting
    rw [h.flights]
    rfl
  unfold submit enqueue State.loaded State.modNvm
  have hs : (s.nvm.sqs.map fun x => if x.id == q.id && decide (x.unfetched.length + 1 < x.size) && !s.deleting x.id then
        { x with unfetched := x.unfetched ++ [⟨opc, { c with sqid := q.id }⟩], tail := (x.tail + 1) % x.size } else x) =
      s.nvm.sqs.map fun x => if x.id == q.id then
        { x with unfetched := [⟨opc, { c with sqid := q.id }⟩], tail := (x.tail + 1) % x.size } else x := by
    refine List.map_congr_left fun x hx => ?_
    by_cases hi : x.id = q.id
    · have := h.only x hx hi
      subst this
      rw [h.sqs x hx, hd]
      simp [h.size]
    · simp [hi]
  dsimp only
  rw [hs]

theorem loaded_waiting (h : s.takes q k) (e : Sqe) : (s.loaded q e).waitingEntries = 1 := by
  unfold State.waitingEntries State.loaded State.modNvm
  dsimp only
  rw [List.map_map]
  have : (s.nvm.sqs.map ((fun q : Sq => q.unfetched.length) ∘ fun x =>
      if x.id == q.id then { x with unfetched := [e], tail := (x.tail + 1) % x.size } else x)) =
      s.nvm.sqs.map fun x => if x.id == q.id then 1 else 0 := by
    refine List.map_congr_left fun x hx => ?_
    dsimp only [Function.comp]
    split
    · rfl
    · rw [h.sqs x hx]
      rfl
  rw [this, sumOf_ite (fun x : Sq => x.id == q.id), h.sq]
  rfl

theorem turn_one (last burst limit i : Nat) : turn last burst limit [i] = some i := by
  have hl : sortDedup [i] = [i] := rfl
  unfold turn
  rw [hl]
  dsimp only
  split
  · next hc =>
    have : last = i := by simpa using (Bool.and_eq_true_iff.1 hc).1
    rw [this]
  · by_cases h : last < i
    · simp [h]
    · simp [h]

theorem weight_pos (s : State) (i : Nat) : s.weight i ≠ 0 := by
  unfold State.weight
  dsimp only
  split
  · omega
  · split <;> omega

/-- The queue is picked whatever the arbitration is. -/
theorem pick_loaded (h : s.takes q k) (e : Sqe) : ∃ cr, pickQueue (s.loaded q e) = some (q.id, cr) := by
  have hq : (s.loaded q e).nvm.sqs.filter (s.loaded q e).canFetch = [{ q with unfetched := [e], tail := (q.tail + 1) % q.size }] := by
    have hc : ∀ x ∈ s.nvm.sqs, ((s.loaded q e).canFetch ∘ fun x : Sq => if x.id == q.id then
        { x with unfetched := [e], tail := (x.tail + 1) % x.size } else x) x = (x.id == q.id) := by
      intro x hx
      unfold State.canFetch State.adminFlights State.ioFlights State.loaded State.modNvm
      dsimp only [Function.comp]
      rw [h.flights]
      by_cases hi : x.id = q.id
      · simp [hi]
      · simp [hi, h.sqs x hx]
    show ((s.nvm.sqs.map fun x => if x.id == q.id then
        { x with unfetched := [e], tail := (x.tail + 1) % x.size } else x).filter _) = _
    rw [List.filter_map, List.filter_congr hc, h.sq]
    simp
  unfold pickQueue
  rw [hq]
  simp only [List.map_cons, List.map_nil, turn_one, List.any_cons, List.any_nil, List.filter_cons, List.filter_nil, Option.map_some,
    Bool.or_false, ne_eq]
  split
  · exact ⟨_, rfl⟩
  · by_cases h0 : q.id = 0
    · simp [h0]
    · have hp := h.prio
      have : q.prio = 0 ∨ q.prio = 1 ∨ q.prio = 2 ∨ q.prio = 3 := by omega
      have hw := weight_pos (s.loaded q e)
      rcases this with hq | hq | hq | hq
      · simp [h0, hq, turn_one]
      · by_cases hc : (s.loaded q e).nvm.credits[0]?.getD 0 = 0 <;> simp [h0, hq, classTurn, turn_one, hw, hc]
      · by_cases hc : (s.loaded q e).nvm.credits[1]?.getD 0 = 0 <;> simp [h0, hq, classTurn, turn_one, hw, hc]
      · by_cases hc : (s.loaded q e).nvm.credits[2]?.getD 0 = 0 <;> simp [h0, hq, classTurn, turn_one, hw, hc]

/-- The state with the command fetched and entered, its effect still to come. -/
def State.entered (s : State) (q : Sq) (opc : BitVec 8) (c : Cmd) (cr : List Nat) : State :=
  s.modNvm fun n => { n with
    sqs := n.sqs.map fun x => if x.id == q.id then x.moved else x
    burst := n.burst.set (s.classOf q) (if n.rrLast.getD (s.classOf q) 0 == q.id then n.burst.getD (s.classOf q) 0 + 1 else 1)
    rrLast := n.rrLast.set (s.classOf q) q.id
    credits := cr
    flights := [entryOf q opc c s]
    orders := n.orders + 1 }

theorem closings_mgmt (f : Flight) (s : State) : (closings f s).mgmt = s.mgmt := by
  unfold closings
  split
  · rfl
  · split
    · unfold closeNs
      repeat' first
        | rfl
        | split
    · rfl

theorem sanitizeBars_none (h : s.mgmt.sanitize = none) (sqid opc : Nat) : s.sanitizeBars sqid opc = false := by
  unfold State.sanitizeBars
  rw [h]
  rfl

theorem asFetched_open {order : Nat} (h : s.closedAfter order = false) (f : State → State) : asFetched order f s = f s := by
  unfold asFetched
  rw [h]
  rfl

/-- Nothing has been closed by a command that was fetched later. -/
theorem State.closedAfter_false {order : Nat} (hn : ∀ n ∈ s.nss, ∀ o, n.gone = some o → o ≤ order)
    (hi : ∀ i ∈ s.idx, ∀ o, i.dropping = some o → o ≤ order) : s.closedAfter order = false := by
  have hc : ∀ g : Option Nat, (∀ o, g = some o → o ≤ order) → closedLater order g = false := by
    intro g hg
    cases g with
    | none => rfl
    | some o =>
      have := hg o rfl
      simpa [closedLater] using this
  unfold State.closedAfter
  rw [Bool.or_eq_false_iff, List.any_eq_false, List.any_eq_false]
  exact ⟨fun n h => by rw [hc _ (hn n h)]; exact Bool.noConfusion, fun i h => by rw [hc _ (hi i h)]; exact Bool.noConfusion⟩

/-- What a fetch closes is not closed to the command that was fetched. -/
theorem closings_closed (f : Flight) (hn : ∀ n ∈ s.nss, ∀ o, n.gone = some o → o ≤ f.order)
    (hi : ∀ i ∈ s.idx, ∀ o, i.dropping = some o → o ≤ f.order) : (closings f s).closedAfter f.order = false := by
  unfold closings
  split
  · refine State.closedAfter_false hn fun i h o ho => ?_
    obtain ⟨x, hx, rfl⟩ := List.mem_map.1 h
    split at ho
    · cases ho
      exact Nat.le_refl _
    · exact hi x hx o ho
  · split
    · refine State.closedAfter_false (fun n h o ho => ?_) hi
      obtain ⟨x, hx, rfl⟩ := List.mem_map.1 h
      split at ho
      · cases ho
        exact Nat.le_refl _
      · exact hn x hx o ho
    · exact State.closedAfter_false hn hi

/-- A fetch that nothing refuses or holds. -/
theorem fetched_route {sqid : Nat} {e : Sqe} {s t : State} {f : Flight} (hn : s.flight? sqid e.cmd.cid = none)
    (hf : f = ⟨sqid, e.cmd.cid, e.opc, { e.cmd with sqid := sqid }, s.nvm.orders, s.now, s.now + 10000000, .waiting, none⟩)
    (ht : t = s.modNvm fun n => { n with
      flights := n.flights ++ [f]
      orders := n.orders + 1 })
    (hp : t.boot.phase = .ready) (hs : t.mgmt.sanitize = none) (hfl : sqid ≠ 0 ∨ e.cmd.flags = 0)
    (hg : ∀ n ∈ t.nss, n.gone = none) (he : t.mgmt.entry = none) (hps : t.mgmt.ps ≤ 2) :
    fetched sqid e s = route f (closings f t) := by
  have hgone : namesClosed sqid e.opc.toNat { e.cmd with sqid := sqid } t = false := by
    unfold namesClosed
    rw [Bool.and_eq_false_iff]
    refine .inr ?_
    rw [List.any_eq_false]
    intro n hn
    rw [hg n hn]
    simp
  have hflags : (sqid == 0 && e.cmd.flags != 0) = false := by
    rcases hfl with h | h
    · simp [h]
    · simp [h]
  unfold fetched
  dsimp only
  rw [hn, ← hf, ← ht, hp, sanitizeBars_none hs, hflags, hgone, closings_mgmt, he]
  have : ¬ 3 ≤ t.mgmt.ps := by omega
  simp [this]

/-- The command that is submitted is fetched and routed; an Index Drop and the end of a namespace close their object first. -/
theorem fetchOne_loaded (h : s.takes q k) (opc : BitVec 8) (c : Cmd) (hf : q.id ≠ 0 ∨ c.flags = 0) :
    ∃ cr, fetchOne (s.loaded q ⟨opc, { c with sqid := q.id }⟩) =
      some (route (entryOf q opc c s) (closings (entryOf q opc c s) (s.entered q opc c cr))) := by
  obtain ⟨cr, hp⟩ := pick_loaded h ⟨opc, { c with sqid := q.id }⟩
  refine ⟨cr, ?_⟩
  have hft : (s.loaded q ⟨opc, { c with sqid := q.id }⟩).fetching = true := by
    unfold State.fetching State.loaded State.modNvm
    dsimp only
    rw [h.en, h.rdy, h.phase]
    rfl
  have hfind : (s.loaded q ⟨opc, { c with sqid := q.id }⟩).nvm.sqs.find? (fun x => x.id == q.id) =
      some { q with unfetched := [⟨opc, { c with sqid := q.id }⟩], tail := (q.tail + 1) % q.size } := by
    show (s.nvm.sqs.map _).find? _ = _
    rw [List.find?_map]
    have : ((fun x : Sq => x.id == q.id) ∘ fun x : Sq => if x.id == q.id then
        { x with unfetched := [⟨opc, { c with sqid := q.id }⟩], tail := (x.tail + 1) % x.size } else x) = fun x : Sq => x.id == q.id := by
      funext x
      dsimp only [Function.comp]
      split <;> rfl
    rw [this, h.find]
    simp
  unfold fetchOne
  rw [hft, hp]
  dsimp only [Bool.not_true]
  rw [hfind]
  dsimp only
  have hm : (s.nvm.sqs.map fun x => if x.id == q.id then
        { x with unfetched := [⟨opc, { c with sqid := q.id }⟩], tail := (x.tail + 1) % x.size } else x).map
        (fun x => if x.id == q.id then { x with unfetched := [], head := (x.head + 1) % x.size } else x) =
      s.nvm.sqs.map fun x => if x.id == q.id then x.moved else x := by
    rw [List.map_map]
    refine List.map_congr_left fun x hx => ?_
    dsimp only [Function.comp, Sq.moved]
    by_cases hi : x.id = q.id
    · simp [hi, h.sqs x hx]
    · simp [hi]
  rw [if_neg (by decide)]
  congr 1
  refine fetched_route (find_flights h.flights _) rfl ?_ h.phase h.sanitize hf h.gone h.entry h.ps
  unfold State.entered State.loaded State.modNvm
  dsimp only
  rw [hm, h.flights]
  rfl

/-- An admin command that nothing bars and whose reserved dwords are zero runs. -/
theorem adminTurn_runs {f : Flight} (hs : s.mgmt.sanitize = none) (hc : s.closedAfter f.order = false)
    (hr : reservedHead f.opc.toNat f.cmd = none) : adminTurn f s = runAdmin f.opc.toNat f.cmd s := by
  unfold adminTurn
  dsimp only
  rw [sanitizeBars_none hs, if_neg Bool.noConfusion, hr]
  exact asFetched_open hc _

/-- A command that begins its effect as it is routed: an I/O command, a concurrent admin command. -/
theorem route_now {f : Flight} {s : State} (hf : f.phase = .waiting) (hs : s.nvm.flights = [f]) (hz : s.mgmt.sanitize = none)
    (hc : s.closedAfter f.order = false) (hr : f.sqid ≠ 0 ∨ reservedHead f.opc.toNat f.cmd = none) :
    route f s = if f.sqid != 0 then runIo f.opc.toNat f.cmd s
      else if startsEntry f.sqid f.opc.toNat f.cmd then effSetFeatures f.cmd s
      else if isSerial f.opc.toNat then s
      else runAdmin f.opc.toNat f.cmd s := by
  have : setPhase f.sqid f.cid .waiting s = s := by
    unfold setPhase modFlight State.modNvm
    have : s.nvm.flights.map (fun g => if g.is f.sqid f.cid then { g with phase := .waiting } else g) = s.nvm.flights := by
      rw [hs]
      rw [List.map_cons, List.map_nil]
      split
      · rw [← hf]
      · rfl
    dsimp only
    rw [this]
  unfold route
  dsimp only
  rw [this]
  by_cases hq : (f.sqid != 0) = true
  · rw [if_pos hq, if_pos hq, sanitizeBars_none hz, if_neg Bool.noConfusion, asFetched_open hc]
  · rw [if_neg hq, if_neg hq, adminTurn_runs hz hc (hr.resolve_left (by simpa using hq))]

theorem closings_flights (f : Flight) (s : State) : (closings f s).nvm = s.nvm := by
  unfold closings
  split
  · rfl
  · split
    · unfold closeNs
      repeat' first
        | rfl
        | split
    · rfl

/-- The state in which a submitted command begins, and what it makes of it. -/
def State.begun (s : State) (q : Sq) (opc : BitVec 8) (c : Cmd) (cr : List Nat) : State :=
  closings (entryOf q opc c s) (s.entered q opc c cr)

/-- A command that is taken finds nothing closed after it. -/
theorem State.takes.closed (h : s.takes q k) (opc : BitVec 8) (c : Cmd) (cr : List Nat) :
    (s.begun q opc c cr).closedAfter (entryOf q opc c s).order = false :=
  closings_closed (s := s.entered q opc c cr) (entryOf q opc c s)
    (fun n hn o ho => by rw [h.gone n hn] at ho; cases ho)
    (fun i hi o ho => Nat.le_of_lt (h.drops i hi o ho))

/-- A submitted command: what `settle` makes of it, with the first round done. -/
theorem settle_submit (h : s.takes q k) (opc : BitVec 8) (c : Cmd) (hf : q.id ≠ 0 ∨ c.flags = 0)
    (hh : q.id ≠ 0 ∨ reservedHead opc.toNat c = none) :
    ∃ cr, ∀ r, r = (if q.id != 0 then runIo opc.toNat { c with sqid := q.id } (s.begun q opc c cr)
        else if startsEntry q.id opc.toNat { c with sqid := q.id } then effSetFeatures { c with sqid := q.id } (s.begun q opc c cr)
        else if isSerial opc.toNat then s.begun q opc c cr
        else runAdmin opc.toNat { c with sqid := q.id } (s.begun q opc c cr)) →
      settle (submit opc { c with sqid := q.id } s) = if r.progress == s.progress then r else settleLoop 4 r := by
  obtain ⟨cr, hfo⟩ := fetchOne_loaded h opc c hf
  refine ⟨cr, fun r hr => ?_⟩
  have hl : (s.loaded q ⟨opc, { c with sqid := q.id }⟩).still := ⟨h.escalate, h.waiting, h.pend, h.bind, h.parts⟩
  have hroute : route (entryOf q opc c s) (closings (entryOf q opc c s) (s.entered q opc c cr)) = r := by
    rw [hr]
    exact route_now rfl (by rw [closings_flights]; rfl) (by rw [closings_mgmt]; exact h.sanitize) (h.closed opc c cr) hh
  unfold settle
  rw [submit_eq h, loaded_waiting h]
  have hlen : 2 * (s.loaded q ⟨opc, { c with sqid := q.id }⟩).nvm.flights.length + 1 + 4 = 4 + 1 := by
    show 2 * s.nvm.flights.length + 1 + 4 = 5
    rw [h.flights]
    rfl
  rw [hlen, settleLoop_succ, settleRound_still hl h.flights, loaded_waiting h]
  have hloop : fetchLoop 1 (s.loaded q ⟨opc, { c with sqid := q.id }⟩) = r := by
    unfold fetchLoop
    rw [hfo]
    dsimp only
    unfold fetchLoop
    exact hroute
  rw [hloop]
  rfl

end Sys2Proof.Machine
end

