-- ==== Sys2Proof/Laws/Complete.lean ====
section
/-! SUPPORT. A submitted command that completes: what the sled posts, and that nothing follows. -/

namespace Sys2Proof.Machine

variable {s u : State} {q : Sq} {k : Cq}

/-- The state `u` with the command `f`, taken from the queue `q` in the state `s`, in flight, and `out` written to the host. -/
def State.flying (u s : State) (q : Sq) (f : Flight) (cr : List Nat) (ser : Option Nat) (out : List HostWrite) : State :=
  { u with
    nvm := { u.nvm with
      sqs := u.nvm.sqs.map fun x => if x.id == q.id then x.moved else x
      rrLast := s.nvm.rrLast.set (s.classOf q) q.id
      burst := s.nvm.burst.set (s.classOf q)
        (if s.nvm.rrLast.getD (s.classOf q) 0 == q.id then s.nvm.burst.getD (s.classOf q) 0 + 1 else 1)
      credits := cr
      flights := [f]
      orders := s.nvm.orders + 1
      serial := ser }
    hostWrites := s.hostWrites ++ out }

theorem entered_flying (opc : BitVec 8) (c : Cmd) (cr : List Nat) :
    s.entered q opc c cr = s.flying s q (entryOf q opc c s) cr s.nvm.serial [] := by
  unfold State.entered State.flying State.modNvm
  rw [List.append_nil]

theorem State.takes.lands (h : s.takes q k) : s.lands q k :=
  ⟨h.tostill, h.sqs, h.sq, h.cq, h.room, h.backlog⟩

theorem find_of_filter {α : Type} {l : List α} {p : α → Bool} {a : α} (h : l.filter p = [a]) : l.find? p = some a := by
  rw [← List.head?_filter, h]
  rfl

theorem cq_id (h : u.lands q k) : k.id = q.cqid := by
  have : k ∈ u.nvm.cqs.filter (fun x => x.id == q.cqid) := by rw [h.cq]; exact List.mem_singleton.2 rfl
  exact eq_of_beq (List.mem_filter.1 this).2

theorem find_moved (h : u.lands q k) :
    (u.nvm.sqs.map fun x => if x.id == q.id then x.moved else x).find? (fun x => x.id == q.id) = some q.moved := by
  rw [List.find?_map]
  have : ((fun x : Sq => x.id == q.id) ∘ fun x : Sq => if x.id == q.id then x.moved else x) = fun x : Sq => x.id == q.id := by
    funext x
    dsimp only [Function.comp]
    split <;> rfl
  rw [this, find_of_filter h.sq]
  simp

/-- A command in flight completes out of `u`. -/
theorem complete_flying (h : u.lands q k) {f : Flight} (hf : f.sqid = q.id) (hp : f.phase ≠ .ending) {cid : Nat} (hc : f.cid = cid)
    (cr : List Nat) (ser : Option Nat) (out : List HostWrite) (st : Status) (hst : st ≠ .cidConflict) (dw0 dw1 : Nat)
    (he : f.errRec = none) :
    ∃ t, complete q.id cid st dw0 dw1 (u.flying s q f cr ser out) = t ∧
      t = { u with
        nvm := u.nvm.withFront t.nvm
        hostWrites := s.hostWrites ++ out ++ completion k q.id ((q.head + 1) % q.size) cid st dw0 dw1 } ∧
      t.nvm.flights = [] ∧ t.nvm.orders = s.nvm.orders + 1 ∧
      t.nvm.sqs = (u.nvm.sqs.map fun x => if x.id == q.id then x.moved else x) ∧
      t.nvm.cqs = (u.nvm.cqs.map fun x => if x.id == k.id then { x with tail := (x.tail + 1) % x.size } else x) ∧
      t.nvm.errCount = u.nvm.errCount + (if st = .success then 0 else 1) ∧
      (st = .success → t.nvm.errLog = u.nvm.errLog) := by
  subst hc
  have hfl : (u.flying s q f cr ser out).flight? q.id f.cid = some f := by
    unfold State.flight? State.flying Flight.is
    simp [hf]
  have hsq := find_moved h
  have hcq := find_of_filter h.cq
  refine ⟨_, rfl, ?_⟩
  unfold complete
  rw [hfl]
  dsimp only
  rw [if_neg (by simpa using hp)]
  unfold completeFlight
  have e1 : (u.flying s q f cr ser out).nvm.sqs.find? (fun x => x.id == f.sqid) = some q.moved := by rw [hf]; exact hsq
  dsimp only
  rw [e1]
  dsimp only
  unfold post
  by_cases hs : st = .success
  · rw [if_pos (by rw [hs]; rfl)]
    have e2 : (u.flying s q f cr ser out).nvm.cqs.find? (fun c => c.id == q.moved.cqid) = some k := hcq
    rw [e2]
    dsimp only
    rw [if_neg (by simp [h.room, h.backlog])]
    unfold postNow State.flying State.modNvm State.modHostWrites completion Nvm.withFront Sq.moved Flight.is
    subst hs
    simp [hf, hst]
  · rw [if_neg (by simpa using hs)]
    have e2 : (addErrInfo f.sqid f.cid st f.cmd.nsid f.errRec (u.flying s q f cr ser out)).nvm.cqs.find?
        (fun c => c.id == q.moved.cqid) = some k := hcq
    rw [e2]
    dsimp only
    rw [if_neg (by simp [h.room, h.backlog])]
    unfold postNow addErrInfo State.flying State.modNvm State.modHostWrites completion Nvm.withFront Sq.moved Flight.is
    simp [hf, hst, hs, he]

/-- What is left of `u` when its command has completed is quiet. -/
theorem lands_quiet (h : u.lands q k) {t : State} {hw : List HostWrite}
    (ht : t = { u with nvm := u.nvm.withFront t.nvm, hostWrites := hw }) (hf : t.nvm.flights = [])
    (hs : t.nvm.sqs = u.nvm.sqs.map fun x => if x.id == q.id then x.moved else x) : t.quiet := by
  have e1 : t.escalate = u.escalate := by rw [ht]
  have e2 : t.idx = u.idx := by rw [ht]
  have e3 : t.lnk = u.lnk := by rw [ht]
  have e4 : t.parts = u.parts := by rw [ht]
  refine ⟨⟨by rw [e1]; exact h.escalate, by rw [e2]; exact h.waiting, by rw [e2]; exact h.pend, by rw [e3]; exact h.bind,
    by rw [e4]; exact h.parts⟩, hf, ?_⟩
  rw [hs]
  intro x hx
  obtain ⟨y, hy, rfl⟩ := List.mem_map.1 hx
  split
  · exact h.sqs y hy
  · exact h.sqs y hy

theorem settleLoop_to {t : State} (h : t.quiet) (n : Nat) : settleLoop n t = t := settleLoop_quiet h n

/-- A command that begins as it is fetched, and completes. -/
theorem completes_now (h : s.takes q k) {opc : BitVec 8} {c : Cmd} (hf : q.id ≠ 0 ∨ c.flags = 0)
    (hh : q.id ≠ 0 ∨ reservedHead opc.toNat c = none) (hu : u.lands q k)
    {st : Status} (hst : st ≠ .cidConflict) {dw0 dw1 : Nat} {out : List HostWrite}
    (hr : ∀ cr, (if q.id != 0 then runIo opc.toNat { c with sqid := q.id } (s.begun q opc c cr)
        else if startsEntry q.id opc.toNat { c with sqid := q.id } then effSetFeatures { c with sqid := q.id } (s.begun q opc c cr)
        else if isSerial opc.toNat then s.begun q opc c cr
        else runAdmin opc.toNat { c with sqid := q.id } (s.begun q opc c cr)) =
      complete q.id c.cid st dw0 dw1 (u.flying s q (entryOf q opc c s) cr s.nvm.serial out)) :
    Completes (answer (submit opc { c with sqid := q.id } s)) s q k c.cid st dw0 dw1 out u := by
  obtain ⟨cr, hset⟩ := settle_submit h opc c hf hh
  have hs := hset _ rfl
  rw [hr cr] at hs
  obtain ⟨t, ht, he, hfl, ho, hsq, hcq, hc, hl⟩ := complete_flying (s := s) hu (f := entryOf q opc c s) rfl Phase.noConfusion (cid := c.cid) rfl cr
    s.nvm.serial out st hst dw0 dw1 rfl
  rw [ht, settleLoop_quiet (lands_quiet hu he hfl hsq), ite_self] at hs
  exact ⟨t, by unfold answer; rw [hs], he, hfl, ho, hsq, hcq, hc, hl⟩

/-- The round in which a serial command runs. -/
theorem settleRound_serial {b r : State} (e : serialStep (escalateNow b) = r) (hq : r.quiet) : settleRound b = r := by
  have e' : serialStep (escalateNow r) = r := by
    have : escalateNow r = r := by
      unfold escalateNow
      rw [hq.escalate]
      rfl
    rw [this]
    unfold serialStep nextSerial
    rw [find_flights hq.flights]
    simp
  have := settleRound_still hq.tostill hq.flights
  unfold settleRound at this ⊢
  rw [e]
  rw [e'] at this
  exact this

theorem begun_progress (opc : BitVec 8) (c : Cmd) (cr : List Nat) : ((s.begun q opc c cr).progress == s.progress) = false := by
  have hnvm : (s.begun q opc c cr).nvm = (s.entered q opc c cr).nvm := closings_flights _ _
  unfold State.progress
  rw [hnvm]
  unfold State.entered State.modNvm
  simp

theorem begun_escalate (opc : BitVec 8) (c : Cmd) (cr : List Nat) : (s.begun q opc c cr).escalate = s.escalate := by
  unfold State.begun closings
  split
  · rfl
  · split
    · unfold closeNs
      repeat' first
        | rfl
        | split
    · rfl

/-- The serial command runs in the round after its fetch. -/
theorem serialStep_begun (h : s.takes q k) {opc : BitVec 8} {c : Cmd} (hq : q.id = 0) (hh : reservedHead opc.toNat c = none) (hser : isSerial opc.toNat = true) {cr : List Nat}
    {t : State}
    (hr : runAdmin opc.toNat { c with sqid := q.id } ((s.begun q opc c cr).modNvm fun n => { n with serial := some s.nvm.orders }) = t) :
    serialStep (escalateNow (s.begun q opc c cr)) = t := by
  have hnvm : (s.begun q opc c cr).nvm = (s.entered q opc c cr).nvm := closings_flights _ _
  have hb : nextSerial (s.entered q opc c cr) = [entryOf q opc c s].find? fun (f : Flight) =>
      f.sqid == 0 && isSerial f.opc.toNat && f.phase == Phase.waiting := by
    unfold nextSerial State.entered State.modNvm
    dsimp only
    refine if_neg ?_
    cases hk : s.nvm.serial with
    | none => exact Bool.noConfusion
    | some n =>
      have := h.serial n hk
      have hne : s.nvm.orders ≠ n := by omega
      simp [entryOf, hne]
  have hn : nextSerial (s.begun q opc c cr) = some (entryOf q opc c s) := by
    have : nextSerial (s.begun q opc c cr) = nextSerial (s.entered q opc c cr) := by
      unfold nextSerial
      rw [hnvm]
    rw [this, hb]
    simp [entryOf, hq, hser]
  have hesc : escalateNow (s.begun q opc c cr) = s.begun q opc c cr := by
    unfold escalateNow
    rw [begun_escalate, h.escalate]
    rfl
  rw [hesc]
  unfold serialStep
  rw [hn]
  dsimp only
  have hm : (s.begun q opc c cr).mgmt.sanitize = none :=
    (congrArg Mgmt.sanitize (closings_mgmt (entryOf q opc c s) (s.entered q opc c cr))).trans h.sanitize
  exact (adminTurn_runs (f := entryOf q opc c s) (s := (s.begun q opc c cr).modNvm fun n => { n with serial := some s.nvm.orders })
    hm (h.closed opc c cr) hh).trans hr

/-- A serial command, and its completion. -/
theorem completes_serial (h : s.takes q k) {opc : BitVec 8} {c : Cmd} (hq : q.id = 0) (hf : c.flags = 0)
    (hh : reservedHead opc.toNat c = none) (hu : u.lands q k)
    {st : Status} (hst : st ≠ .cidConflict) {dw0 dw1 : Nat} {out : List HostWrite} (hser : isSerial opc.toNat = true)
    (hen : startsEntry q.id opc.toNat { c with sqid := q.id } = false)
    (hr : ∀ cr, runAdmin opc.toNat { c with sqid := q.id } ((s.begun q opc c cr).modNvm fun n => { n with serial := some s.nvm.orders }) =
      complete q.id c.cid st dw0 dw1 (u.flying s q (entryOf q opc c s) cr (some s.nvm.orders) out)) :
    Completes (answer (submit opc { c with sqid := q.id } s)) s q k c.cid st dw0 dw1 out u := by
  obtain ⟨cr, hset⟩ := settle_submit h opc c (.inr hf) (.inr hh)
  have hs := hset (s.begun q opc c cr) (by rw [if_neg (by simp [hq]), hen, if_neg Bool.noConfusion, if_pos hser])
  obtain ⟨t, ht, he, hfl, ho, hsq, hcq, hc, hl⟩ := complete_flying (s := s) hu (f := entryOf q opc c s) rfl Phase.noConfusion (cid := c.cid) rfl cr
    (some s.nvm.orders) out st hst dw0 dw1 rfl
  have hquiet := lands_quiet hu he hfl hsq
  have hne : ((s.begun q opc c cr).progress == s.progress) = false := begun_progress opc c cr
  have hround := settleRound_serial (serialStep_begun h hq hh hser ((hr cr).trans ht)) hquiet
  rw [hne, if_neg Bool.noConfusion, settleLoop_succ 3, hround, waitingEntries_nil hquiet.sqs] at hs
  unfold fetchLoop at hs
  rw [settleLoop_quiet hquiet, ite_self] at hs
  exact ⟨t, by unfold answer; rw [hs], he, hfl, ho, hsq, hcq, hc, hl⟩

/-- A command in flight that nothing moves on: it has begun, and is none of those that `settle` ends. -/
structure Flight.rests (f : Flight) : Prop where
  phase : f.phase = .executing ∨ f.phase = .job
  drop : f.opc ≠ 0xF0 ∨ f.phase = .job
  ns : (f.sqid == 0 && endsNs f.opc.toNat f.cmd) = false
  sq : f.sqid ≠ 0 ∨ (f.opc ≠ 0x00 ∧ f.opc ≠ 0x08)
  write : f.sqid = 0 ∨ f.opc ≠ 0x01 ∨ f.phase = .job

theorem serialStep_rests {t : State} {f : Flight} (h : t.still) (hf : t.nvm.flights = [f]) (hr : f.rests) :
    serialStep (escalateNow t) = t := by
  have he : escalateNow t = t := by
    unfold escalateNow
    rw [h.escalate]
    rfl
  have hw : f.phase ≠ .waiting := by
    rcases hr.phase with e | e <;> rw [e] <;> exact Phase.noConfusion
  have hn : nextSerial t = none := by
    unfold nextSerial
    rw [hf]
    simp [hw]
  rw [he]
  unfold serialStep
  rw [hn]

/-- A round does nothing up to the fetch when the one command in flight rests. -/
theorem settleRound_rests {t : State} {f : Flight} (h : t.still) (hf : t.nvm.flights = [f]) (hr : f.rests) : settleRound t = t := by
  have hdrop : dropStep t = t := by
    have : readyDrop t = none := by
      unfold readyDrop
      rw [hf]
      rcases hr.drop with e | e
      · simp only [beq_false_of_ne e, Bool.false_and, List.find?_cons, List.find?_nil]
      · simp [e]
    unfold dropStep
    rw [this]
  have hns : nsStep t = t := by
    have : readyNsEnd t = none := by
      unfold readyNsEnd
      rw [hf]
      simp [hr.ns]
    unfold nsStep
    rw [this]
  have hsq : sqStep t = t := by
    unfold sqStep
    rw [hf]
    rcases hr.sq with e | e
    · simp [e]
    · simp only [beq_false_of_ne e.1, Bool.and_false, Bool.false_and, List.find?_cons, List.find?_nil]
  have hab : abortStep t = t := by
    unfold abortStep
    rw [hf]
    rcases hr.sq with e | e
    · simp [e]
    · simp only [beq_false_of_ne e.2, Bool.and_false, Bool.false_and, List.find?_cons, List.find?_nil]
  have hpw : postWrites t = t := by
    unfold postWrites
    rw [hf]
    rcases hr.write with e | e | e
    · simp [e]
    · simp only [beq_false_of_ne e, Bool.false_and, List.filter_cons, List.filter_nil, Bool.false_eq_true, if_false, List.foldl_nil]
    · simp [e]
  unfold settleRound
  rw [serialStep_rests h hf hr, hdrop, hns, hsq, hab, publishStep_still h, hpw, kickAll_still h, markDone_still h, bindStep_still h]

theorem settleLoop_rests {t : State} {f : Flight} (h : t.still) (hf : t.nvm.flights = [f]) (hr : f.rests)
    (hs : ∀ q ∈ t.nvm.sqs, q.unfetched = []) (n : Nat) : settleLoop n t = t := by
  cases n with
  | zero => rfl
  | succ n =>
    rw [settleLoop_succ, settleRound_rests h hf hr, waitingEntries_nil hs]
    exact if_pos (beq_self_eq_true _)

/-- A command that begins as it is fetched, and stays in flight. -/
theorem pends_now (h : s.takes q k) {opc : BitVec 8} {c : Cmd} (hf : q.id ≠ 0 ∨ c.flags = 0)
    (hh : q.id ≠ 0 ∨ reservedHead opc.toNat c = none) (hu : u.still)
    (hsq : ∀ x ∈ u.nvm.sqs, x.unfetched = []) {ph : Phase} {out : List HostWrite}
    (hrest : ((entryOf q opc c s).inPhase ph).rests)
    (hr : ∀ cr, (if q.id != 0 then runIo opc.toNat { c with sqid := q.id } (s.begun q opc c cr)
        else if startsEntry q.id opc.toNat { c with sqid := q.id } then effSetFeatures { c with sqid := q.id } (s.begun q opc c cr)
        else if isSerial opc.toNat then s.begun q opc c cr
        else runAdmin opc.toNat { c with sqid := q.id } (s.begun q opc c cr)) =
      u.flying s q ((entryOf q opc c s).inPhase ph) cr s.nvm.serial out) :
    Pends (answer (submit opc { c with sqid := q.id } s)) s q opc c ph out u := by
  obtain ⟨cr, hset⟩ := settle_submit h opc c hf hh
  have hs := hset _ rfl
  rw [hr cr] at hs
  have hstill : (u.flying s q ((entryOf q opc c s).inPhase ph) cr s.nvm.serial out).still :=
    ⟨hu.escalate, hu.waiting, hu.pend, hu.bind, hu.parts⟩
  have hun : ∀ x ∈ (u.flying s q ((entryOf q opc c s).inPhase ph) cr s.nvm.serial out).nvm.sqs, x.unfetched = [] := by
    intro x hx
    obtain ⟨y, hy, rfl⟩ := List.mem_map.1 hx
    split <;> exact hsq y hy
  rw [settleLoop_rests hstill rfl hrest hun, ite_self] at hs
  exact ⟨u.flying s q ((entryOf q opc c s).inPhase ph) cr s.nvm.serial out, by unfold answer; rw [hs], rfl, rfl, rfl, rfl, rfl, rfl, rfl⟩

/-- A serial command that stays in flight. -/
theorem pends_serial (h : s.takes q k) {opc : BitVec 8} {c : Cmd} (hq : q.id = 0) (hf : c.flags = 0)
    (hh : reservedHead opc.toNat c = none) (hu : u.still)
    (hsq : ∀ x ∈ u.nvm.sqs, x.unfetched = []) {ph : Phase} {out : List HostWrite} (hser : isSerial opc.toNat = true)
    (hen : startsEntry q.id opc.toNat { c with sqid := q.id } = false)
    (hrest : ((entryOf q opc c s).inPhase ph).rests)
    (hr : ∀ cr, runAdmin opc.toNat { c with sqid := q.id } ((s.begun q opc c cr).modNvm fun n => { n with serial := some s.nvm.orders }) =
      u.flying s q ((entryOf q opc c s).inPhase ph) cr (some s.nvm.orders) out) :
    Pends (answer (submit opc { c with sqid := q.id } s)) s q opc c ph out u := by
  obtain ⟨cr, hset⟩ := settle_submit h opc c (.inr hf) (.inr hh)
  have hs := hset (s.begun q opc c cr) (by rw [if_neg (by simp [hq]), hen, if_neg Bool.noConfusion, if_pos hser])
  have hstill : (u.flying s q ((entryOf q opc c s).inPhase ph) cr (some s.nvm.orders) out).still :=
    ⟨hu.escalate, hu.waiting, hu.pend, hu.bind, hu.parts⟩
  have hun : ∀ x ∈ (u.flying s q ((entryOf q opc c s).inPhase ph) cr (some s.nvm.orders) out).nvm.sqs, x.unfetched = [] := by
    intro x hx
    obtain ⟨y, hy, rfl⟩ := List.mem_map.1 hx
    split <;> exact hsq y hy
  have hne : ((s.begun q opc c cr).progress == s.progress) = false := begun_progress opc c cr
  have e := serialStep_begun h hq hh hser (hr cr)
  have e' : serialStep (escalateNow (u.flying s q ((entryOf q opc c s).inPhase ph) cr (some s.nvm.orders) out)) =
      u.flying s q ((entryOf q opc c s).inPhase ph) cr (some s.nvm.orders) out := serialStep_rests hstill rfl hrest
  have hround := settleRound_rests hstill rfl hrest
  have hround' : settleRound (s.begun q opc c cr) = u.flying s q ((entryOf q opc c s).inPhase ph) cr (some s.nvm.orders) out := by
    unfold settleRound at hround ⊢
    rw [e]
    rw [e'] at hround
    exact hround
  rw [hne, if_neg Bool.noConfusion, settleLoop_succ 3, hround', waitingEntries_nil hun] at hs
  unfold fetchLoop at hs
  rw [settleLoop_rests hstill rfl hrest hun, ite_self] at hs
  exact ⟨u.flying s q ((entryOf q opc c s).inPhase ph) cr (some s.nvm.orders) out, by unfold answer; rw [hs], rfl, rfl, rfl, rfl, rfl, rfl,
    rfl⟩

/-- A command whose fetch closes nothing begins as it was entered. -/
theorem begun_flying {opc : BitVec 8} {c : Cmd} (hc : q.id ≠ 0 ∨ (opc ≠ 0xF0 ∧ endsNs opc.toNat c = false)) (cr : List Nat) :
    s.begun q opc c cr = s.flying s q (entryOf q opc c s) cr s.nvm.serial [] := by
  rw [← entered_flying]
  unfold State.begun closings
  rcases hc with h | ⟨h, h'⟩
  · have : ((entryOf q opc c s).sqid == 0) = false := beq_false_of_ne h
    rw [this]
    rfl
  · have e : ((entryOf q opc c s).opc == 0xF0) = false := beq_false_of_ne h
    have e' : endsNs (entryOf q opc c s).opc.toNat (entryOf q opc c s).cmd = false := h'
    rw [e, e', Bool.and_false]
    rfl

/-- An admin command that completes as it runs. `eff` is its effect. -/
theorem admin_completes {c : Cmd} {opc : BitVec 8} (h : AdminTurn s q k c) (hu : u.lands q k) {eff : State → State}
    (he : runAdmin opc.toNat { c with sqid := 0 } = eff) (hen : startsEntry 0 opc.toNat { c with sqid := 0 } = false)
    (hc : opc ≠ 0xF0 ∧ endsNs opc.toNat c = false) (hh : reservedHead opc.toNat c = none) {st : Status} (hst : st ≠ .cidConflict) {dw0 dw1 : Nat} {out : List HostWrite}
    (hr : ∀ cr ser, eff (s.flying s q (entryOf q opc c s) cr ser []) =
      complete 0 c.cid st dw0 dw1 (u.flying s q (entryOf q opc c s) cr ser out)) :
    Completes (adminRow opc c s) s q k c.cid st dw0 dw1 out u := by
  obtain ⟨ht, hq, hf⟩ := h
  unfold adminRow
  rw [← hq]
  rw [← hq] at he hen hr
  by_cases hser : isSerial opc.toNat = true
  · refine completes_serial ht hq hf hh hu hst hser (by rw [hq] at hen ⊢; exact hen) fun cr => ?_
    rw [begun_flying (.inr hc)]
    have : ((s.flying s q (entryOf q opc c s) cr s.nvm.serial []).modNvm fun n => { n with serial := some s.nvm.orders }) =
        s.flying s q (entryOf q opc c s) cr (some s.nvm.orders) [] := rfl
    rw [this, he, hr]
  · refine completes_now ht (.inr hf) (.inr hh) hu hst fun cr => ?_
    rw [begun_flying (.inr hc), if_neg (by simp [hq]), hen, if_neg Bool.noConfusion, if_neg hser, he, hr]

/-- An admin command that begins, and stays in flight. -/
theorem admin_pends {c : Cmd} {opc : BitVec 8} (h : AdminTurn s q k c) (hu : u.still) (hsq : ∀ x ∈ u.nvm.sqs, x.unfetched = [])
    {eff : State → State} (he : runAdmin opc.toNat { c with sqid := 0 } = eff)
    (hen : startsEntry 0 opc.toNat { c with sqid := 0 } = false) (hc : opc ≠ 0xF0 ∧ endsNs opc.toNat c = false)
    (hh : reservedHead opc.toNat c = none) {ph : Phase}
    {out : List HostWrite} (hrest : ((entryOf q opc c s).inPhase ph).rests)
    (hr : ∀ cr ser, eff (s.flying s q (entryOf q opc c s) cr ser []) = u.flying s q ((entryOf q opc c s).inPhase ph) cr ser out) :
    Pends (adminRow opc c s) s q opc c ph out u := by
  obtain ⟨ht, hq, hf⟩ := h
  unfold adminRow
  rw [← hq]
  rw [← hq] at he hen
  by_cases hser : isSerial opc.toNat = true
  · refine pends_serial ht hq hf hh hu hsq hser (by rw [hq] at hen ⊢; exact hen) hrest fun cr => ?_
    rw [begun_flying (.inr hc)]
    have : ((s.flying s q (entryOf q opc c s) cr s.nvm.serial []).modNvm fun n => { n with serial := some s.nvm.orders }) =
        s.flying s q (entryOf q opc c s) cr (some s.nvm.orders) [] := rfl
    rw [this, he, hr]
  · refine pends_now ht (.inr hf) (.inr hh) hu hsq hrest fun cr => ?_
    rw [begun_flying (.inr hc), if_neg (by simp [hq]), hen, if_neg Bool.noConfusion, if_neg hser, he, hr]

/-- An I/O command that completes as it runs. -/
theorem io_completes {c : Cmd} {opc : BitVec 8} (h : IoTurn s q k c) (hu : u.lands q k) {eff : State → State}
    (he : runIo opc.toNat c = eff) {st : Status} (hst : st ≠ .cidConflict) {dw0 dw1 : Nat} {out : List HostWrite}
    (hr : ∀ cr, eff (s.flying s q (entryOf q opc c s) cr s.nvm.serial []) =
      complete q.id c.cid st dw0 dw1 (u.flying s q (entryOf q opc c s) cr s.nvm.serial out)) :
    Completes (ioRow opc c s) s q k c.cid st dw0 dw1 out u := by
  obtain ⟨ht, hq, hs⟩ := h
  have hc : { c with sqid := q.id } = c := by
    rw [← hs]
  unfold ioRow
  rw [if_neg (by rw [hs]; exact hq)]
  have := completes_now (opc := opc) (c := c) ht (.inl hq) (.inl hq) hu hst (dw0 := dw0) (dw1 := dw1) (out := out) fun cr => by
    rw [begun_flying (.inl hq), if_pos (by simpa using hq), hc, he, hr]
  rwa [hc] at this

/-- An I/O command that begins, and stays in flight. -/
theorem io_pends {c : Cmd} {opc : BitVec 8} (h : IoTurn s q k c) (hu : u.still) (hsq : ∀ x ∈ u.nvm.sqs, x.unfetched = [])
    {eff : State → State} (he : runIo opc.toNat c = eff) {ph : Phase}
    {out : List HostWrite} (hrest : ((entryOf q opc c s).inPhase ph).rests)
    (hr : ∀ cr, eff (s.flying s q (entryOf q opc c s) cr s.nvm.serial []) =
      u.flying s q ((entryOf q opc c s).inPhase ph) cr s.nvm.serial out) :
    Pends (ioRow opc c s) s q opc c ph out u := by
  obtain ⟨ht, hq, hs⟩ := h
  have hc : { c with sqid := q.id } = c := by
    rw [← hs]
  unfold ioRow
  rw [if_neg (by rw [hs]; exact hq)]
  have := pends_now (opc := opc) (c := c) ht (.inl hq) (.inl hq) hu hsq (out := out) hrest fun cr => by
    rw [begun_flying (.inl hq), if_pos (by simpa using hq), hc, he, hr]
  rwa [hc] at this

end Sys2Proof.Machine
end

