-- ==== Sys2Proof/Laws/Memory.lean ====
section
/-! SUPPORT. Sparse memories: every operation keeps the canonical form; what is read after a write. -/

namespace Sys2Proof.Machine.Mem

theorem wfFrom_mono {d : Byte} : ∀ {m : Mem} {lo lo' : Nat}, lo' ≤ lo → wfFrom d lo m = true → wfFrom d lo' m = true
  | [], _, _, _, _ => rfl
  | (k, b) :: m, lo, lo', h, hw => by
    simp only [wfFrom, Bool.and_eq_true, decide_eq_true_eq] at hw ⊢
    exact ⟨⟨by omega, hw.1.2⟩, hw.2⟩

/-- The cells of a canonical memory from `lo` on have addresses from `lo` on. -/
theorem le_of_wfFrom {d : Byte} : ∀ {m : Mem} {lo : Nat}, wfFrom d lo m = true → ∀ c ∈ m, lo ≤ c.1
  | (k, b) :: m, lo, hw, c, hc => by
    simp only [wfFrom, Bool.and_eq_true, decide_eq_true_eq] at hw
    rcases List.mem_cons.1 hc with rfl | hc
    · exact hw.1.1
    · have := le_of_wfFrom hw.2 c hc
      omega

theorem wfFrom_filter {d : Byte} (p : Host.Cell → Bool) :
    ∀ {m : Mem} {lo : Nat}, wfFrom d lo m = true → wfFrom d lo (m.filter p) = true
  | [], _, _ => rfl
  | (k, b) :: m, lo, hw => by
    simp only [wfFrom, Bool.and_eq_true, decide_eq_true_eq] at hw
    have ih := wfFrom_filter p hw.2
    by_cases hp : p (k, b) = true
    · simp only [List.filter_cons_of_pos hp, wfFrom, Bool.and_eq_true, decide_eq_true_eq]
      exact ⟨hw.1, ih⟩
    · rw [List.filter_cons_of_neg hp]
      exact wfFrom_mono (by omega) ih

theorem wf_filter {d : Byte} {m : Mem} (p : Host.Cell → Bool) (h : wf d m = true) : wf d (m.filter p) = true :=
  wfFrom_filter p h

theorem wfFrom_cells {d : Byte} : ∀ (bs : List Byte) (a : Nat), wfFrom d a (cells d a bs) = true
  | [], _ => rfl
  | b :: bs, a => by
    unfold cells
    split
    · exact wfFrom_mono (by omega) (wfFrom_cells bs (a + 1))
    · next hb =>
      simp only [wfFrom, Bool.and_eq_true, decide_eq_true_eq, bne_iff_ne, ne_eq]
      exact ⟨⟨Nat.le_refl a, hb⟩, wfFrom_cells bs (a + 1)⟩

theorem wf_cells {d : Byte} (bs : List Byte) (a : Nat) : wf d (cells d a bs) = true :=
  wfFrom_mono (Nat.zero_le a) (wfFrom_cells bs a)

theorem lt_of_cells {d : Byte} : ∀ (bs : List Byte) (a : Nat), ∀ c ∈ cells d a bs, c.1 < a + bs.length
  | [], _, _, hc => by simp [cells] at hc
  | b :: bs, a, c, hc => by
    unfold cells at hc
    split at hc
    · have := lt_of_cells bs (a + 1) c hc
      simp only [List.length_cons]
      omega
    · rcases List.mem_cons.1 hc with rfl | hc
      · simp only [List.length_cons]
        omega
      · have := lt_of_cells bs (a + 1) c hc
        simp only [List.length_cons]
        omega

/-- Two canonical memories, the second from an address that lies beyond the first, make one. -/
theorem wfFrom_append {d : Byte} : ∀ {m n : Mem} {lo hi : Nat}, wfFrom d lo m = true → (∀ c ∈ m, c.1 < hi) → lo ≤ hi →
    wfFrom d hi n = true → wfFrom d lo (m ++ n) = true
  | [], _, _, _, _, _, h, hn => wfFrom_mono h hn
  | (k, b) :: m, n, lo, hi, hm, hlt, _, hn => by
    simp only [wfFrom, Bool.and_eq_true, decide_eq_true_eq, List.cons_append] at hm ⊢
    have hk : k < hi := hlt (k, b) (by simp)
    exact ⟨hm.1, wfFrom_append hm.2 (fun c hc => hlt c (by simp [hc])) (by omega) hn⟩

theorem wfFrom_above {d : Byte} {m : Mem} {lo hi : Nat} (h : wfFrom d lo m = true) :
    wfFrom d hi (m.filter fun c => decide (hi ≤ c.1)) = true := by
  induction m generalizing lo with
  | nil => rfl
  | cons c m ih =>
    obtain ⟨k, b⟩ := c
    simp only [wfFrom, Bool.and_eq_true, decide_eq_true_eq] at h
    by_cases hk : hi ≤ k
    · rw [List.filter_cons_of_pos (by simpa using hk)]
      simp only [wfFrom, Bool.and_eq_true, decide_eq_true_eq]
      exact ⟨⟨hk, h.1.2⟩, wfFrom_filter _ h.2⟩
    · rw [List.filter_cons_of_neg (by simpa using hk)]
      exact ih h.2

/-- A store keeps the canonical form. -/
theorem wf_write {d : Byte} {m : Mem} (a : Nat) (bs : List Byte) (h : wf d m = true) : wf d (write d m a bs) = true := by
  unfold write
  rw [List.append_assoc]
  refine wfFrom_append (wfFrom_filter _ h) (hi := a) (fun c hc => by simpa using (List.mem_filter.1 hc).2) (Nat.zero_le a) ?_
  exact wfFrom_append (wfFrom_cells bs a) (lt_of_cells bs a) (by omega) (wfFrom_above h)

/-- Blanking keeps the canonical form. -/
theorem wf_clear {d : Byte} {m : Mem} (a n : Nat) (h : wf d m = true) : wf d (clear m a n) = true := wfFrom_filter _ h

/-- A cell that a filter keeps whatever its byte reads as before. -/
theorem get_filter {d : Byte} {m : Mem} {p : Host.Cell → Bool} {k : Nat} (hp : ∀ b, p (k, b) = true) :
    get d (m.filter p) k = get d m k := by
  unfold get
  rw [List.find?_filter]
  have : (fun c : Host.Cell => decide (p c = true ∧ (c.1 == k) = true)) = fun c : Host.Cell => c.1 == k := by
    funext c
    by_cases hc : c.1 = k
    · obtain ⟨x, b⟩ := c
      subst hc
      simp [hp b]
    · simp [hc]
  rw [this]

/-- An address that no cell has reads as the blank byte. -/
theorem get_absent {d : Byte} {m : Mem} {k : Nat} (h : ∀ c ∈ m, c.1 ≠ k) : get d m k = d := by
  unfold get
  rw [List.find?_eq_none.2]
  intro c hc
  simpa using h c hc

theorem get_append_of_absent {d : Byte} {m n : Mem} {k : Nat} (h : ∀ c ∈ m, c.1 ≠ k) : get d (m ++ n) k = get d n k := by
  unfold get
  rw [List.find?_append, List.find?_eq_none.2 (fun c hc => by simpa using h c hc), Option.none_or]

theorem get_append_absent {d : Byte} {m n : Mem} {k : Nat} (h : ∀ c ∈ n, c.1 ≠ k) : get d (m ++ n) k = get d m k := by
  unfold get
  rw [List.find?_append]
  cases hm : m.find? fun c => c.1 == k with
  | some c => simp
  | none => rw [List.find?_eq_none.2 (fun c hc => by simpa using h c hc)]; rfl

theorem le_of_cells {d : Byte} (bs : List Byte) (a : Nat) : ∀ c ∈ cells d a bs, a ≤ c.1 :=
  le_of_wfFrom (wfFrom_cells bs a)

/-- The cells of stored bytes read as the bytes. -/
theorem get_cells {d : Byte} : ∀ (bs : List Byte) (a i : Nat), i < bs.length → get d (cells d a bs) (a + i) = bs.getD i d
  | b :: bs, a, 0, _ => by
    unfold cells
    split
    · next hb =>
      rw [get_absent (fun c hc => by have := le_of_cells bs (a + 1) c hc; omega)]
      simp [hb]
    · simp [get]
  | b :: bs, a, i + 1, h => by
    have ih := get_cells (d := d) bs (a + 1) i (by simpa using h)
    have e : a + (i + 1) = a + 1 + i := by omega
    unfold cells
    rw [e]
    split
    · rw [ih]; simp
    · have : get d ((a, b) :: cells d (a + 1) bs) (a + 1 + i) = get d (cells d (a + 1) bs) (a + 1 + i) :=
        get_append_of_absent (m := [(a, b)]) (fun c hc => by simp at hc; subst hc; simp; omega)
      rw [this, ih]; simp

/-- What is read after a store: the bytes stored, and elsewhere what was read before. -/
theorem get_write {d : Byte} (m : Mem) (a : Nat) (bs : List Byte) (k : Nat) :
    get d (write d m a bs) k = if a ≤ k ∧ k < a + bs.length then bs.getD (k - a) d else get d m k := by
  unfold write
  split
  · next hk =>
    rw [get_append_absent (fun c hc => by have := (List.mem_filter.1 hc).2; simp at this; omega),
      get_append_of_absent (fun c hc => by have := (List.mem_filter.1 hc).2; simp at this; omega)]
    have := get_cells (d := d) bs a (k - a) (by omega)
    rwa [show a + (k - a) = k by omega] at this
  · next hk =>
    by_cases h : k < a
    · rw [get_append_absent (fun c hc => by have := (List.mem_filter.1 hc).2; simp at this; omega),
        get_append_absent (fun c hc => by have := le_of_cells bs a c hc; omega)]
      exact get_filter (fun b => by simpa using h)
    · rw [List.append_assoc, get_append_of_absent (fun c hc => by have := (List.mem_filter.1 hc).2; simp at this; omega),
        get_append_of_absent (fun c hc => by have := lt_of_cells bs a c hc; omega)]
      exact get_filter (fun b => by simp; omega)

/-- What is read after blanking. -/
theorem get_clear {d : Byte} (m : Mem) (a n k : Nat) :
    get d (clear m a n) k = if a ≤ k ∧ k < a + n then d else get d m k := by
  unfold clear
  split
  · next hk =>
    exact get_absent (fun c hc => by
      have := (List.mem_filter.1 hc).2
      simp at this
      omega)
  · next hk => exact get_filter (fun b => by simp; omega)

@[simp] theorem wf_nil {d : Byte} : wf d [] = true := rfl

end Sys2Proof.Machine.Mem
end

