-- ==== Sys2Proof/Laws/Keep.lean ====
section
/-! SUPPORT. What keeps a safe state: the updates of the state, folds, and the shared changes of clusters. -/

namespace Sys2Proof.Machine

/-- A fold over operations that keep the state well keeps it well. -/
theorem foldl_ok {α : Type} {f : State → α → State} (hf : ∀ s a, s.ok → (f s a).ok) :
    ∀ (l : List α) {s : State}, s.ok → (l.foldl f s).ok
  | [], _, h => h
  | a :: l, _, h => foldl_ok hf l (hf _ a h)

/-- A fold with a second component that is not the state. -/
theorem foldl_snd_ok {α β : Type} {f : β × State → α → β × State} (hf : ∀ x a, x.2.ok → (f x a).2.ok) :
    ∀ (l : List α) {x : β × State}, x.2.ok → (l.foldl f x).2.ok
  | [], _, h => h
  | a :: l, _, h => foldl_snd_ok hf l (hf _ a h)

theorem foldl_fst_ok {α β : Type} {f : State × β → α → State × β} (hf : ∀ x a, x.1.ok → (f x a).1.ok) :
    ∀ (l : List α) {x : State × β}, x.1.ok → (l.foldl f x).1.ok
  | [], _, h => h
  | a :: l, _, h => foldl_fst_ok hf l (hf _ a h)

/-- A state named before the rest is computed. -/
theorem let_ok {a : State} {b : State → State} (ha : a.ok) (hb : ∀ x : State, x.ok → (b x).ok) : (b a).ok := hb a ha

/-- An optional state taken from a choice. -/
theorem getD_ok {o : Option State} {s : State} (ho : ∀ t, o = some t → t.ok) (hs : s.ok) : (o.getD s).ok := by
  cases o with
  | none => exact hs
  | some t => exact ho t rfl

theorem okOut_next {s : State} (h : s.ok) : okOut (.next s) := by
  intro t ht
  cases ht
  exact h

theorem okOut_fault (f : Fault) : okOut (.fault f) := by
  intro t ht
  cases ht

theorem okOut_refused (r : Refusal) : okOut (.refused r) := by
  intro t ht
  cases ht

variable {s : State}

theorem State.modVariant_ok (f : Variant → Variant) (h : s.ok) : (s.modVariant f).ok := ⟨h.1, h.2, h.3, h.4, h.5, h.6, h.7, h.8⟩
theorem State.modPending_ok (f : List Instr → List Instr) (h : s.ok) : (s.modPending f).ok := ⟨h.1, h.2, h.3, h.4, h.5, h.6, h.7, h.8⟩
theorem State.modFree_ok (f : Nat → Nat) (h : s.ok) : (s.modFree f).ok := ⟨h.1, h.2, h.3, h.4, h.5, h.6, h.7, h.8⟩
theorem State.modNow_ok (f : Nat → Nat) (h : s.ok) : (s.modNow f).ok := ⟨h.1, h.2, h.3, h.4, h.5, h.6, h.7, h.8⟩
theorem State.modUpAt_ok (f : Nat → Nat) (h : s.ok) : (s.modUpAt f).ok := ⟨h.1, h.2, h.3, h.4, h.5, h.6, h.7, h.8⟩
theorem State.modBusReply_ok (f : Word → Word) (h : s.ok) : (s.modBusReply f).ok := ⟨h.1, h.2, h.3, h.4, h.5, h.6, h.7, h.8⟩
theorem State.modHostWrites_ok (f : List HostWrite → List HostWrite) (h : s.ok) : (s.modHostWrites f).ok := ⟨h.1, h.2, h.3, h.4, h.5, h.6, h.7, h.8⟩
theorem State.modNvm_ok (f : Nvm → Nvm) (h : s.ok) : (s.modNvm f).ok := ⟨h.1, h.2, h.3, h.4, h.5, h.6, h.7, h.8⟩
theorem State.modKeyGens_ok (f : Nat → Nat) (h : s.ok) : (s.modKeyGens f).ok := ⟨h.1, h.2, h.3, h.4, h.5, h.6, h.7, h.8⟩
theorem State.modRes_ok (f : Results → Results) (h : s.ok) : (s.modRes f).ok := ⟨h.1, h.2, h.3, h.4, h.5, h.6, h.7, h.8⟩
theorem State.modRas_ok (f : Ras → Ras) (h : s.ok) : (s.modRas f).ok := ⟨h.1, h.2, h.3, h.4, h.5, h.6, h.7, h.8⟩
theorem State.modEscalate_ok (f : Bool → Bool) (h : s.ok) : (s.modEscalate f).ok := ⟨h.1, h.2, h.3, h.4, h.5, h.6, h.7, h.8⟩
theorem State.modCfg_ok (f : Cfg → Cfg) (h : s.ok) : (s.modCfg f).ok := ⟨h.1, h.2, h.3, h.4, h.5, h.6, h.7, h.8⟩
theorem State.modPresets_ok (f : Nat → Nat) (h : s.ok) : (s.modPresets f).ok := ⟨h.1, h.2, h.3, h.4, h.5, h.6, h.7, h.8⟩
theorem State.modStore_ok (f : Store → Store) (h : s.ok) : (s.modStore f).ok := ⟨h.1, h.2, h.3, h.4, h.5, h.6, h.7, h.8⟩
theorem State.modIdx_ok (f : List Index → List Index) (h : s.ok) : (s.modIdx f).ok := ⟨h.1, h.2, h.3, h.4, h.5, h.6, h.7, h.8⟩
theorem State.modMedia_ok (f : Media → Media) (h : s.ok) : (s.modMedia f).ok := ⟨h.1, h.2, h.3, h.4, h.5, h.6, h.7, h.8⟩
theorem State.modCad_ok (f : Cad → Cad) (h : s.ok) : (s.modCad f).ok := ⟨h.1, h.2, h.3, h.4, h.5, h.6, h.7, h.8⟩
theorem State.modCis_ok (f : Cis → Cis) (h : s.ok) : (s.modCis f).ok := ⟨h.1, h.2, h.3, h.4, h.5, h.6, h.7, h.8⟩
theorem State.modSigs_ok (f : List DevSig → List DevSig) (h : s.ok) : (s.modSigs f).ok := ⟨h.1, h.2, h.3, h.4, h.5, h.6, h.7, h.8⟩
theorem State.modLnk_ok (f : Lnk → Lnk) (h : s.ok) : (s.modLnk f).ok := ⟨h.1, h.2, h.3, h.4, h.5, h.6, h.7, h.8⟩
theorem State.modSec_ok (f : Sec → Sec) (h : s.ok) : (s.modSec f).ok := ⟨h.1, h.2, h.3, h.4, h.5, h.6, h.7, h.8⟩
theorem State.modGen_ok (f : Gen → Gen) (h : s.ok) : (s.modGen f).ok := ⟨h.1, h.2, h.3, h.4, h.5, h.6, h.7, h.8⟩

theorem State.modMgmt_ok (f : Mgmt → Mgmt) (hf : s.mgmt.ok → (f s.mgmt).ok) (h : s.ok) : (s.modMgmt f).ok :=
  ⟨h.1, h.2, h.3, h.4, h.5, h.6, hf h.7, h.8⟩

theorem State.modPwr_ok (f : Pwr → Pwr) (hf : s.pwr.ok → (f s.pwr).ok) (h : s.ok) : (s.modPwr f).ok :=
  ⟨h.1, h.2, h.3, h.4, h.5, h.6, h.7, hf h.8⟩

theorem State.modBoot_ok (f : Boot → Boot) (hf : Mem.wf 0xFF s.boot.flash → Mem.wf 0xFF (f s.boot).flash) (h : s.ok) :
    (s.modBoot f).ok :=
  ⟨h.1, h.2, h.3, h.4, h.5, hf h.6, h.7, h.8⟩

theorem State.modResv_ok (f : Resv → Resv) (hf : Mem.wf 0 s.resv.mem → Mem.wf 0 (f s.resv).mem) (h : s.ok) :
    (s.modResv f).ok :=
  ⟨h.1, h.2, h.3, h.4, hf h.5, h.6, h.7, h.8⟩

theorem State.modNss_ok (f : List Ns → List Ns) (hf : (∀ n ∈ s.nss, n.ok) → ∀ n ∈ f s.nss, n.ok) (h : s.ok) : (s.modNss f).ok :=
  ⟨h.1, h.2, h.3, hf h.4, h.5, h.6, h.7, h.8⟩

theorem State.modParts_ok (f : List Part → List Part) (hf : (f s.parts).length = s.parts.length) (h : s.ok) : (s.modParts f).ok :=
  ⟨h.1, h.2, hf.trans h.3, h.4, h.5, h.6, h.7, h.8⟩

theorem State.modClus_ok (f : List Clu → List Clu) (hl : (f s.clus).length = s.clus.length)
    (hf : (∀ x ∈ s.clus, x.ok) → ∀ x ∈ f s.clus, x.ok) (h : s.ok) : (s.modClus f).ok :=
  ⟨hl.trans h.1, hf h.2, h.3, h.4, h.5, h.6, h.7, h.8⟩

/-- One cluster of all changed. -/
theorem State.modClus_map_ok (f : Clu → Clu) (hf : ∀ x : Clu, x.ok → (f x).ok) (h : s.ok) : (s.modClus (·.map f)).ok :=
  State.modClus_ok _ (by simp) (fun hx y hy => by
    obtain ⟨x, hm, rfl⟩ := List.mem_map.1 hy
    exact hf x (hx x hm)) h

theorem modClu_ok (c : Nat) (f : Clu → Clu) (hf : ∀ x : Clu, x.ok → (f x).ok) (h : s.ok) : (modClu c f s).ok :=
  State.modClus_ok _ (by simp) (fun hx y hy => by
    obtain ⟨i, hi, rfl⟩ := List.mem_iff_getElem.1 hy
    rw [List.getElem_modify]
    have hi' : i < s.clus.length := by simpa using hi
    split
    · exact hf _ (hx _ (List.getElem_mem hi'))
    · exact hx _ (List.getElem_mem hi')) h

theorem modPart_ok (p : Nat) (f : Part → Part) (h : s.ok) : (modPart p f s).ok := State.modParts_ok _ (by simp) h

theorem modNs_ok (id : Nat) (f : Ns → Ns) (hf : ∀ n : Ns, n.ok → (f n).ok) (h : s.ok) : (modNs id f s).ok :=
  State.modNss_ok _ (fun hn y hy => by
    obtain ⟨x, hm, rfl⟩ := List.mem_map.1 hy
    split
    · exact hf x (hn x hm)
    · exact hn x hm) h

/-- A cluster that is read is well. -/
theorem State.clu_ok (c : Nat) (h : s.ok) : (s.clu c).ok := by
  unfold State.clu
  rw [List.getD_eq_getElem?_getD]
  cases hc : s.clus[c]? with
  | some x => exact h.clu x (List.mem_of_getElem? hc)
  | none => exact ⟨rfl, rfl, rfl, rfl, rfl, rfl, rfl, rfl, rfl, rfl⟩

/-- A change of one cluster by a cluster that is well itself. -/
theorem modClu_const_ok (c : Nat) (y : Clu) (hy : y.ok) (h : s.ok) : (modClu c (fun _ => y) s).ok :=
  modClu_ok c _ (fun _ _ => hy) h

/-- A cluster changed in nothing that its well-being rests on. -/
theorem Clu.ok_of_eq {x y : Clu} (h : x.ok) (ht : y.tile = x.tile) (hi : y.im = x.im) (hd : y.core.dm = x.core.dm)
    (hr : y.ring.mem = x.ring.mem) (hg : y.core.g.length = x.core.g.length) (hp : y.core.pois.length = x.core.pois.length)
    (hy : y.core.ready.length = x.core.ready.length) (ha : y.core.ag.length = x.core.ag.length)
    (he : y.eng.length = x.eng.length) (ho : y.objs.length = x.objs.length) : y.ok := by
  obtain ⟨h1, h2, h3, h4, h5, h6, h7, h8, h9, h10⟩ := h
  exact ⟨ht ▸ h1, hi ▸ h2, hd ▸ h3, hr ▸ h4, hg.trans h5, hp.trans h6, hy.trans h7, ha.trans h8, he.trans h9, ho.trans h10⟩

theorem Clu.modQ_ok (e : Nat) (f : EngQ → EngQ) {x : Clu} (h : x.ok) : (x.modQ e f).ok :=
  Clu.ok_of_eq h rfl rfl rfl rfl rfl rfl rfl rfl (by simp [Clu.modQ]) rfl

theorem Clu.modObj_ok (o : Nat) (f : SyncObj → SyncObj) {x : Clu} (h : x.ok) : (x.modObj o f).ok :=
  Clu.ok_of_eq h rfl rfl rfl rfl rfl rfl rfl rfl rfl (by simp [Clu.modObj])

theorem Clu.setPois_ok (g n : Nat) (on : Bool) {x : Clu} (h : x.ok) : (x.setPois g n on).ok := h

theorem Clu.tileWrite_ok (a : Nat) (bs : List Byte) (p : Bool) {x : Clu} (h : x.ok) : (x.tileWrite a bs p).ok := by
  obtain ⟨h1, h2⟩ := h
  exact ⟨Mem.wf_write a _ h1, h2⟩

end Sys2Proof.Machine
end

