-- ==== Sys2Proof/Laws/KeepClu.lean ====
section
/-! SUPPORT. What keeps a cluster well: the operations of its core, its engines, its tile; and small lemmas over choices and folds. -/

namespace Sys2Proof.Machine

theorem ite_ok {c : Prop} [Decidable c] {a b : State} (ha : a.ok) (hb : b.ok) : (if c then a else b).ok := by
  split
  · exact ha
  · exact hb

theorem Ns.wf_of {n : Ns} (h : n.ok) : Mem.wf 0 n.mem := h

theorem State.modParts_map_ok {s : State} (f : Part → Part) (h : s.ok) : (s.modParts (·.map f)).ok :=
  State.modParts_ok _ (List.length_map _) h

theorem State.modParts_const_ok {s : State} (l : List Part) (hl : l.length = 8) (h : s.ok) : (s.modParts fun _ => l).ok :=
  State.modParts_ok _ (hl.trans h.npart.symm) h

theorem State.modClus_mapIdx_ok {s : State} (f : Nat → Clu → Clu) (hf : ∀ n x, x.ok → (f n x).ok) (h : s.ok) :
    (s.modClus (·.mapIdx f)).ok :=
  State.modClus_ok _ (List.length_mapIdx) (fun hx y hy => by
    obtain ⟨i, hi, rfl⟩ := List.mem_mapIdx.1 hy
    exact hf i _ (hx _ (List.getElem_mem hi))) h

theorem optIte_ok {c : Prop} [Decidable c] {a b : Option State} {t : State} (e : (if c then a else b) = some t)
    (ha : ∀ t, a = some t → t.ok) (hb : ∀ t, b = some t → t.ok) : t.ok := by
  split at e
  · exact ha t e
  · exact hb t e

theorem optMap_ok {α : Type} {o : Option α} {f : α → State} {t : State} (e : o.map f = some t) (hf : ∀ a, (f a).ok) : t.ok := by
  cases o with
  | none => cases e
  | some a =>
    cases e
    exact hf a

/-- A namespace is well when its contents are. -/
theorem Ns.ok_of {n : Ns} (h : Mem.wf 0 n.mem) : n.ok := h

theorem State.modNss_map_ok {s : State} (f : Ns → Ns) (hf : ∀ n : Ns, n.ok → (f n).ok) (h : s.ok) : (s.modNss (·.map f)).ok :=
  State.modNss_ok _ (fun hn y hy => by
    obtain ⟨x, hm, rfl⟩ := List.mem_map.1 hy
    exact hf x (hn x hm)) h

theorem State.modNss_filter_ok {s : State} (f : Ns → Bool) (h : s.ok) : (s.modNss (·.filter f)).ok :=
  State.modNss_ok _ (fun hn y hy => hn y (List.mem_filter.1 hy).1) h

theorem none_ok : ∀ t : State, none = some t → t.ok := by
  intro t h
  cases h

theorem some_ok {s : State} (h : s.ok) : ∀ t : State, some s = some t → t.ok := by
  intro t e
  cases e
  exact h

theorem fst_ok {β : Type} {x : State × β} {a : State} {b : β} (e : x = (a, b)) (h : x.1.ok) : a.ok := by
  subst e
  exact h

theorem snd_ok {β : Type} {x : β × State} {a : State} {b : β} (e : x = (b, a)) (h : x.2.ok) : a.ok := by
  subst e
  exact h

/-- A state named on the way, once it is known to be well. -/
theorem cut_ok {s : State} {G : Prop} (a : s.ok) (b : s.ok → G) : G := b a

/-- A fold over operations that keep a cluster well keeps it well. -/
theorem Clu.foldl_ok {α : Type} {f : Clu → α → Clu} (hf : ∀ x a, x.ok → (f x a).ok) :
    ∀ (l : List α) {x : Clu}, x.ok → (l.foldl f x).ok
  | [], _, h => h
  | a :: l, _, h => Clu.foldl_ok hf l (hf _ a h)

theorem Clu.foldl_fst_ok {α β : Type} {f : Clu × β → α → Clu × β} (hf : ∀ x a, x.1.ok → (f x a).1.ok) :
    ∀ (l : List α) {x : Clu × β}, x.1.ok → (l.foldl f x).1.ok
  | [], _, h => h
  | a :: l, _, h => Clu.foldl_fst_ok hf l (hf _ a h)

/-- A core whose registers keep their number and whose data memory stays canonical. -/
theorem Clu.modCore_ok (f : Core → Core) (x : Clu) (hd : Mem.wf 0 x.core.dm → Mem.wf 0 (f x.core).dm)
    (hg : (f x.core).g.length = x.core.g.length) (hp : (f x.core).pois.length = x.core.pois.length)
    (hy : (f x.core).ready.length = x.core.ready.length) (ha : (f x.core).ag.length = x.core.ag.length) (h : x.ok) :
    (x.modCore f).ok := by
  obtain ⟨h1, h2, h3, h4, h5, h6, h7, h8, h9, h10⟩ := h
  exact ⟨h1, h2, hd h3, h4, hg.trans h5, hp.trans h6, hy.trans h7, ha.trans h8, h9, h10⟩

theorem Clu.reset_ok (n : Nat) : (Clu.reset n).ok := ⟨rfl, rfl, rfl, rfl, rfl, rfl, rfl, rfl, rfl, rfl⟩

theorem Clu.endContext_ok (x : Clu) (h : x.ok) : x.endContext.ok := by
  obtain ⟨h1, h2, h3, h4, h5, h6, h7, h8, h9, h10⟩ := h
  exact ⟨rfl, h2, h3, rfl, h5, h6, h7, h8, rfl, (List.length_map _).trans h10⟩

theorem Clu.stop_ok (x : Clu) (h : x.ok) : x.stop.ok := by
  obtain ⟨h1, h2, h3, h4, h5, h6, h7, h8, h9, h10⟩ := h
  exact ⟨h1, h2, h3, h4, h5, h6, h7, h8, (List.length_map _).trans h9, h10⟩

theorem Clu.startContext_ok (gens : List Nat) (x : Clu) (h : x.ok) : (x.startContext gens).ok := by
  obtain ⟨h1, h2, h3, h4, h5, h6, h7, h8, h9, h10⟩ := h
  exact ⟨rfl, h2, rfl, rfl, rfl, rfl, rfl, rfl, rfl, (List.length_map _).trans h10⟩

theorem Clu.loadImage_ok (g : StageImage) (x : Clu) (h : x.ok) : (x.loadImage g).ok := by
  unfold Clu.loadImage
  split
  · obtain ⟨h1, h2, h3, h4, h5, h6, h7, h8, h9, h10⟩ := h
    exact ⟨h1, Mem.wf_cells _ _, h3, h4, h5, h6, h7, h8, h9, h10⟩
  · exact h

theorem Clu.loadImages_ok (gs : List StageImage) (x : Clu) (h : x.ok) : (x.loadImages gs).ok :=
  Clu.foldl_ok (fun _ _ h => Clu.loadImage_ok _ _ h) gs h

theorem Clu.startStage_ok (idx n entry : Nat) (dm : Mem) (st : CoreSt) (x : Clu) (hd : Mem.wf 0 dm) (h : x.ok) :
    (x.startStage idx n entry dm st).ok := by
  obtain ⟨h1, h2, h3, h4, h5, h6, h7, h8, h9, h10⟩ := h
  exact ⟨h1, h2, hd, h4, rfl, rfl, rfl, rfl, h9, h10⟩

theorem Clu.afterReset_ok (n : Nat) (x : Clu) : (x.afterReset n).ok := ⟨rfl, rfl, rfl, rfl, rfl, rfl, rfl, rfl, rfl, rfl⟩

theorem Clu.tileFill_ok (a : Nat) (bs : List Byte) (pois : List Nat) (x : Clu) (h : x.ok) : (x.tileFill a bs pois).ok :=
  Clu.foldl_ok (fun _ _ h => Clu.setPois_ok _ _ _ h) pois (Clu.tileWrite_ok a bs false h)

theorem Clu.tilePatch_ok (a : Nat) (bs : List Byte) (pois : Bool) (x : Clu) (h : x.ok) : (x.tilePatch a bs pois).ok := by
  unfold Clu.tilePatch
  split
  · exact h
  · obtain ⟨h1, h2⟩ := h
    exact ⟨Mem.wf_write a bs h1, h2⟩

theorem vStep_ok (scal seed : Nat) (sticky : Bool) (x : Clu) (v : VEntry) (h : x.ok) : (vStep scal seed sticky x v).ok :=
  Clu.foldl_ok (fun _ _ h => Clu.tilePatch_ok _ _ _ _ h) _ h

theorem VEntry.poisonOut_ok (x : Clu) (v : VEntry) (h : x.ok) : (v.poisonOut x).ok := Clu.setPois_ok _ _ _ h

theorem tickClu_ok (mhz100 : Nat) (x : Clu) (h : x.ok) : (tickClu mhz100 x).ok := by
  unfold tickClu
  split
  · exact Clu.modCore_ok _ x id rfl rfl rfl rfl h
  · exact h

theorem grant_ok (who : Nat) (x : Clu) (h : x.ok) : (grant who x).ok := by
  unfold grant
  split
  · split
    · dsimp only
      split
      · exact Clu.modCore_ok _ _ id rfl rfl rfl rfl (Clu.modObj_ok _ _ h)
      · exact Clu.modCore_ok _ _ id rfl rfl rfl rfl h
    · exact h
  · split
    · dsimp only
      split
      · exact Clu.modQ_ok _ _ (Clu.modObj_ok _ _ h)
      · exact Clu.modQ_ok _ _ h
    · exact h

theorem Core.setReg_len (r : Nat) (v : BitVec 64) (p : Bool) (k : Core) : (k.setReg r v p).g.length = k.g.length := by
  unfold Core.setReg
  split
  · rfl
  · simp

theorem Core.setReg_pois (r : Nat) (v : BitVec 64) (p : Bool) (k : Core) : (k.setReg r v p).pois.length = k.pois.length := by
  unfold Core.setReg
  split
  · rfl
  · simp

/-- What an instruction of the control core keeps of its core: the data memory canonical, the sizes of the register files. -/
def Core.keeps (k k' : Core) : Prop :=
  (Mem.wf 0 k.dm → Mem.wf 0 k'.dm) ∧ k'.g.length = k.g.length ∧ k'.pois.length = k.pois.length ∧
  k'.ready.length = k.ready.length ∧ k'.ag.length = k.ag.length

theorem Core.setReg_keeps (r : Nat) (v : BitVec 64) (p : Bool) (k : Core) : k.keeps (k.setReg r v p) := by
  refine ⟨fun h => ?_, Core.setReg_len r v p k, Core.setReg_pois r v p k, ?_, ?_⟩
  · unfold Core.setReg
    split
    · exact h
    · exact h
  · unfold Core.setReg
    split
    · rfl
    · rfl
  · unfold Core.setReg
    split
    · rfl
    · rfl

theorem Clu.on_ok (f : Core → Core) (x : Clu) (hf : x.core.keeps (f x.core)) (h : x.ok) : (x.on f).ok :=
  Clu.modCore_ok f x hf.1 hf.2.1 hf.2.2.1 hf.2.2.2.1 hf.2.2.2.2 h

theorem aluEff_ok (w : Nat) (x : Clu) (h : x.ok) : (aluEff w x).clu.ok := by
  unfold aluEff
  dsimp only
  split
  · exact h
  · exact Clu.on_ok _ x (Core.setReg_keeps _ _ _ _) h

theorem immEff_ok (w : Nat) (g : BitVec 64 → BitVec 64) (x : Clu) (h : x.ok) : (immEff w g x).clu.ok :=
  Clu.on_ok _ x (Core.setReg_keeps _ _ _ _) h

theorem loadEff_ok (n w : Nat) (x : Clu) (h : x.ok) : (loadEff n w x).clu.ok := by
  unfold loadEff
  dsimp only
  split
  · exact h
  · exact Clu.on_ok _ x (Core.setReg_keeps _ _ _ _) h

theorem storeEff_ok (n w : Nat) (x : Clu) (h : x.ok) : (storeEff n w x).clu.ok := by
  unfold storeEff
  dsimp only
  split
  · exact h
  · exact Clu.on_ok _ x ⟨fun h => Mem.wf_write _ _ h, rfl, rfl, rfl, rfl⟩ h

theorem branchEff_ok (w : Nat) (test : BitVec 64 → BitVec 64 → Bool) (x : Clu) (h : x.ok) : (branchEff w test x).clu.ok :=
  Clu.on_ok _ x ⟨fun h => h, rfl, rfl, rfl, rfl⟩ h

theorem loopEff_ok (lc count len : Nat) (p : Bool) (srcs : List Nat) (x : Clu) (h : x.ok) :
    (loopEff lc count len p srcs x).clu.ok := by
  unfold loopEff
  repeat' first
    | exact h
    | dsimp only
    | split

theorem waitEff_ok (take : Bool) (w : Nat) (x : Clu) (h : x.ok) : (waitEff take w x).clu.ok := by
  unfold waitEff
  dsimp only
  split
  · exact h
  · split
    · dsimp only
      split
      · exact Clu.modObj_ok _ _ h
      · exact h
    · exact Clu.on_ok _ x ⟨fun h => h, rfl, rfl, rfl, rfl⟩ h

theorem ssigEff_ok (c w : Nat) (x : Clu) (h : x.ok) : (ssigEff c w x).clu.ok := by
  unfold ssigEff
  dsimp only
  split
  · exact h
  · split
    · exact h
    · exact h

theorem barEff_ok (w : Nat) (x : Clu) (h : x.ok) : (barEff w x).clu.ok := by
  unfold barEff
  dsimp only
  split
  · exact h
  · refine Clu.on_ok _ _ ⟨fun h => h, rfl, rfl, rfl, rfl⟩ ?_
    split
    · exact h
    · exact h

theorem issueEff_ok (c e w w1 : Nat) (x : Clu) (h : x.ok) : (issueEff c e w w1 x).clu.ok := by
  unfold issueEff
  dsimp only
  split
  · exact h
  · split
    · exact h
    · split
      · exact h
      · exact Clu.on_ok _ _ ⟨fun h => h, rfl, rfl, rfl, rfl⟩ (Clu.modQ_ok _ _ h)

/-- The steps of the control core's clock: what a result's register is ready at, and where the program goes on. -/
theorem Core.timed_keeps (t pc : Nat) (l : List HwLoop) (rd v : Nat) (k : Core) :
    k.keeps { k with
      cycles := t
      ready := if rd = 0 then k.ready else k.ready.set rd v
      pc := pc
      loops := l } := by
  refine ⟨fun h => h, rfl, rfl, ?_, rfl⟩
  dsimp only
  split
  · rfl
  · exact List.length_set

theorem Pwr.afterReset_ok (p : Pwr) : p.afterReset.ok := by
  intro e h
  cases h

theorem Mem.wf_foldl {α : Type} {d : Byte} {f : Mem → α → Mem} (hf : ∀ m a, Mem.wf d m → Mem.wf d (f m a)) :
    ∀ (l : List α) {m : Mem}, Mem.wf d m → Mem.wf d (l.foldl f m)
  | [], _, h => h
  | a :: l, _, h => Mem.wf_foldl hf l (hf _ a h)

theorem releaseSlots_wf (n : Nat) (l : List (Nat × Nat)) (r : Ring) (h : Mem.wf 0 r.mem) : Mem.wf 0 (releaseSlots n l r).mem :=
  Mem.wf_foldl (fun _ _ h => Mem.wf_clear _ _ h) _ h

theorem Boot.erase_wf (b : Boot) (k : Nat) (h : Mem.wf 0xFF b.flash) : Mem.wf 0xFF (b.erase k).flash := Mem.wf_clear _ _ h

theorem Boot.program_wf (b : Boot) (a : Nat) (l : List Byte) (h : Mem.wf 0xFF b.flash) : Mem.wf 0xFF (b.program a l).flash :=
  Mem.wf_write _ _ h

theorem erases_wf : ∀ (l : List Nat) (b : Boot), Mem.wf 0xFF b.flash →
    Mem.wf 0xFF (l.foldl (fun (b : Boot) k => b.erase (16 + k)) b).flash
  | [], _, h => h
  | k :: l, b, h => erases_wf l (b.erase (16 + k)) (Boot.erase_wf b (16 + k) h)

/-- A run of the Hamming engine changes the tile alone, and keeps it canonical. -/
theorem hammingRun_wf (k : ECmd) (x y : Clu) (h : x.ok) (e : hammingRun k x = .ok y) : y.ok := by
  unfold hammingRun at e
  repeat' first
    | (cases e; done)
    | (cases e; exact h)
    | (cases e; exact Clu.foldl_ok (fun _ _ h => Clu.tilePatch_ok _ _ _ _ h) _ h)
    | (cases e; exact Clu.tilePatch_ok _ _ _ _ (Clu.tilePatch_ok _ _ _ _ h))
    | dsimp only at e
    | split at e
    | (split at e; cases e; exact Clu.tilePatch_ok _ _ _ _ (Clu.tilePatch_ok _ _ _ _ h))

theorem tileWrites_ok {α : Type} (l : List α) (a : α → Nat) (bs : α → List Byte) (p : α → Bool) (x : Clu) (h : x.ok) :
    (l.foldl (fun y r => y.tileWrite (a r) (bs r) (p r)) x).ok :=
  Clu.foldl_ok (fun _ _ h => Clu.tileWrite_ok _ _ _ h) l h

theorem optBind_ok {α : Type} {o : Option α} {f : α → Option State} (hf : ∀ a, o = some a → ∀ t, f a = some t → t.ok) :
    ∀ t, o.bind f = some t → t.ok := by
  cases o with
  | none =>
    intro t e
    cases e
  | some a => exact hf a rfl

theorem optMapS_ok {o : Option State} {f : State → State} (ho : ∀ t, o = some t → t.ok) (hf : ∀ t, t.ok → (f t).ok) :
    ∀ t, o.map f = some t → t.ok := by
  cases o with
  | none =>
    intro t e
    cases e
  | some a =>
    intro t e
    cases e
    exact hf a (ho a rfl)

end Sys2Proof.Machine
end

