-- ==== Sys2Proof/Laws/KeepShared.lean ====
section
/-! SUPPORT. What keeps a safe state: the shared operations. -/

namespace Sys2Proof.Machine

theorem draw_ok (s : State) (h : s.ok) : (draw s).2.ok := by
  unfold draw
  repeat' first
    | with_reducible assumption
    | with_reducible apply State.modFree_ok

theorem drawBytes_ok (n : Nat) (s : State) (h : s.ok) : (drawBytes n s).2.ok := by
  unfold drawBytes
  repeat' first
    | with_reducible assumption
    | with_reducible apply State.modFree_ok

theorem modFlight_ok (sqid : Nat) (cid : Nat) (g : Flight → Flight) (s : State) (h : s.ok) : (modFlight sqid cid g s).ok := by
  unfold modFlight
  repeat' first
    | with_reducible assumption
    | with_reducible apply State.modNvm_ok

theorem setPhase_ok (sqid : Nat) (cid : Nat) (p : Phase) (s : State) (h : s.ok) : (setPhase sqid cid p s).ok := by
  unfold setPhase
  repeat' first
    | with_reducible assumption
    | with_reducible apply modFlight_ok

theorem hostData_ok (sqid : Nat) (cid : Nat) (off : Nat) (bytes : List Byte) (s : State) (h : s.ok)
    : (hostData sqid cid off bytes s).ok := by
  unfold hostData
  repeat' first
    | with_reducible assumption
    | with_reducible apply State.modHostWrites_ok
    | split

theorem postNow_ok (q : Cq) (e : Cqe) (s : State) (h : s.ok) : (postNow q e s).ok := by
  unfold postNow
  repeat' first
    | with_reducible assumption
    | with_reducible apply State.modNvm_ok
    | with_reducible apply State.modHostWrites_ok

theorem post_ok (cqid : Nat) (e : Cqe) (s : State) (h : s.ok) : (post cqid e s).ok := by
  unfold post
  repeat' first
    | with_reducible assumption
    | with_reducible apply State.modNvm_ok
    | with_reducible apply setPhase_ok
    | with_reducible apply postNow_ok
    | dsimp only
    | split

theorem addErrInfo_ok (sqid : Nat) (cid : Nat) (st : Status) (nsid : Nat) (record : Option Nat) (s : State) (h : s.ok)
    : (addErrInfo sqid cid st nsid record s).ok := by
  unfold addErrInfo
  repeat' first
    | with_reducible assumption
    | with_reducible apply State.modNvm_ok

theorem completeFlight_ok (f : Flight) (st : Status) (dw0 : Nat) (dw1 : Nat) (s : State) (h : s.ok)
    : (completeFlight f st dw0 dw1 s).ok := by
  unfold completeFlight
  repeat' first
    | with_reducible assumption
    | with_reducible apply addErrInfo_ok
    | with_reducible apply post_ok
    | split

theorem raiseEvent_ok (typ : Nat) (info : Nat) (page : Nat) (s : State) (h : s.ok) : (raiseEvent typ info page s).ok := by
  unfold raiseEvent
  repeat' first
    | with_reducible assumption
    | with_reducible apply State.modNvm_ok
    | with_reducible apply completeFlight_ok
    | dsimp only
    | split

theorem smartEvent_ok (warning : Nat) (s : State) (h : s.ok) : (smartEvent warning s).ok := by
  unfold smartEvent
  repeat' first
    | with_reducible assumption
    | with_reducible apply raiseEvent_ok
    | split

theorem addRecord_ok (r : Fault17) (s : State) (h : s.ok) : (addRecord r s).ok := by
  unfold addRecord
  repeat' first
    | with_reducible assumption
    | with_reducible apply State.modRas_ok
    | with_reducible apply modFlight_ok
    | with_reducible apply raiseEvent_ok
    | dsimp only
    | split

theorem openHandling_ok (a : Attr) (s : State) (h : s.ok) : (openHandling a s).ok := by
  unfold openHandling
  repeat' first
    | with_reducible assumption
    | with_reducible apply State.modRas_ok

theorem closeHandling_ok (a : Attr) (s : State) (h : s.ok) : (closeHandling a s).ok := by
  unfold closeHandling
  repeat' first
    | with_reducible assumption
    | with_reducible apply State.modRas_ok

theorem losePromise_ok (n : Nat) (kind : Nat) (inst : Nat) (s : State) (h : s.ok) : (losePromise n kind inst s).ok := by
  unfold losePromise
  repeat' first
    | with_reducible assumption
    | with_reducible apply smartEvent_ok
    | with_reducible apply addRecord_ok
    | with_reducible apply State.modRas_ok
    | split

theorem keepPromise_ok (n : Nat) (s : State) (h : s.ok) : (keepPromise n s).ok := by
  unfold keepPromise
  repeat' first
    | with_reducible assumption
    | with_reducible apply State.modRas_ok

theorem fatalFault_ok (r : Fault17) (s : State) (h : s.ok) : (fatalFault r s).ok := by
  unfold fatalFault
  repeat' first
    | with_reducible assumption
    | with_reducible apply addRecord_ok
    | with_reducible apply State.modEscalate_ok
    | with_reducible apply State.modRas_ok

theorem complete_ok (sqid : Nat) (cid : Nat) (st : Status) (dw0 : Nat) (dw1 : Nat) (s : State) (h : s.ok)
    : (complete sqid cid st dw0 dw1 s).ok := by
  unfold complete
  repeat' first
    | with_reducible assumption
    | with_reducible apply fatalFault_ok
    | with_reducible apply State.modRas_ok
    | with_reducible apply completeFlight_ok
    | split

theorem done_ok (c : Cmd) (st : Status) (s : State) (h : s.ok) : (done c st s).ok := by
  unfold done
  repeat' first
    | with_reducible assumption
    | with_reducible apply complete_ok

theorem doneWith_ok (c : Cmd) (st : Status) (dw0 : Nat) (dw1 : Nat) (s : State) (h : s.ok) : (doneWith c st dw0 dw1 s).ok := by
  unfold doneWith
  repeat' first
    | with_reducible assumption
    | with_reducible apply complete_ok

theorem ok_ok (c : Cmd) (s : State) (h : s.ok) : (ok c s).ok := by
  unfold ok
  repeat' first
    | with_reducible assumption
    | with_reducible apply done_ok

theorem badDword_ok (n : Nat) (c : Cmd) (s : State) (h : s.ok) : (badDword n c s).ok := by
  unfold badDword
  repeat' first
    | with_reducible assumption
    | with_reducible apply doneWith_ok

theorem badField_ok (c : Cmd) (s : State) (h : s.ok) : (badField c s).ok := by
  unfold badField
  repeat' first
    | with_reducible assumption
    | with_reducible apply doneWith_ok

theorem badParam_ok (off : Nat) (c : Cmd) (s : State) (h : s.ok) : (badParam off c s).ok := by
  unfold badParam
  repeat' first
    | with_reducible assumption
    | with_reducible apply doneWith_ok

theorem asFetched_ok (order : Nat) (f : State → State) (s : State) (h2 : ∀ s : State, s.ok → (f s).ok) (h : s.ok)
    : (asFetched order f s).ok := by
  unfold asFetched
  repeat' first
    | with_reducible assumption
    | apply h2
    | with_reducible apply State.modNss_map_ok
    | with_reducible apply State.modIdx_ok
    | with_reducible exact Ns.wf_of (by assumption)
    | with_reducible apply Ns.ok_of
    | dsimp only
    | split
    | intro _

theorem toSurrogate_ok (s : State) (h : s.ok) : (toSurrogate s).ok := by
  unfold toSurrogate
  repeat' first
    | with_reducible assumption
    | with_reducible apply State.modCad_ok
    | with_reducible apply raiseEvent_ok
    | with_reducible apply addRecord_ok

theorem violation_ok (vbit : Nat) (s : State) (h : s.ok) : (violation vbit s).ok := by
  unfold violation
  repeat' first
    | with_reducible assumption
    | with_reducible apply State.modCad_ok
    | with_reducible apply toSurrogate_ok
    | dsimp only
    | split

theorem acceptExternal_ok (len : Nat) (marker : Bool) (s : State) (h : s.ok) : (acceptExternal len marker s).1.ok := by
  unfold acceptExternal
  repeat' first
    | with_reducible assumption
    | with_reducible apply State.modCad_ok
    | with_reducible apply violation_ok
    | dsimp only
    | split

theorem acceptCandidate_ok (len : Nat) (marker : Bool) (s : State) (h : s.ok) : (acceptCandidate len marker s).1.ok := by
  unfold acceptCandidate
  repeat' first
    | with_reducible assumption
    | with_reducible apply State.modCad_ok
    | with_reducible apply raiseEvent_ok
    | dsimp only
    | split

theorem pulse_ok (len : Nat) (high : Nat) (s : State) (h : s.ok) : (pulse len high s).1.ok := by
  unfold pulse
  repeat' first
    | with_reducible assumption
    | with_reducible apply violation_ok
    | with_reducible apply acceptExternal_ok
    | with_reducible apply acceptCandidate_ok
    | dsimp only
    | split

theorem surrogateTick_ok (s : State) (h : s.ok) : (surrogateTick s).1.ok := by
  unfold surrogateTick
  repeat' first
    | with_reducible assumption
    | with_reducible apply State.modCad_ok
    | split

theorem useCadsrc_ok (s : State) (h : s.ok) : (useCadsrc s).ok := by
  unfold useCadsrc
  repeat' first
    | with_reducible assumption
    | with_reducible apply raiseEvent_ok
    | with_reducible apply State.modCad_ok
    | split

theorem countStagger_ok (at_ : Nat) (s : State) (h : s.ok) : (countStagger at_ s).ok := by
  unfold countStagger
  repeat' first
    | with_reducible assumption
    | (with_reducible apply State.modPwr_ok _ (fun h => h))

theorem giveGrant_ok (u : GUnit) (w : Nat) (s : State) (h : s.ok) : (giveGrant u w s).ok := by
  unfold giveGrant
  repeat' first
    | with_reducible assumption
    | (with_reducible apply State.modPwr_ok _ (fun h => h))

theorem trimFor_ok (w : Nat) (a : Nat) (s : State) (h : s.ok) : (trimFor w a s).ok := by
  induction a generalizing s with
  | zero =>
    unfold trimFor
    repeat' first
      | with_reducible assumption
  | succ n ih =>
    unfold trimFor
    repeat' first
      | with_reducible assumption
      | with_reducible apply ih
      | (with_reducible apply State.modPwr_ok _ (fun h => h))
      | split

theorem grantLoop_ok (a0 : List Surge) (a1 : Nat) (a2 : List Nat) (s : State) (h : s.ok) : (grantLoop a0 a1 a2 s).ok := by
  induction a0 generalizing a1 a2 s with
  | nil =>
    unfold grantLoop
    repeat' first
      | with_reducible assumption
  | cons a l ih =>
    unfold grantLoop
    repeat' first
      | with_reducible assumption
      | with_reducible apply ih
      | with_reducible apply trimFor_ok
      | with_reducible apply giveGrant_ok
      | with_reducible apply countStagger_ok
      | (with_reducible apply State.modPwr_ok _ (fun h => h))
      | with_reducible apply State.modCis_ok
      | dsimp only
      | split

theorem untrim_ok (s : State) (h : s.ok) : (untrim s).ok := by
  unfold untrim
  repeat' first
    | with_reducible assumption
    | (with_reducible apply State.modPwr_ok _ (fun h => h))
    | split

theorem ownedPeriod_ok (s : State) (h : s.ok) : (ownedPeriod s).ok := by
  unfold ownedPeriod
  repeat' first
    | with_reducible assumption
    | with_reducible apply untrim_ok
    | with_reducible apply grantLoop_ok
    | dsimp only
    | split

theorem askSurge_ok (cls : Nat) (u : GUnit) (watts : Nat) (s : State) (h : s.ok) : (askSurge cls u watts s).ok := by
  unfold askSurge
  repeat' first
    | with_reducible assumption
    | (with_reducible apply State.modPwr_ok _ (fun h => h))
    | split

theorem wakeClusters_ok (cs : List Nat) (s : State) (h : s.ok) : (wakeClusters cs s).ok := by
  unfold wakeClusters
  repeat' first
    | with_reducible assumption
    | with_reducible apply foldl_ok
    | with_reducible apply askSurge_ok
    | intro _

theorem enterState_ok (ps : Nat) (s : State) (hp : ps ≤ 2) (h : s.ok) : (enterState ps s).ok := by
  unfold enterState
  exact State.modPwr_ok _ (fun h => h) (State.modMgmt_ok _ (fun hm => ⟨Nat.le_trans hp (by decide), hp, hm.2.2⟩) h)

theorem useGrants_ok (cs : List Nat) (s : State) (h : s.ok) : (useGrants cs s).ok := by
  unfold useGrants
  repeat' first
    | with_reducible assumption
    | (with_reducible apply State.modPwr_ok _ (fun h => h))

theorem throttleFrame_ok (s : State) (h : s.ok) : (throttleFrame s).ok := by
  unfold throttleFrame
  repeat' first
    | with_reducible assumption
    | (with_reducible apply State.modPwr_ok _ (fun h => h))
    | with_reducible apply smartEvent_ok
    | (extract_lets +onlyGivenNames x; refine cut_ok (s := x) ?_ fun _ => ?_; rotate_left; clear_value x; rotate_right; subst x)
    | extract_lets +onlyGivenNames y
    | split

theorem ageGrants_ok (busy : List Nat) (s : State) (h : s.ok) : (ageGrants busy s).ok := by
  unfold ageGrants
  repeat' first
    | with_reducible assumption
    | (with_reducible apply State.modPwr_ok _ (fun h => h))

theorem recompute_ok (s : State) (h : s.ok) : (recompute s).ok := by
  unfold recompute
  repeat' first
    | with_reducible assumption
    | with_reducible apply State.modCis_ok
    | with_reducible apply raiseEvent_ok
    | with_reducible apply smartEvent_ok
    | dsimp only
    | split

theorem failString_ok (i : Nat) (s : State) (h : s.ok) : (failString i s).ok := by
  unfold failString
  repeat' first
    | with_reducible assumption
    | with_reducible apply State.modCis_ok
    | with_reducible apply addRecord_ok
    | with_reducible apply State.modGen_ok
    | with_reducible apply recompute_ok
    | dsimp only
    | split

theorem testStep_ok (s : State) (h : s.ok) : (testStep s).ok := by
  unfold testStep
  repeat' first
    | with_reducible assumption
    | with_reducible apply State.modCis_ok
    | with_reducible apply recompute_ok
    | split

theorem endTest_ok (t : CTest) (s : State) (h : s.ok) : (endTest t s).ok := by
  unfold endTest
  repeat' first
    | with_reducible assumption
    | with_reducible apply foldl_ok
    | with_reducible apply State.modCis_ok
    | with_reducible apply recompute_ok
    | with_reducible apply complete_ok
    | split
    | intro _

theorem advanceTest_ok (a : Nat) (s : State) (h : s.ok) : (advanceTest a s).ok := by
  induction a generalizing s with
  | zero =>
    unfold advanceTest
    repeat' first
      | with_reducible assumption
  | succ n ih =>
    unfold advanceTest
    repeat' first
      | with_reducible assumption
      | with_reducible apply ih
      | with_reducible apply endTest_ok
      | with_reducible apply testStep_ok
      | dsimp only
      | split

theorem switchSpare_ok (s : State) (h : s.ok) : (switchSpare s).ok := by
  unfold switchSpare
  repeat' first
    | with_reducible assumption
    | with_reducible apply State.modCis_ok
    | with_reducible apply recompute_ok
    | with_reducible apply losePromise_ok
    | with_reducible apply advanceTest_ok
    | with_reducible apply raiseEvent_ok
    | dsimp only
    | split

theorem startTest_ok (strings : List Nat) (full : Bool) (byReg : Bool) (cmd : Option (Nat × Nat)) (s : State) (h : s.ok)
    : (startTest strings full byReg cmd s).ok := by
  unfold startTest
  repeat' first
    | with_reducible assumption
    | with_reducible apply State.modCis_ok
    | with_reducible apply advanceTest_ok
    | split

theorem askRecharge_ok (s : State) (h : s.ok) : (askRecharge s).ok := by
  unfold askRecharge
  repeat' first
    | with_reducible assumption
    | with_reducible apply askSurge_ok
    | split

theorem metUndelivered_ok (cs : List Nat) (us : List PoolUnit) (s : State) (h : s.ok) : (metUndelivered cs us s).ok := by
  unfold metUndelivered
  repeat' first
    | with_reducible assumption
    | (with_reducible apply State.modResv_ok _ (fun h => h))

theorem dropUnit_ok (u : PoolUnit) (s : State) (h : s.ok) : (dropUnit u s).ok := by
  unfold dropUnit
  repeat' first
    | with_reducible assumption
    | (with_reducible apply State.modResv_ok _ (fun h => h))
    | with_reducible apply State.modRes_ok
    | with_reducible apply State.modStore_ok
    | with_reducible apply State.modMedia_ok
    | dsimp only
    | split

theorem evictFor_ok (n0 : Nat) (a : Nat) (s : State) (h : s.ok) : (evictFor n0 a s).ok := by
  induction a generalizing s with
  | zero =>
    unfold evictFor
    repeat' first
      | with_reducible assumption
  | succ n ih =>
    unfold evictFor
    repeat' first
      | with_reducible assumption
      | with_reducible apply ih
      | with_reducible apply dropUnit_ok
      | split

theorem allocate_ok (cls : Nat) (key : Nat) (owner : Nat) (bytes : Nat) (age : Nat) (users : Nat) (s : State) (h : s.ok)
    : ∀ t, allocate cls key owner bytes age users s = some t → t.ok := by
  unfold allocate
  repeat' first
    | with_reducible assumption
    | exact none_ok
    | with_reducible refine some_ok ?_
    | with_reducible apply evictFor_ok
    | (with_reducible apply State.modResv_ok _ (fun h => h))
    | dsimp only
    | split

theorem exhausted_ok (s : State) (h : s.ok) : (exhausted s).ok := by
  unfold exhausted
  repeat' first
    | with_reducible assumption
    | (with_reducible apply State.modResv_ok _ (fun h => h))

theorem freeUnit_ok (cls : Nat) (key : Nat) (s : State) (h : s.ok) : (freeUnit cls key s).ok := by
  unfold freeUnit
  repeat' first
    | with_reducible assumption
    | (with_reducible apply State.modResv_ok _ (fun h => h))

theorem modUnit_ok (cls : Nat) (key : Nat) (f : PoolUnit → PoolUnit) (s : State) (h : s.ok) : (modUnit cls key f s).ok := by
  unfold modUnit
  repeat' first
    | with_reducible assumption
    | (with_reducible apply State.modResv_ok _ (fun h => h))

theorem createSet_ok (nsid part first total fmt nrec lease : Nat) (bytes : List Byte) (recs : List Rec) (s : State) (h : s.ok)
    : ∀ x, createSet nsid part first total fmt nrec lease bytes recs s = some x → x.1.ok := by
  intro x hx
  unfold createSet at hx
  split at hx
  · cases hx
  · dsimp only at hx
    split at hx
    · cases hx
    · next t ht =>
      cases hx
      dsimp only
      exact State.modRes_ok _ (allocate_ok _ _ _ _ _ _ s h _ ht)

theorem useSet_ok (handle : Nat) (key : Nat × Nat) (s : State) (h : s.ok) : (useSet handle key s).ok := by
  unfold useSet
  repeat' first
    | with_reducible assumption
    | with_reducible apply modUnit_ok
    | with_reducible apply State.modRes_ok

theorem unuseSets_ok (fetch : Bool) (key : Nat × Nat) (s : State) (h : s.ok) : (unuseSets fetch key s).ok := by
  unfold unuseSets
  repeat' first
    | with_reducible assumption
    | with_reducible apply foldl_ok
    | with_reducible apply modUnit_ok
    | with_reducible apply State.modRes_ok
    | with_reducible apply freeUnit_ok
    | split
    | intro _

theorem releaseSet_ok (handle : Nat) (s : State) (h : s.ok) : (releaseSet handle s).ok := by
  unfold releaseSet
  repeat' first
    | with_reducible assumption
    | with_reducible apply State.modRes_ok
    | with_reducible apply unuseSets_ok

theorem dropSets_ok (p : ResultSet → Bool) (s : State) (h : s.ok) : (dropSets p s).ok := by
  unfold dropSets
  repeat' first
    | with_reducible assumption
    | with_reducible apply foldl_ok
    | with_reducible apply State.modRes_ok
    | with_reducible apply freeUnit_ok
    | intro _

theorem cachePage_ok (page : Nat) (s : State) (h : s.ok) : (cachePage page s).ok := by
  unfold cachePage
  repeat' first
    | with_reducible assumption
    | with_reducible apply State.modMedia_ok
    | (refine allocate_ok _ _ _ _ _ _ _ ?_ _ (by assumption))
    | (refine optIte_ok (by assumption) ?_ ?_)
    | exact none_ok
    | dsimp only
    | split
    | intro _

theorem lookupPage_ok (page : Nat) (s : State) (h : s.ok) : (lookupPage page s).ok := by
  unfold lookupPage
  repeat' first
    | with_reducible assumption
    | with_reducible apply modUnit_ok
    | with_reducible apply State.modMedia_ok
    | with_reducible apply cachePage_ok
    | split

theorem journaled_ok (pages : List Nat) (n : Nat) (s : State) (h : s.ok) : (journaled pages n s).ok := by
  unfold journaled
  repeat' first
    | with_reducible assumption
    | with_reducible apply State.modMedia_ok

theorem noteUndo_ok (units : List (Nat × Nat)) (s : State) (h : s.ok) : (noteUndo units s).ok := by
  unfold noteUndo
  repeat' first
    | with_reducible assumption
    | with_reducible apply State.modMedia_ok

theorem setEntry_ok (e : MapE) (s : State) (h : s.ok) : (setEntry e s).ok := by
  unfold setEntry
  repeat' first
    | with_reducible assumption
    | with_reducible apply journaled_ok
    | with_reducible apply State.modMedia_ok
    | with_reducible apply noteUndo_ok

theorem dropUnits_ok (nsid : Nat) (lba : Nat) (n : Nat) (s : State) (h : s.ok) : (dropUnits nsid lba n s).ok := by
  unfold dropUnits
  repeat' first
    | with_reducible assumption
    | with_reducible apply noteUndo_ok
    | with_reducible apply modNs_ok
    | with_reducible apply State.modMedia_ok
    | with_reducible apply journaled_ok
    | with_reducible apply Mem.wf_clear
    | with_reducible exact Ns.wf_of (by assumption)
    | with_reducible apply Ns.ok_of
    | dsimp only
    | split
    | intro _

theorem countUnits_ok (host : Nat) (media : Nat) (s : State) (h : s.ok) : (countUnits host media s).ok := by
  unfold countUnits
  repeat' first
    | with_reducible assumption
    | with_reducible apply State.modMedia_ok

theorem noteProgram_ok (l : Loc) (n : Nat) (s : State) (h : s.ok) : (noteProgram l n s).ok := by
  unfold noteProgram
  repeat' first
    | with_reducible assumption
    | with_reducible apply State.modMedia_ok
    | dsimp only
    | split

theorem askErases_ok (s : State) (h : s.ok) : (askErases s).ok := by
  unfold askErases
  repeat' first
    | with_reducible assumption
    | with_reducible apply foldl_ok
    | with_reducible apply askSurge_ok
    | split
    | intro _

theorem drawLoc_ok (slc : Bool) (avoid : Option Nat) (s : State) (h : s.ok) : (drawLoc slc avoid s).2.ok := by
  unfold drawLoc
  repeat' first
    | with_reducible assumption
    | with_reducible apply draw_ok
    | dsimp only
    | split

theorem countOff_ok (new : Nat) (s : State) (h : s.ok) : (countOff new s).ok := by
  unfold countOff
  repeat' first
    | with_reducible assumption
    | with_reducible apply State.modMedia_ok
    | split

theorem firstTime_ok (n : Nat) (p : Bool) (s : State) (h : s.ok) : (firstTime n p s).ok := by
  unfold firstTime
  repeat' first
    | with_reducible assumption
    | with_reducible apply raiseEvent_ok
    | with_reducible apply State.modMedia_ok
    | split

theorem checkHealth_ok (s : State) (h : s.ok) : (checkHealth s).ok := by
  unfold checkHealth
  repeat' first
    | with_reducible assumption
    | with_reducible apply foldl_ok
    | with_reducible apply firstTime_ok
    | with_reducible apply smartEvent_ok
    | dsimp only
    | split
    | intro _

theorem modIndex_ok (nsid : Nat) (id : Nat) (f : Index → Index) (s : State) (h : s.ok) : (modIndex nsid id f s).ok := by
  unfold modIndex
  repeat' first
    | with_reducible assumption
    | with_reducible apply State.modIdx_ok

theorem failWith_ok (b : Bad) (c : Cmd) (s : State) (h : s.ok) : (failWith b c s).ok := by
  unfold failWith
  repeat' first
    | with_reducible assumption
    | with_reducible apply badDword_ok
    | with_reducible apply badParam_ok
    | with_reducible apply done_ok
    | split

theorem stageInsert_ok (c : Cmd) (order : Nat) (d : StageD) (recs : List Rec) (s : State) (h : s.ok)
    : (stageInsert c order d recs s).1.ok := by
  unfold stageInsert
  repeat' first
    | with_reducible assumption
    | with_reducible apply modIndex_ok
    | dsimp only
    | split

theorem readParts_ok (ix : Index) (frames : List Nat) (s : State) (h : s.ok) : (readParts ix frames s).ok := by
  unfold readParts
  repeat' first
    | with_reducible assumption
    | with_reducible apply foldl_ok
    | with_reducible apply modUnit_ok
    | intro _

theorem touchParts_ok (ix : Index) (frames : List Nat) (s : State) (h : s.ok) : (touchParts ix frames s).ok := by
  unfold touchParts
  repeat' first
    | with_reducible assumption
    | with_reducible apply foldl_ok
    | with_reducible apply readParts_ok
    | (with_reducible refine getD_ok (allocate_ok _ _ _ _ _ _ _ ?_ ) ?_)
    | split
    | intro _

theorem stageSearch_ok (c : Cmd) (hurt : List (Nat × Nat)) (cs : List Nat) (epoch : Nat) (d : StageD) (s : State) (h : s.ok)
    : (stageSearch c hurt cs epoch d s).1.ok := by
  unfold stageSearch
  repeat' first
    | with_reducible assumption
    | with_reducible apply touchParts_ok
    | with_reducible apply metUndelivered_ok
    | with_reducible apply modIndex_ok
    | dsimp only
    | split

theorem stageRecall_ok (c : Cmd) (cs : List Nat) (epoch : Nat) (d : StageD) (s : State) (h : s.ok)
    : (stageRecall c cs epoch d s).1.ok := by
  unfold stageRecall
  repeat' first
    | with_reducible assumption
    | with_reducible apply readParts_ok
    | with_reducible apply touchParts_ok
    | with_reducible apply metUndelivered_ok
    | with_reducible apply modIndex_ok
    | with_reducible apply draw_ok
    | dsimp only
    | split

theorem modPort_ok (n : Nat) (f : Port → Port) (s : State) (h : s.ok) : (modPort n f s).ok := by
  unfold modPort
  repeat' first
    | with_reducible assumption
    | with_reducible apply State.modLnk_ok

theorem modPeer_ok (d : Nat) (f : PeerDev → PeerDev) (s : State) (h : s.ok) : (modPeer d f s).ok := by
  unfold modPeer
  repeat' first
    | with_reducible assumption
    | with_reducible apply State.modLnk_ok

theorem setFlow_ok (a0 : Flow) (s : State) (h : s.ok) : (setFlow a0 s).ok := by
  unfold setFlow
  repeat' first
    | with_reducible assumption
    | with_reducible apply State.modLnk_ok

theorem putOnLink_ok (p : Option Path) (m : Msg) (s : State) (h : s.ok) : (putOnLink p m s).ok := by
  unfold putOnLink
  repeat' first
    | with_reducible assumption
    | with_reducible apply State.modLnk_ok
    | with_reducible apply modPort_ok
    | dsimp only
    | split

theorem emit_ok (m : Msg) (s : State) (h : s.ok) : (emit m s).ok := by
  unfold emit
  repeat' first
    | with_reducible assumption
    | with_reducible apply modPeer_ok
    | with_reducible apply putOnLink_ok
    | with_reducible apply setFlow_ok
    | dsimp only
    | split

theorem modRun_ok (p : Nat) (f : Run → Run) (s : State) (h : s.ok) : (modRun p f s).ok := by
  unfold modRun
  repeat' first
    | with_reducible assumption
    | with_reducible apply modPart_ok

theorem openKind_ok (s : State) (h : s.ok) : (openKind s).2.ok := by
  unfold openKind
  repeat' first
    | with_reducible assumption
    | with_reducible apply draw_ok

theorem sendCancels_ok (p : Nat) (s : State) (h : s.ok) : (sendCancels p s).ok := by
  unfold sendCancels
  repeat' first
    | with_reducible assumption
    | with_reducible apply foldl_ok
    | with_reducible apply emit_ok
    | dsimp only
    | split
    | intro _

theorem tearJob_ok (p : Nat) (st : Status) (s : State) (h : s.ok) : (tearJob p st s).ok := by
  unfold tearJob
  repeat' first
    | with_reducible assumption
    | with_reducible apply foldl_ok
    | with_reducible apply sendCancels_ok
    | with_reducible apply modClu_ok
    | with_reducible apply modPart_ok
    | (rename_i x hx; exact Clu.stop_ok x hx)
    | dsimp only
    | split
    | intro _

theorem startPartReset_ok (p : Nat) (s : State) (h : s.ok) : (startPartReset p s).ok := by
  unfold startPartReset
  repeat' first
    | with_reducible assumption
    | with_reducible apply foldl_ok
    | with_reducible apply sendCancels_ok
    | with_reducible apply State.modLnk_ok
    | with_reducible apply modClu_ok
    | with_reducible apply modPart_ok
    | with_reducible apply State.modPresets_ok
    | (rename_i x hx; exact Clu.endContext_ok x hx)
    | dsimp only
    | intro _

theorem contextError_ok (p : Nat) (r : Fault17) (st : Status) (s : State) (h : s.ok) : (contextError p r st s).ok := by
  unfold contextError
  repeat' first
    | with_reducible assumption
    | with_reducible apply addRecord_ok
    | with_reducible apply startPartReset_ok
    | with_reducible apply openHandling_ok
    | with_reducible apply tearJob_ok
    | dsimp only
    | split

theorem failCluster_ok (c : Nat) (s : State) (h : s.ok) : (failCluster c s).ok := by
  unfold failCluster
  repeat' first
    | with_reducible assumption
    | with_reducible apply addRecord_ok
    | with_reducible apply openHandling_ok
    | with_reducible apply modClu_ok
    | (rename_i x hx; exact Clu.ok_of_eq hx rfl rfl rfl rfl rfl rfl rfl rfl rfl rfl)
    | dsimp only
    | split
    | intro _

theorem failArray_ok (c : Nat) (a : Nat) (s : State) (h : s.ok) : (failArray c a s).ok := by
  unfold failArray
  repeat' first
    | with_reducible assumption
    | with_reducible apply modClu_ok
    | with_reducible apply failCluster_ok
    | (rename_i x hx; exact Clu.ok_of_eq hx rfl rfl rfl rfl rfl rfl rfl rfl rfl rfl)
    | dsimp only
    | split
    | intro _

theorem programFault_ok (c : Nat) (addr : Nat) (detail : Nat) (st : Status) (s : State) (h : s.ok)
    : (programFault c addr detail st s).ok := by
  unfold programFault
  repeat' first
    | with_reducible assumption
    | with_reducible apply openKind_ok
    | with_reducible apply contextError_ok
    | dsimp only
    | split

theorem contextFault_ok (c : Nat) (pc : Nat) (cause : Nat) (code : Nat) (s : State) (h : s.ok)
    : (contextFault c pc cause code s).ok := by
  unfold contextFault
  repeat' first
    | with_reducible assumption
    | with_reducible apply programFault_ok
    | with_reducible apply modClu_ok
    | with_reducible apply Clu.modCore_ok _ _ (fun h => h) rfl rfl rfl rfl
    | split
    | intro _

theorem countAcc_ok (c : Nat) (n : Nat) (s : State) (h : s.ok) : (countAcc c n s).ok := by
  unfold countAcc
  repeat' first
    | with_reducible assumption
    | with_reducible apply modClu_ok
    | (rename_i x hx; exact Clu.ok_of_eq hx rfl rfl rfl rfl rfl rfl rfl rfl rfl rfl)
    | dsimp only
    | intro _

theorem countTile_ok (c : Nat) (chk : Bool) (ctr : Nat) (sats : Nat) (replays : Nat) (event : Bool) (under : Bool) (s : State)
    (h : s.ok) : (countTile c chk ctr sats replays event under s).ok := by
  unfold countTile
  repeat' first
    | with_reducible assumption
    | with_reducible apply modClu_ok
    | with_reducible apply modRun_ok
    | with_reducible apply raiseEvent_ok
    | (rename_i x hx; exact Clu.ok_of_eq hx rfl rfl rfl rfl rfl rfl rfl rfl rfl rfl)
    | dsimp only
    | split
    | intro _

theorem poisonOrigin_ok (c : Nat) (n : Nat) (r : Fault17) (s : State) (h : s.ok) : (poisonOrigin c n r s).ok := by
  unfold poisonOrigin
  repeat' first
    | with_reducible assumption
    | with_reducible apply addRecord_ok
    | with_reducible apply modClu_ok
    | (rename_i x hx; exact Clu.ok_of_eq hx rfl rfl rfl rfl rfl rfl rfl rfl rfl rfl)
    | split
    | intro _

theorem applySignal_ok (o : Nat) (n : Nat) (dev : Nat) (clu : Nat) (s : State) (h : s.ok) : (applySignal o n dev clu s).ok := by
  unfold applySignal
  repeat' first
    | with_reducible assumption
    | with_reducible apply programFault_ok
    | with_reducible apply modClu_ok
    | with_reducible apply Clu.modObj_ok
    | dsimp only
    | split

theorem dropSignal_ok (o : Nat) (s : State) (h : s.ok) : (dropSignal o s).ok := by
  unfold dropSignal
  repeat' first
    | with_reducible assumption
    | with_reducible apply modClu_ok
    | with_reducible apply Clu.modObj_ok

theorem sendDevice_ok (c : Nat) (o : Nat) (n : Nat) (s : State) (h : s.ok) : (sendDevice c o n s).ok := by
  unfold sendDevice
  repeat' first
    | with_reducible assumption
    | with_reducible apply State.modSigs_ok
    | with_reducible apply programFault_ok
    | dsimp only
    | split

theorem hostStream_ok (c : Cmd) (done : Nat) (st : List Byte) (s : State) (h : s.ok) : (hostStream c done st s).ok := by
  unfold hostStream
  repeat' first
    | with_reducible assumption
    | with_reducible apply hostData_ok
    | split

theorem deliver_ok (opc : Nat) (c : Cmd) (part : Nat) (r : Reply) (done : Nat) (s : State) (h : s.ok)
    : (deliver opc c part r done s).1.ok := by
  unfold deliver
  repeat' first
    | with_reducible assumption
    | (refine createSet_ok _ _ _ _ _ _ _ _ _ _ ?_ _ (by assumption))
    | with_reducible apply exhausted_ok
    | with_reducible apply hostStream_ok
    | dsimp only
    | split

theorem dropOp_ok (o : RemOp) (s : State) (h : s.ok) : (dropOp o s).ok := by
  unfold dropOp
  repeat' first
    | with_reducible assumption
    | with_reducible apply State.modLnk_ok
    | with_reducible apply modClu_ok
    | with_reducible apply Clu.modQ_ok
    | (rename_i x hx; exact Clu.ok_of_eq hx rfl rfl rfl rfl rfl rfl rfl rfl rfl rfl)
    | dsimp only
    | split
    | intro _

theorem failOp_ok (o : RemOp) (st : Status) (s : State) (h : s.ok) : (failOp o st s).ok := by
  unfold failOp
  repeat' first
    | with_reducible assumption
    | with_reducible apply State.modLnk_ok
    | with_reducible apply modClu_ok
    | with_reducible apply Clu.setPois_ok
    | with_reducible apply poisonOrigin_ok
    | with_reducible apply dropOp_ok
    | with_reducible apply modRun_ok
    | with_reducible apply contextError_ok
    | with_reducible apply Clu.foldl_ok
    | dsimp only
    | split
    | intro _

theorem loseDevice_ok (d : Nat) (s : State) (h : s.ok) : (loseDevice d s).ok := by
  unfold loseDevice
  repeat' first
    | with_reducible assumption
    | with_reducible apply foldl_ok
    | with_reducible apply modPeer_ok
    | with_reducible apply raiseEvent_ok
    | with_reducible apply State.modLnk_ok
    | with_reducible apply failOp_ok
    | dsimp only
    | split
    | intro _

theorem startOp_ok (c : Nat) (e : Nat) (seq : Nat) (dev : Nat) (kind : Nat) (pieces : List (Nat × Nat × Nat)) (msgs : List Msg)
    (s : State) (h : s.ok) : (startOp c e seq dev kind pieces msgs s).ok := by
  unfold startOp
  repeat' first
    | with_reducible assumption
    | with_reducible apply foldl_ok
    | with_reducible apply State.modLnk_ok
    | with_reducible apply modClu_ok
    | with_reducible apply Clu.modQ_ok
    | with_reducible apply failOp_ok
    | with_reducible apply loseDevice_ok
    | with_reducible apply emit_ok
    | dsimp only
    | split
    | intro _

theorem sendRemote_ok (c : Nat) (e : Nat) (seq : Nat) (obj : Nat) (n : Nat) (dev : Nat) (s : State) (h : s.ok)
    : (sendRemote c e seq obj n dev s).ok := by
  unfold sendRemote
  repeat' first
    | with_reducible assumption
    | with_reducible apply startOp_ok

theorem sendSignal_ok (c : Nat) (e : Nat) (seq : Nat) (kind : Nat) (obj : Nat) (n : Nat) (dev : Nat) (s : State) (h : s.ok)
    : (sendSignal c e seq kind obj n dev s).ok := by
  unfold sendSignal
  repeat' first
    | with_reducible assumption
    | with_reducible apply applySignal_ok
    | with_reducible apply sendDevice_ok
    | with_reducible apply sendRemote_ok
    | split

theorem sendParts_ok (typ : Nat) (dev : Nat) (opid : Nat) (jobtag : Nat) (inst : Nat) (b : List Byte) (s : State) (h : s.ok)
    : (sendParts typ dev opid jobtag inst b s).ok := by
  unfold sendParts
  repeat' first
    | with_reducible assumption
    | with_reducible apply foldl_ok
    | with_reducible apply emit_ok
    | dsimp only
    | intro _

theorem answerFan_ok (dev : Nat) (tag : Nat) (st : Status) (blocks : List Byte) (poison : List Nat) (s : State) (h : s.ok)
    : (answerFan dev tag st blocks poison s).ok := by
  unfold answerFan
  repeat' first
    | with_reducible assumption
    | with_reducible apply sendParts_ok

theorem withdrawInserts_ok (key : Nat × Nat) (s : State) (h : s.ok) : (withdrawInserts key s).ok := by
  unfold withdrawInserts
  repeat' first
    | with_reducible assumption
    | with_reducible apply State.modIdx_ok

theorem completeIf_ok (key : Nat × Nat) (st : Status) (dw0 : Nat) (dw1 : Nat) (s : State) (h : s.ok)
    : (completeIf key st dw0 dw1 s).ok := by
  unfold completeIf
  repeat' first
    | with_reducible assumption
    | with_reducible apply complete_ok
    | split

theorem endFor_ok (j : Job) (st : Status) (dw0 : Nat) (dw1 : Nat) (s : State) (h : s.ok) : (endFor j st dw0 dw1 s).ok := by
  unfold endFor
  repeat' first
    | with_reducible assumption
    | with_reducible apply State.modIdx_ok
    | with_reducible apply unuseSets_ok
    | with_reducible apply withdrawInserts_ok
    | with_reducible apply completeIf_ok
    | with_reducible apply modIndex_ok
    | with_reducible apply answerFan_ok
    | dsimp only
    | split

theorem takeJob_ok (j : Job) (s : State) (h : s.ok) : (takeJob j s).ok := by
  unfold takeJob
  repeat' first
    | with_reducible assumption
    | with_reducible apply modPart_ok

theorem modHot_ok (m : Nat) (f : Hot → Hot) (s : State) (h : s.ok) : (modHot m f s).ok := by
  unfold modHot
  repeat' first
    | with_reducible assumption
    | with_reducible apply State.modStore_ok

theorem loadNow_ok (m : Nat) (s : State) (h : s.ok) : ∀ t, loadNow m s = some t → t.ok := by
  exact optBind_ok fun o _ => optBind_ok fun a ha =>
    optMapS_ok (allocate_ok _ _ _ _ _ _ a (optIte_ok ha (some_ok h) fun t e => optMap_ok e fun u => dropUnit_ok u s h))
      fun t h => State.modStore_ok _ h

theorem startLoad_ok (m : Nat) (s : State) (h : s.ok) : ∀ t, startLoad m s = some t → t.ok := by
  unfold startLoad
  repeat' first
    | with_reducible assumption
    | with_reducible refine some_ok ?_
    | with_reducible refine loadNow_ok _ _ ?_ 
    | with_reducible apply State.modStore_ok
    | split

theorem startLoads_ok (a0 : List Nat) (s : State) (h : s.ok) : ∀ t, startLoads a0 s = some t → t.ok := by
  induction a0 generalizing s with
  | nil =>
    unfold startLoads
    repeat' first
      | with_reducible assumption
      | with_reducible refine some_ok ?_
  | cons a l ih =>
    unfold startLoads
    repeat' first
      | with_reducible assumption
      | with_reducible refine ih _ ?_
      | exact none_ok
      | (refine startLoad_ok _ _ ?_ _ (by assumption))
      | split

theorem nextJob_ok (p : Nat) (s : State) (h : s.ok) : (nextJob p s).1.ok := by
  unfold nextJob
  repeat' first
    | with_reducible assumption
    | with_reducible apply modPart_ok
    | dsimp only
    | split

theorem selectJob_ok (p : Nat) (a : Nat) (s : State) (h : s.ok) : (selectJob p a s).1.ok := by
  induction a generalizing s with
  | zero =>
    unfold selectJob
    repeat' first
      | with_reducible assumption
  | succ n ih =>
    unfold selectJob
    repeat' first
      | with_reducible assumption
      | with_reducible apply ih
      | with_reducible apply nextJob_ok
      | (refine startLoads_ok _ _ ?_ _ (by assumption))
      | with_reducible apply takeJob_ok
      | with_reducible apply endFor_ok
      | with_reducible apply exhausted_ok
      | dsimp only
      | split

theorem endPins_ok (m : Nat) (st : Status) (s : State) (h : s.ok) : (endPins m st s).ok := by
  unfold endPins
  repeat' first
    | with_reducible assumption
    | with_reducible apply foldl_ok
    | with_reducible apply complete_ok
    | with_reducible apply State.modStore_ok
    | intro _

theorem pumpLoads_ok (a : Nat) (s : State) (h : s.ok) : (pumpLoads a s).ok := by
  induction a generalizing s with
  | zero =>
    unfold pumpLoads
    repeat' first
      | with_reducible assumption
  | succ n ih =>
    unfold pumpLoads
    repeat' first
      | with_reducible assumption
      | with_reducible apply ih
      | with_reducible apply foldl_ok
      | (refine loadNow_ok _ _ ?_ _ (by assumption))
      | with_reducible apply takeJob_ok
      | with_reducible apply endFor_ok
      | with_reducible apply exhausted_ok
      | with_reducible apply endPins_ok
      | with_reducible apply State.modStore_ok
      | dsimp only
      | split
      | intro _

theorem unuseOrphan_ok (m : Nat) (s : State) (h : s.ok) : (unuseOrphan m s).ok := by
  unfold unuseOrphan
  repeat' first
    | with_reducible assumption
    | with_reducible apply modUnit_ok
    | (with_reducible apply State.modResv_ok _ (fun h => h))

theorem unuseModel_ok (m : Nat) (copy : List Byte) (s : State) (h : s.ok) : (unuseModel m copy s).ok := by
  unfold unuseModel
  repeat' first
    | with_reducible assumption
    | with_reducible apply modUnit_ok
    | with_reducible apply modHot_ok
    | with_reducible apply unuseOrphan_ok
    | dsimp only
    | split

theorem orphanModel_ok (m : Nat) (s : State) (h : s.ok) : (orphanModel m s).ok := by
  unfold orphanModel
  repeat' first
    | with_reducible assumption
    | with_reducible apply State.modStore_ok
    | with_reducible apply freeUnit_ok
    | with_reducible apply modUnit_ok
    | dsimp only
    | split

theorem useModel_ok (m : Nat) (s : State) (h : s.ok) : (useModel m s).ok := by
  unfold useModel
  repeat' first
    | with_reducible assumption
    | with_reducible apply modUnit_ok
    | with_reducible apply modHot_ok

theorem icFail_ok (b : Bad) (c : Cmd) (s : State) (h : s.ok) : (icFail b c s).ok := by
  unfold icFail
  repeat' first
    | with_reducible assumption
    | with_reducible apply doneWith_ok
    | with_reducible apply failWith_ok
    | split

theorem modFan_ok (p : Nat) (f : Fan → Fan) (s : State) (h : s.ok) : (modFan p f s).ok := by
  unfold modFan
  repeat' first
    | with_reducible assumption
    | with_reducible apply State.modLnk_ok

theorem startFan_ok (p : Nat) (c : Cmd) (devs : List Nat) (s : State) (h : s.ok) : (startFan p c devs s).ok := by
  unfold startFan
  repeat' first
    | with_reducible assumption
    | with_reducible apply foldl_ok
    | with_reducible apply State.modLnk_ok
    | with_reducible apply sendParts_ok
    | intro _

theorem memberMissing_ok (p : Nat) (dev : Nat) (st : Status) (s : State) (h : s.ok) : (memberMissing p dev st s).ok := by
  unfold memberMissing
  repeat' first
    | with_reducible assumption
    | with_reducible apply modFan_ok
    | with_reducible apply State.modLnk_ok
    | with_reducible apply modRun_ok
    | with_reducible apply contextError_ok
    | dsimp only
    | split

theorem missUnreachable_ok (p : Nat) (s : State) (h : s.ok) : (missUnreachable p s).ok := by
  unfold missUnreachable
  repeat' first
    | with_reducible assumption
    | with_reducible apply foldl_ok
    | with_reducible apply memberMissing_ok
    | split
    | intro _

theorem modShuffle_ok (tag : Nat) (fdev : Nat) (f : Shuffle → Shuffle) (s : State) (h : s.ok) : (modShuffle tag fdev f s).ok := by
  unfold modShuffle
  repeat' first
    | with_reducible assumption
    | with_reducible apply State.modLnk_ok

theorem shareItem_ok (a0 : Shuffle) (l : Nat) (n : Nat) (side : Nat) (it : Nat × List Byte) (dev : Nat) (s : State) (h : s.ok)
    : (shareItem a0 l n side it dev s).ok := by
  unfold shareItem
  repeat' first
    | with_reducible assumption
    | with_reducible apply foldl_ok
    | with_reducible apply modShuffle_ok
    | with_reducible apply emit_ok
    | dsimp only
    | split
    | intro _

theorem ownerDone_ok (tag : Nat) (fdev : Nat) (owner : Nat) (compared : Nat) (rows : List Byte) (ids : List Nat) (last : Bool)
    (s : State) (h : s.ok) : (ownerDone tag fdev owner compared rows ids last s).ok := by
  unfold ownerDone
  repeat' first
    | with_reducible assumption
    | with_reducible apply modShuffle_ok

theorem dropShuffle_ok (tag : Nat) (fdev : Nat) (s : State) (h : s.ok) : (dropShuffle tag fdev s).ok := by
  unfold dropShuffle
  repeat' first
    | with_reducible assumption
    | with_reducible apply freeUnit_ok
    | with_reducible apply State.modLnk_ok

theorem shufScratch_ok (tag : Nat) (fdev : Nat) (bytes : Nat) (s : State) (h : s.ok) : (shufScratch tag fdev bytes s).1.ok := by
  unfold shufScratch
  repeat' first
    | with_reducible assumption
    | (refine allocate_ok _ _ _ _ _ _ _ ?_ _ (by assumption))
    | with_reducible apply tearJob_ok
    | with_reducible apply exhausted_ok
    | with_reducible apply answerFan_ok
    | with_reducible apply dropShuffle_ok
    | dsimp only
    | split

theorem shuffleStep_ok (tag : Nat) (fdev : Nat) (s : State) (h : s.ok) : (shuffleStep tag fdev s).ok := by
  unfold shuffleStep
  repeat' first
    | with_reducible assumption
    | with_reducible apply foldl_ok
    | with_reducible apply shufScratch_ok
    | with_reducible apply ownerDone_ok
    | with_reducible apply emit_ok
    | with_reducible apply dropShuffle_ok
    | dsimp only
    | split
    | intro _

theorem startShuffle_ok (tag : Nat) (fdev : Nat) (c : Cmd) (s : State) (h : s.ok) : (startShuffle tag fdev c s).ok := by
  unfold startShuffle
  repeat' first
    | with_reducible assumption
    | with_reducible apply foldl_ok
    | with_reducible apply State.modLnk_ok
    | with_reducible apply shufScratch_ok
    | with_reducible apply shareItem_ok
    | with_reducible apply emit_ok
    | with_reducible apply shuffleStep_ok
    | with_reducible apply modShuffle_ok
    | dsimp only
    | split
    | intro _

theorem shuffleWithout_ok (tag : Nat) (fdev : Nat) (dev : Nat) (s : State) (h : s.ok) : (shuffleWithout tag fdev dev s).ok := by
  unfold shuffleWithout
  repeat' first
    | with_reducible assumption
    | with_reducible apply modShuffle_ok
    | with_reducible apply shuffleStep_ok

theorem placeStage_ok (p : Nat) (d : StageD) (st : CoreSt) (prog : Bool) (s : State) (h : s.ok)
    : (placeStage p d st prog s).ok := by
  unfold placeStage
  split
  · exact h
  · dsimp only
    refine foldl_ok (fun s x h => ?_) _ ?_
    · refine modClu_ok _ _ (fun y hy => ?_) h
      by_cases he : (y.core.st == .ended) = true
      · rw [if_pos he]
        exact hy
      · rw [if_neg he]
        have hz : ∀ (i n e : Nat) (l : List Byte), (y.startStage i n e (Mem.cells 0 0 l) st).ok := fun i n e l =>
          Clu.startStage_ok i n e _ st y (Mem.wf_cells _ _) hy
        obtain ⟨h1, h2, h3, -, h5⟩ := hz _ _ _ _
        exact ⟨h1, h2, h3, Mem.wf_nil, h5⟩
    · exact modRun_ok _ _ _ (State.modResv_ok _ (fun hr => Mem.wf_write _ _ (Mem.wf_clear _ _ hr)) h)

theorem placeBare_ok (cs : List Nat) (image : StageImage) (satpol : Nat) (regs : List (Nat × Nat)) (st : CoreSt) (s : State)
    (h : s.ok) : (placeBare cs image satpol regs st s).ok := by
  unfold placeBare
  refine foldl_ok (fun s x h => ?_) _ h
  dsimp only
  refine modClu_ok _ _ (fun y hy => ?_) h
  exact Clu.ok_of_eq (Clu.startStage_ok x.2 cs.length (imgEntry image.image) _ st y (Mem.wf_cells _ _) hy)
    rfl rfl rfl rfl rfl rfl rfl rfl rfl rfl

theorem listPoison_ok (p : Nat) (ids : List Nat) (s : State) (h : s.ok) : (listPoison p ids s).ok := by
  unfold listPoison
  repeat' first
    | with_reducible assumption
    | with_reducible apply modRun_ok
    | with_reducible apply tearJob_ok
    | dsimp only
    | split

theorem absorb_ok (p : Nat) (o : StageOut) (s : State) (h : s.ok) : (absorb p o s).ok := by
  unfold absorb
  repeat' first
    | with_reducible assumption
    | with_reducible apply listPoison_ok
    | with_reducible apply modRun_ok
    | with_reducible apply tearJob_ok
    | dsimp only
    | split

theorem takeScratch_ok (p : Nat) (bytes : Nat) (s : State) (h : s.ok) : (takeScratch p bytes s).ok := by
  unfold takeScratch
  repeat' first
    | with_reducible assumption
    | (refine allocate_ok _ _ _ _ _ _ _ ?_ _ (by assumption))
    | with_reducible apply tearJob_ok
    | with_reducible apply exhausted_ok
    | split

theorem countTiles_ok (cs : List Nat) (l : List Config.Tile) (s : State) (h : s.ok) : (countTiles cs l s).ok := by
  unfold countTiles
  repeat' first
    | with_reducible assumption
    | with_reducible apply foldl_ok
    | with_reducible apply countTile_ok
    | with_reducible apply countAcc_ok
    | dsimp only
    | intro _

theorem runModel_ok (p : Nat) (r : Run) (d : StageD) (recs : List Rec) (bad : List Nat) (s : State) (h : s.ok)
    : (runModel p r d recs bad s).ok := by
  unfold runModel
  repeat' first
    | with_reducible assumption
    | with_reducible apply modPart_ok
    | with_reducible apply countTiles_ok
    | with_reducible apply absorb_ok

theorem stageLost_ok (r : Run) (d : StageD) (s : State) (h : s.ok) : (stageLost r d s).ok := by
  unfold stageLost
  repeat' first
    | with_reducible assumption
    | with_reducible apply foldl_ok
    | with_reducible apply poisonOrigin_ok
    | dsimp only
    | split
    | intro _

theorem indexLost_ok (r : Run) (frames : List Nat) (s : State) (h : s.ok) : (indexLost r frames s).ok := by
  unfold indexLost
  repeat' first
    | with_reducible assumption
    | with_reducible apply poisonOrigin_ok

theorem runBuiltin_ok (p : Nat) (r : Run) (d : StageD) (s : State) (h : s.ok) : (runBuiltin p r d s).ok := by
  unfold runBuiltin
  repeat' first
    | with_reducible assumption
    | with_reducible apply stageLost_ok
    | with_reducible apply absorb_ok
    | with_reducible apply runModel_ok
    | with_reducible apply stageInsert_ok
    | with_reducible apply stageSearch_ok
    | with_reducible apply indexLost_ok
    | with_reducible apply missUnreachable_ok
    | with_reducible apply startFan_ok
    | with_reducible apply stageRecall_ok
    | with_reducible apply takeScratch_ok
    | with_reducible apply startShuffle_ok
    | (extract_lets +onlyGivenNames x; refine cut_ok (s := x) ?_ fun _ => ?_; rotate_left; clear_value x; rotate_right; subst x)
    | extract_lets +onlyGivenNames y
    | split

theorem enterStage_ok (p : Nat) (s : State) (h : s.ok) : (enterStage p s).ok := by
  unfold enterStage
  repeat' first
    | with_reducible assumption
    | with_reducible apply Clu.loadImages_ok
    | with_reducible apply foldl_ok
    | with_reducible apply modClu_ok
    | with_reducible apply modRun_ok
    | with_reducible apply placeBare_ok
    | with_reducible apply placeStage_ok
    | with_reducible apply runBuiltin_ok
    | dsimp only
    | split
    | intro _

theorem stageOutput_ok (p : Nat) (s : State) (h : s.ok) : (stageOutput p s).ok := by
  unfold stageOutput
  repeat' first
    | with_reducible assumption
    | with_reducible apply listPoison_ok
    | with_reducible apply metUndelivered_ok
    | with_reducible apply absorb_ok
    | with_reducible apply modRun_ok
    | dsimp only
    | split

theorem mergeFan_ok (p : Nat) (s : State) (h : s.ok) : (mergeFan p s).ok := by
  unfold mergeFan
  repeat' first
    | with_reducible assumption
    | with_reducible apply absorb_ok
    | with_reducible apply modRun_ok
    | with_reducible apply takeScratch_ok
    | dsimp only
    | split

theorem chargeQueue_ok (p : Nat) (jq : Nat) (n : Nat) (s : State) (h : s.ok) : (chargeQueue p jq n s).ok := by
  unfold chargeQueue
  repeat' first
    | with_reducible assumption
    | with_reducible apply modPart_ok

theorem closeRun_ok (p : Nat) (s : State) (h : s.ok) : (closeRun p s).ok := by
  unfold closeRun
  repeat' first
    | with_reducible assumption
    | with_reducible apply foldl_ok
    | with_reducible apply modClu_ok
    | with_reducible apply freeUnit_ok
    | with_reducible apply unuseModel_ok
    | with_reducible apply State.modLnk_ok
    | with_reducible apply modPart_ok
    | with_reducible apply chargeQueue_ok
    | with_reducible apply Clu.endContext_ok
    | dsimp only
    | split
    | intro _

theorem refusedBusy_ok (j : Job) (s : State) (h : s.ok) : (refusedBusy j s).ok := by
  unfold refusedBusy
  repeat' first
    | with_reducible assumption
    | with_reducible apply endFor_ok
    | with_reducible apply modPart_ok
    | dsimp only
    | split

theorem placeJob_ok (j : Job) (s : State) (h : s.ok) : (placeJob j s).ok := by
  unfold placeJob
  repeat' first
    | with_reducible assumption
    | with_reducible apply refusedBusy_ok
    | with_reducible apply modPart_ok
    | split

theorem nextPublish_ok (nsid : Nat) (idx : Nat) (s : State) (h : s.ok) : (nextPublish nsid idx s).ok := by
  unfold nextPublish
  repeat' first
    | with_reducible assumption
    | with_reducible apply modIndex_ok
    | with_reducible apply placeJob_ok
    | dsimp only
    | split

theorem endMaintenance_ok (r : Run) (s : State) (h : s.ok) : (endMaintenance r s).1.ok := by
  unfold endMaintenance
  repeat' first
    | with_reducible assumption
    | with_reducible apply touchParts_ok
    | with_reducible apply modIndex_ok
    | with_reducible apply dropUnits_ok
    | with_reducible apply nextPublish_ok
    | dsimp only
    | split

theorem endJob_ok (p : Nat) (s : State) (h : s.ok) : (endJob p s).ok := by
  unfold endJob
  repeat' first
    | with_reducible assumption
    | with_reducible apply endMaintenance_ok
    | with_reducible apply closeRun_ok
    | with_reducible apply endFor_ok
    | with_reducible apply answerFan_ok
    | with_reducible apply deliver_ok
    | with_reducible apply tearJob_ok
    | with_reducible apply modRun_ok
    | dsimp only
    | split

theorem stageDone_ok (p : Nat) (s : State) (h : s.ok) : (stageDone p s).ok := by
  unfold stageDone
  repeat' first
    | with_reducible assumption
    | with_reducible apply mergeFan_ok
    | with_reducible apply stageOutput_ok
    | with_reducible apply endJob_ok
    | (refine allocate_ok _ _ _ _ _ _ _ ?_ _ (by assumption))
    | with_reducible apply freeUnit_ok
    | with_reducible apply tearJob_ok
    | with_reducible apply exhausted_ok
    | with_reducible apply enterStage_ok
    | with_reducible apply modRun_ok
    | dsimp only
    | split

theorem extendMeas_ok (i : Nat) (d : List Byte) (s : State) (h : s.ok) : (extendMeas i d s).ok := by
  unfold extendMeas
  repeat' first
    | with_reducible assumption
    | with_reducible apply State.modSec_ok

theorem measurePolicy_ok (s : State) (h : s.ok) : (measurePolicy s).ok := by
  unfold measurePolicy
  repeat' first
    | with_reducible assumption
    | with_reducible apply extendMeas_ok

theorem debugAct_ok (level : Nat) (action : Nat) (unit : Nat) (off : Nat) (v : Nat) (s : State) (h : s.ok)
    : (debugAct level action unit off v s).1.ok := by
  unfold debugAct
  repeat' first
    | with_reducible assumption
    | with_reducible apply State.modSec_ok
    | with_reducible apply extendMeas_ok
    | dsimp only
    | split

theorem ownerRecord_ok (r : List Byte) (s : State) (h : s.ok) : ∀ t, ownerRecord r s = some t → t.ok := by
  unfold ownerRecord
  repeat' first
    | with_reducible assumption
    | exact none_ok
    | with_reducible refine some_ok ?_
    | with_reducible apply measurePolicy_ok
    | with_reducible apply State.modSec_ok
    | dsimp only
    | split

theorem attestShort_ok (c : Cmd) (need : Nat) (s : State) (h : s.ok) : (attestShort c need s).ok := by
  unfold attestShort
  repeat' first
    | with_reducible assumption
    | with_reducible apply doneWith_ok

theorem attest_ok (c : Cmd) (k : State → State) (s : State) (h2 : ∀ s : State, s.ok → (k s).ok) (h : s.ok)
    : (attest c k s).ok := by
  unfold attest
  repeat' first
    | with_reducible assumption
    | apply h2
    | with_reducible apply badDword_ok
    | split

theorem attestCerts_ok (c : Cmd) (s : State) (h : s.ok) : (attestCerts c s).ok := by
  unfold attestCerts
  repeat' first
    | with_reducible assumption
    | with_reducible apply attest_ok
    | with_reducible apply attestShort_ok
    | with_reducible apply ok_ok
    | with_reducible apply hostData_ok
    | split
    | intro _

theorem attestQuoteOp_ok (c : Cmd) (s : State) (h : s.ok) : (attestQuoteOp c s).ok := by
  unfold attestQuoteOp
  repeat' first
    | with_reducible assumption
    | with_reducible apply attest_ok
    | with_reducible apply attestShort_ok
    | with_reducible apply ok_ok
    | with_reducible apply hostData_ok
    | split
    | intro _

theorem attestOwnerOp_ok (c : Cmd) (s : State) (h : s.ok) : (attestOwnerOp c s).ok := by
  unfold attestOwnerOp
  repeat' first
    | with_reducible assumption
    | with_reducible apply attest_ok
    | with_reducible apply attestShort_ok
    | (refine ownerRecord_ok _ _ ?_ _ (by assumption))
    | with_reducible apply done_ok
    | with_reducible apply doneWith_ok
    | split
    | intro _

theorem effAttest_ok (c : Cmd) (s : State) (h : s.ok) : (effAttest c s).ok := by
  unfold effAttest
  repeat' first
    | with_reducible assumption
    | with_reducible apply attestCerts_ok
    | with_reducible apply attestQuoteOp_ok
    | with_reducible apply attestOwnerOp_ok
    | with_reducible apply badDword_ok
    | split

theorem State.asHeld_ok (s : State) (key : Nat × Nat) (h : s.ok) : (State.asHeld s key).ok := by
  unfold State.asHeld
  repeat' first
    | with_reducible assumption
    | with_reducible apply State.modRes_ok
    | with_reducible apply State.modIdx_ok

theorem refuse_ok (j : Job) (b : Bad) (s : State) (h : s.ok) : (refuse j b s).ok := by
  unfold refuse
  repeat' first
    | with_reducible assumption
    | with_reducible apply takeJob_ok
    | with_reducible apply endFor_ok
    | with_reducible apply modPart_ok
    | (with_reducible refine getD_ok (startLoads_ok _ _ ?_ ) ?_)
    | dsimp only
    | split

theorem dispatched_ok (j : Job) (s : State) (h : s.ok) : (dispatched j s).ok := by
  unfold dispatched
  repeat' first
    | with_reducible assumption
    | with_reducible apply foldl_ok
    | with_reducible apply modPart_ok
    | with_reducible apply takeJob_ok
    | with_reducible apply useModel_ok
    | intro _

theorem startContexts_ok (cs : List Nat) (s : State) (h : s.ok) : (startContexts cs s).ok := by
  unfold startContexts
  repeat' first
    | with_reducible assumption
    | with_reducible apply foldl_ok
    | with_reducible apply useGrants_ok
    | with_reducible apply modClu_ok
    | with_reducible apply Clu.startContext_ok
    | intro _

theorem takeRegions_ok (j : Job) (s : State) (h : s.ok) : ∀ t, takeRegions j s = some t → t.ok := by
  unfold takeRegions
  repeat' first
    | with_reducible assumption
    | with_reducible refine some_ok ?_
    | with_reducible refine allocate_ok _ _ _ _ _ _ _ ?_ 
    | dsimp only
    | split

theorem startRun_ok (j : Job) (s : State) (h : s.ok) : (startRun j s).ok := by
  unfold startRun
  repeat' first
    | with_reducible assumption
    | with_reducible apply State.asHeld_ok
    | (refine takeRegions_ok _ _ ?_ _ (by assumption))
    | with_reducible apply endFor_ok
    | with_reducible apply takeJob_ok
    | with_reducible apply exhausted_ok
    | with_reducible apply dispatched_ok
    | with_reducible apply State.modLnk_ok
    | with_reducible apply modIndex_ok
    | with_reducible apply modPart_ok
    | with_reducible apply enterStage_ok
    | with_reducible apply startContexts_ok
    | (extract_lets +onlyGivenNames x; refine cut_ok (s := x) ?_ fun _ => ?_; rotate_left; clear_value x; rotate_right; subst x)
    | extract_lets +onlyGivenNames y
    | dsimp only
    | split

theorem modBatch_ok (p : Nat) (f : Batch → Batch) (s : State) (h : s.ok) : (modBatch p f s).ok := by
  unfold modBatch
  repeat' first
    | with_reducible assumption
    | with_reducible apply modPart_ok

theorem addMember_ok (p : Nat) (j : Job) (s : State) (h : s.ok) : (addMember p j s).ok := by
  unfold addMember
  repeat' first
    | with_reducible assumption
    | with_reducible apply dispatched_ok
    | with_reducible apply modBatch_ok
    | dsimp only
    | split

theorem joinLoop_ok (p : Nat) (a : Nat) (s : State) (h : s.ok) : (joinLoop p a s).ok := by
  induction a generalizing s with
  | zero =>
    unfold joinLoop
    repeat' first
      | with_reducible assumption
  | succ n ih =>
    unfold joinLoop
    repeat' first
      | with_reducible assumption
      | with_reducible apply ih
      | with_reducible apply modPart_ok
      | with_reducible apply modBatch_ok
      | with_reducible apply nextJob_ok
      | with_reducible apply refuse_ok
      | with_reducible apply addMember_ok
      | (refine startLoads_ok _ _ ?_ _ (by assumption))
      | with_reducible apply endFor_ok
      | with_reducible apply takeJob_ok
      | with_reducible apply exhausted_ok
      | dsimp only
      | split

theorem writeLeft_ok (p : Nat) (o : Stored) (m : Member) (s : State) (h : s.ok) : (writeLeft p o m s).ok := by
  unfold writeLeft
  repeat' first
    | with_reducible assumption
    | with_reducible apply hostData_ok
    | with_reducible apply modBatch_ok
    | dsimp only
    | split

theorem leaveBatch_ok (p : Nat) (copy : List Byte) (m : Member) (s : State) (h : s.ok) : (leaveBatch p copy m s).ok := by
  unfold leaveBatch
  repeat' first
    | with_reducible assumption
    | with_reducible apply foldl_ok
    | with_reducible apply unuseModel_ok
    | with_reducible apply modPart_ok
    | intro _

theorem finishMember_ok (p : Nat) (o : Stored) (m : Member) (s : State) (h : s.ok) : (finishMember p o m s).ok := by
  unfold finishMember
  repeat' first
    | with_reducible assumption
    | with_reducible apply deliver_ok
    | with_reducible apply endFor_ok
    | with_reducible apply leaveBatch_ok
    | with_reducible apply tearJob_ok
    | dsimp only
    | split

theorem finishMembers_ok (p : Nat) (s : State) (h : s.ok) : (finishMembers p s).ok := by
  unfold finishMembers
  repeat' first
    | with_reducible assumption
    | with_reducible apply foldl_ok
    | with_reducible apply finishMember_ok
    | dsimp only
    | split
    | intro _

theorem closeBatch_ok (p : Nat) (s : State) (h : s.ok) : (closeBatch p s).ok := by
  unfold closeBatch
  repeat' first
    | with_reducible assumption
    | with_reducible apply foldl_ok
    | with_reducible apply freeUnit_ok
    | with_reducible apply modClu_ok
    | with_reducible apply modPart_ok
    | with_reducible apply Clu.endContext_ok
    | dsimp only
    | split
    | intro _

theorem stepImages_ok (b : Batch) (s : State) (h : s.ok) : (stepImages b s).ok := by
  unfold stepImages
  refine foldl_ok (fun s c h => modClu_ok _ _ (fun x hx => ?_) h) _ h
  dsimp only
  by_cases hb : b.images.length ≤ 1
  · rw [if_pos hb]
    exact Clu.ok_of_eq hx rfl rfl rfl rfl rfl rfl rfl rfl rfl rfl
  · rw [if_neg hb]
    exact Clu.ok_of_eq (Clu.loadImages_ok b.images x hx) rfl rfl rfl rfl rfl rfl rfl rfl rfl rfl

theorem nextStep_ok (p : Nat) (s : State) (h : s.ok) : (nextStep p s).ok := by
  unfold nextStep
  repeat' first
    | with_reducible assumption
    | with_reducible apply finishMembers_ok
    | with_reducible apply joinLoop_ok
    | with_reducible apply tearJob_ok
    | with_reducible apply closeBatch_ok
    | with_reducible apply stepImages_ok
    | with_reducible apply modBatch_ok
    | dsimp only
    | split

theorem startBatch_ok (j : Job) (s : State) (h : s.ok) : (startBatch j s).ok := by
  unfold startBatch
  repeat' first
    | with_reducible assumption
    | with_reducible apply Clu.loadImages_ok
    | with_reducible apply foldl_ok
    | (refine takeRegions_ok _ _ ?_ _ (by assumption))
    | with_reducible apply endFor_ok
    | with_reducible apply takeJob_ok
    | with_reducible apply exhausted_ok
    | with_reducible apply startContexts_ok
    | with_reducible apply modPart_ok
    | with_reducible apply modClu_ok
    | with_reducible apply nextStep_ok
    | with_reducible apply addMember_ok
    | with_reducible apply placeBare_ok
    | dsimp only
    | split
    | intro _

theorem spareArray_ok (c : Nat) (s : State) (h : s.ok) : (spareArray c s).ok := by
  unfold spareArray
  repeat' first
    | with_reducible assumption
    | with_reducible apply modClu_ok
    | with_reducible apply addRecord_ok
    | with_reducible apply losePromise_ok
    | (rename_i x hx; exact Clu.ok_of_eq hx rfl rfl rfl rfl rfl rfl rfl rfl rfl rfl)
    | dsimp only
    | split
    | intro _

theorem spareCluster_ok (c : Nat) (s : State) (h : s.ok) : (spareCluster c s).ok := by
  unfold spareCluster
  repeat' first
    | with_reducible assumption
    | with_reducible apply addRecord_ok
    | with_reducible apply State.modGen_ok
    | with_reducible apply modClu_ok
    | with_reducible apply raiseEvent_ok
    | with_reducible apply losePromise_ok
    | with_reducible apply closeHandling_ok
    | (rename_i x hx; exact Clu.ok_of_eq hx rfl rfl rfl rfl rfl rfl rfl rfl rfl rfl)
    | dsimp only
    | split
    | intro _

theorem substituteIn_ok (c : Nat) (s : State) (h : s.ok) : (substituteIn c s).ok := by
  unfold substituteIn
  repeat' first
    | with_reducible assumption
    | with_reducible apply spareCluster_ok
    | with_reducible apply spareArray_ok
    | split

theorem substitute_ok (p : Nat) (s : State) (h : s.ok) : (substitute p s).ok := by
  unfold substitute
  repeat' first
    | with_reducible assumption
    | with_reducible apply foldl_ok
    | with_reducible apply substituteIn_ok
    | intro _

theorem attempt_ok (j : Job) (s : State) (h : s.ok) : (attempt j s).ok := by
  unfold attempt
  repeat' first
    | with_reducible assumption
    | with_reducible apply foldl_ok
    | with_reducible apply substitute_ok
    | with_reducible apply modPart_ok
    | with_reducible apply refuse_ok
    | with_reducible apply wakeClusters_ok
    | with_reducible apply modClu_ok
    | with_reducible apply startBatch_ok
    | with_reducible apply startRun_ok
    | (rename_i x hx; exact Clu.ok_of_eq hx rfl rfl rfl rfl rfl rfl rfl rfl rfl rfl)
    | dsimp only
    | split
    | intro _

theorem refuseDeadlines_ok (p : Nat) (s : State) (h : s.ok) : (refuseDeadlines p s).ok := by
  unfold refuseDeadlines
  repeat' first
    | with_reducible assumption
    | with_reducible apply foldl_ok
    | with_reducible apply refuse_ok
    | intro _

theorem trySelect_ok (p : Nat) (a : Nat) (s : State) (h : s.ok) : (trySelect p a s).ok := by
  induction a generalizing s with
  | zero =>
    unfold trySelect
    repeat' first
      | with_reducible assumption
  | succ n ih =>
    unfold trySelect
    repeat' first
      | with_reducible assumption
      | with_reducible apply ih
      | with_reducible apply refuseDeadlines_ok
      | with_reducible apply attempt_ok
      | with_reducible apply selectJob_ok
      | with_reducible apply modPart_ok
      | with_reducible apply takeJob_ok
      | dsimp only
      | split

theorem kick_ok (p : Nat) (s : State) (h : s.ok) : (kick p s).ok := by
  unfold kick
  repeat' first
    | with_reducible assumption
    | with_reducible apply trySelect_ok
    | split

theorem kickAll_ok (s : State) (h : s.ok) : (kickAll s).ok := by
  unfold kickAll
  repeat' first
    | with_reducible assumption
    | with_reducible apply foldl_ok
    | with_reducible apply kick_ok
    | split
    | intro _

theorem boundary_ok (p : Nat) (s : State) (h : s.ok) : (boundary p s).ok := by
  unfold boundary
  repeat' first
    | with_reducible assumption
    | with_reducible apply kick_ok
    | with_reducible apply substitute_ok
    | with_reducible apply modPart_ok
    | dsimp only
    | split

end Sys2Proof.Machine
end

