-- ==== Sys2Proof/Laws/KeepAdmin.lean ====
section
/-! SUPPORT. What keeps a safe state: the commands from their fetch to their effect, the registers, the start sequence, resets. -/

namespace Sys2Proof.Machine

theorem effJob_ok (opc : Nat) (c : Cmd) (s : State) (h : s.ok) : (effJob opc c s).ok := by
  unfold effJob
  repeat' first
    | with_reducible assumption
    | with_reducible apply foldl_ok
    | with_reducible apply failWith_ok
    | with_reducible apply useSet_ok
    | with_reducible apply placeJob_ok
    | with_reducible apply setPhase_ok
    | dsimp only
    | split
    | intro _

theorem effIndexDelete_ok (c : Cmd) (s : State) (h : s.ok) : (effIndexDelete c s).ok := by
  unfold effIndexDelete
  repeat' first
    | with_reducible assumption
    | with_reducible apply failWith_ok
    | with_reducible apply badDword_ok
    | with_reducible apply doneWith_ok
    | with_reducible apply modIndex_ok
    | dsimp only
    | split

theorem effIndexPublish_ok (c : Cmd) (s : State) (h : s.ok) : (effIndexPublish c s).ok := by
  unfold effIndexPublish
  repeat' first
    | with_reducible assumption
    | with_reducible apply failWith_ok
    | with_reducible apply badDword_ok
    | with_reducible apply doneWith_ok
    | with_reducible apply modIndex_ok
    | with_reducible apply setPhase_ok
    | dsimp only
    | split

theorem effIndexCompact_ok (c : Cmd) (s : State) (h : s.ok) : (effIndexCompact c s).ok := by
  unfold effIndexCompact
  repeat' first
    | with_reducible assumption
    | with_reducible apply failWith_ok
    | with_reducible apply badDword_ok
    | with_reducible apply done_ok
    | with_reducible apply placeJob_ok
    | with_reducible apply setPhase_ok
    | dsimp only
    | split

theorem undeliveredIn_ok (b : List Byte) (s : State) (h : s.ok) : (undeliveredIn b s).2.ok := by
  unfold undeliveredIn
  repeat' first
    | with_reducible assumption
    | with_reducible apply draw_ok
    | with_reducible apply drawBytes_ok

theorem fetchFails_ok (c : Cmd) (s : State) (h : s.ok) : (fetchFails c s).ok := by
  unfold fetchFails
  repeat' first
    | with_reducible assumption
    | with_reducible apply draw_ok
    | with_reducible apply addRecord_ok

theorem effResultFetch_ok (c : Cmd) (s : State) (h : s.ok) : (effResultFetch c s).ok := by
  unfold effResultFetch
  repeat' first
    | with_reducible assumption
    | with_reducible apply failWith_ok
    | with_reducible apply badDword_ok
    | with_reducible apply unuseSets_ok
    | with_reducible apply useSet_ok
    | with_reducible apply doneWith_ok
    | with_reducible apply hostData_ok
    | with_reducible apply fetchFails_ok
    | with_reducible apply done_ok
    | (with_reducible apply State.modResv_ok _ (fun h => h))
    | with_reducible apply undeliveredIn_ok
    | dsimp only
    | split

theorem effResultRelease_ok (c : Cmd) (s : State) (h : s.ok) : (effResultRelease c s).ok := by
  unfold effResultRelease
  repeat' first
    | with_reducible assumption
    | with_reducible apply failWith_ok
    | with_reducible apply badDword_ok
    | with_reducible apply ok_ok
    | with_reducible apply releaseSet_ok
    | split

theorem effIndexCreate_ok (c : Cmd) (s : State) (h : s.ok) : (effIndexCreate c s).ok := by
  unfold effIndexCreate
  repeat' first
    | with_reducible assumption
    | with_reducible apply done_ok
    | with_reducible apply icFail_ok
    | with_reducible apply placeJob_ok
    | with_reducible apply setPhase_ok
    | with_reducible apply State.modIdx_ok
    | dsimp only
    | split

theorem closeIndex_ok (order : Nat) (c : Cmd) (s : State) (h : s.ok) : (closeIndex order c s).ok := by
  unfold closeIndex
  repeat' first
    | with_reducible assumption
    | with_reducible apply State.modIdx_ok

theorem reopenIndex_ok (order : Nat) (s : State) (h : s.ok) : (reopenIndex order s).ok := by
  unfold reopenIndex
  repeat' first
    | with_reducible assumption
    | with_reducible apply State.modIdx_ok

theorem removeIndex_ok (nsid : Nat) (id : Nat) (s : State) (h : s.ok) : (removeIndex nsid id s).ok := by
  unfold removeIndex
  repeat' first
    | with_reducible assumption
    | (with_reducible apply State.modResv_ok _ (fun h => h))
    | with_reducible apply dropUnits_ok
    | with_reducible apply State.modIdx_ok
    | dsimp only
    | split

theorem effIndexDrop_ok (c : Cmd) (s : State) (h : s.ok) : (effIndexDrop c s).ok := by
  unfold effIndexDrop
  repeat' first
    | with_reducible assumption
    | with_reducible apply closeIndex_ok
    | with_reducible apply done_ok
    | with_reducible apply reopenIndex_ok
    | with_reducible apply badDword_ok
    | with_reducible apply setPhase_ok
    | dsimp only
    | split

theorem effCreateCq_ok (c : Cmd) (s : State) (h : s.ok) : (effCreateCq c s).ok := by
  unfold effCreateCq
  repeat' first
    | with_reducible assumption
    | with_reducible apply done_ok
    | with_reducible apply badField_ok
    | with_reducible apply ok_ok
    | with_reducible apply State.modNvm_ok
    | dsimp only
    | split

theorem effCreateSq_ok (c : Cmd) (s : State) (h : s.ok) : (effCreateSq c s).ok := by
  unfold effCreateSq
  repeat' first
    | with_reducible assumption
    | with_reducible apply done_ok
    | with_reducible apply badField_ok
    | with_reducible apply ok_ok
    | with_reducible apply State.modNvm_ok
    | dsimp only
    | split

theorem effDeleteCq_ok (c : Cmd) (s : State) (h : s.ok) : (effDeleteCq c s).ok := by
  unfold effDeleteCq
  repeat' first
    | with_reducible assumption
    | with_reducible apply done_ok
    | with_reducible apply ok_ok
    | with_reducible apply State.modNvm_ok
    | dsimp only
    | split

theorem undoFetch_ok (order : Nat) (s : State) (h : s.ok) : (undoFetch order s).ok := by
  unfold undoFetch
  repeat' first
    | with_reducible assumption
    | with_reducible apply State.modNss_map_ok
    | with_reducible apply reopenIndex_ok
    | with_reducible exact Ns.wf_of (by assumption)
    | with_reducible apply Ns.ok_of
    | dsimp only
    | split
    | intro _

theorem catchRunning_ok (key : Nat × Nat) (st : Status) (s : State) (h : s.ok) : (catchRunning key st s).1.ok := by
  unfold catchRunning
  repeat' first
    | with_reducible assumption
    | with_reducible apply modBatch_ok
    | with_reducible apply tearJob_ok
    | split

theorem catchFlight_ok (f : Flight) (st : Status) (s : State) (h : s.ok) : (catchFlight f st s).1.ok := by
  unfold catchFlight
  repeat' first
    | with_reducible assumption
    | with_reducible apply complete_ok
    | with_reducible apply State.modNvm_ok
    | with_reducible apply undoFetch_ok
    | with_reducible apply endFor_ok
    | with_reducible apply takeJob_ok
    | with_reducible apply catchRunning_ok
    | dsimp only
    | split

theorem catchUnfetched_ok (sqid : Nat) (cid : Nat) (st : Status) (s : State) (h : s.ok)
    : ∀ t, catchUnfetched sqid cid st s = some t → t.ok := by
  unfold catchUnfetched
  repeat' first
    | with_reducible assumption
    | exact none_ok
    | with_reducible refine some_ok ?_
    | with_reducible apply State.modNvm_ok
    | with_reducible apply completeFlight_ok
    | dsimp only
    | split

theorem abortCaught_ok (c : Cmd) (s : State) (h : s.ok) : (abortCaught c s).ok := by
  unfold abortCaught
  repeat' first
    | with_reducible assumption
    | with_reducible apply setPhase_ok
    | with_reducible apply doneWith_ok
    | split

theorem effAbort_ok (c : Cmd) (s : State) (h : s.ok) : (effAbort c s).ok := by
  unfold effAbort
  repeat' first
    | with_reducible assumption
    | with_reducible apply done_ok
    | (refine fst_ok (by assumption) (catchFlight_ok _ _ _ ?_ ))
    | with_reducible apply doneWith_ok
    | with_reducible apply abortCaught_ok
    | (refine catchUnfetched_ok _ _ _ _ ?_ _ (by assumption))
    | dsimp only
    | split

theorem effDeleteSq_ok (c : Cmd) (s : State) (h : s.ok) : (effDeleteSq c s).ok := by
  unfold effDeleteSq
  repeat' first
    | with_reducible assumption
    | with_reducible apply foldl_ok
    | with_reducible apply done_ok
    | with_reducible apply State.modNvm_ok
    | with_reducible apply catchFlight_ok
    | with_reducible apply setPhase_ok
    | dsimp only
    | split
    | intro _

theorem postEvents_ok (a : Nat) (s : State) (h : s.ok) : (postEvents a s).ok := by
  induction a generalizing s with
  | zero =>
    unfold postEvents
    repeat' first
      | with_reducible assumption
  | succ n ih =>
    unfold postEvents
    repeat' first
      | with_reducible assumption
      | with_reducible apply ih
      | with_reducible apply State.modNvm_ok
      | with_reducible apply complete_ok
      | dsimp only
      | split

theorem deliverEvents_ok (s : State) (h : s.ok) : (deliverEvents s).ok := by
  unfold deliverEvents
  repeat' first
    | with_reducible assumption
    | with_reducible apply postEvents_ok

theorem effAer_ok (c : Cmd) (s : State) (h : s.ok) : (effAer c s).ok := by
  unfold effAer
  repeat' first
    | with_reducible assumption
    | with_reducible apply done_ok
    | with_reducible apply deliverEvents_ok
    | with_reducible apply setPhase_ok
    | with_reducible apply State.modNvm_ok
    | split

theorem unmask_ok (page : Nat) (s : State) (h : s.ok) : (unmask page s).ok := by
  unfold unmask
  repeat' first
    | with_reducible assumption
    | with_reducible apply deliverEvents_ok
    | with_reducible apply State.modNvm_ok

theorem effGetFeatures_ok (c : Cmd) (s : State) (h : s.ok) : (effGetFeatures c s).ok := by
  unfold effGetFeatures
  repeat' first
    | with_reducible assumption
    | with_reducible apply badField_ok
    | with_reducible apply doneWith_ok
    | with_reducible apply ok_ok
    | with_reducible apply hostData_ok
    | dsimp only
    | split

theorem endSelfTest_ok (result : Nat) (segment : Nat) (s : State) (h : s.ok) : (endSelfTest result segment s).ok := by
  unfold endSelfTest
  repeat' first
    | with_reducible assumption
    | (with_reducible apply State.modMgmt_ok _ (fun h => h))
    | split

theorem setPower_ok (c : Cmd) (s : State) (h : s.ok) : (setPower c s).ok := by
  have h1 : (setPhase c.sqid c.cid .executing s).ok := setPhase_ok _ _ _ _ h
  have key : ∀ x : State, x.ok → ¬ 4 < bits c.cdw11.toNat 4 0 → ¬ bits c.cdw11.toNat 4 0 ≤ 2 →
      (x.modMgmt fun m => { m with
        entry := some (bits c.cdw11.toNat 4 0, c.sqid, c.cid)
        lastOp := if m.ps ≤ 2 then m.ps else m.lastOp }).ok := by
    intro x hx h4 h2
    refine State.modMgmt_ok _ (fun hm => ⟨hm.1, ?_, fun e he => ?_⟩) hx
    · dsimp only
      split
      · assumption
      · exact hm.2.1
    · cases he
      dsimp only
      omega
  unfold setPower
  dsimp only
  by_cases h4 : 4 < bits c.cdw11.toNat 4 0
  · rw [if_pos h4]
    exact badField_ok _ _ h
  · rw [if_neg h4]
    by_cases hp : bits c.cdw11.toNat 4 0 ≤ 2
    · rw [if_pos hp]
      exact State.modPwr_ok _ (fun _ e he => by cases he; exact hp) h1
    · rw [if_neg hp]
      exact key _ (ite_ok (endSelfTest_ok _ _ _ h1) (State.modMgmt_ok _ (fun h => h) h1)) h4 hp

theorem setStamp_ok (c : Cmd) (s : State) (h : s.ok) : (setStamp c s).ok := by
  unfold setStamp
  repeat' first
    | with_reducible assumption
    | with_reducible apply ok_ok
    | with_reducible apply State.modNvm_ok
    | with_reducible apply countOff_ok

theorem effSetFeatures_ok (c : Cmd) (s : State) (h : s.ok) : (effSetFeatures c s).ok := by
  unfold effSetFeatures
  repeat' first
    | with_reducible assumption
    | with_reducible apply badField_ok
    | with_reducible apply done_ok
    | with_reducible apply State.modNvm_ok
    | with_reducible apply setPower_ok
    | with_reducible apply setStamp_ok
    | with_reducible apply ok_ok
    | with_reducible apply smartEvent_ok
    | dsimp only
    | split

theorem effSelfTest_ok (c : Cmd) (s : State) (h : s.ok) : (effSelfTest c s).ok := by
  unfold effSelfTest
  repeat' first
    | with_reducible assumption
    | with_reducible apply done_ok
    | with_reducible apply ok_ok
    | (with_reducible apply State.modMgmt_ok _ (fun h => h))
    | with_reducible apply endSelfTest_ok
    | with_reducible apply badField_ok
    | dsimp only
    | split

theorem selfTestStep_ok (seg : Nat) (unit : Nat) (passed : Bool) (s : State) (h : s.ok) : (selfTestStep seg unit passed s).ok := by
  unfold selfTestStep
  repeat' first
    | with_reducible assumption
    | (with_reducible apply State.modMgmt_ok _ (fun h => h))
    | with_reducible apply endSelfTest_ok
    | dsimp only
    | split

theorem selfTestExpires_ok (s : State) (h : s.ok) : (selfTestExpires s).ok := by
  unfold selfTestExpires
  repeat' first
    | with_reducible assumption
    | with_reducible apply endSelfTest_ok
    | split

theorem deviceLost_ok (d : Nat) (s : State) (h : s.ok) : (deviceLost d s).ok := by
  unfold deviceLost
  repeat' first
    | with_reducible assumption
    | with_reducible apply foldl_ok
    | with_reducible apply loseDevice_ok
    | with_reducible apply memberMissing_ok
    | with_reducible apply State.modLnk_ok
    | with_reducible apply shuffleWithout_ok
    | intro _

theorem moveFlow_ok (d : Nat) (f : Nat) (s : State) (h : s.ok) : (moveFlow d f s).ok := by
  unfold moveFlow
  repeat' first
    | with_reducible assumption
    | with_reducible apply foldl_ok
    | with_reducible apply deviceLost_ok
    | with_reducible apply setFlow_ok
    | with_reducible apply State.modLnk_ok
    | with_reducible apply putOnLink_ok
    | dsimp only
    | split
    | intro _

theorem moveFlows_ok (s : State) (h : s.ok) : (moveFlows s).ok := by
  unfold moveFlows
  repeat' first
    | with_reducible assumption
    | with_reducible apply foldl_ok
    | with_reducible apply moveFlow_ok
    | with_reducible apply deviceLost_ok
    | intro _

theorem lowerPort_ok (n : Nat) (st : Nat) (cause : Nat) (s : State) (h : s.ok) : (lowerPort n st cause s).ok := by
  unfold lowerPort
  repeat' first
    | with_reducible assumption
    | with_reducible apply modPort_ok

theorem portDown_ok (n : Nat) (st : Nat) (cause : Nat) (s : State) (h : s.ok) : (portDown n st cause s).ok := by
  unfold portDown
  repeat' first
    | with_reducible assumption
    | with_reducible apply lowerPort_ok
    | with_reducible apply raiseEvent_ok
    | with_reducible apply moveFlows_ok
    | split

theorem retrain_ok (n : Nat) (s : State) (h : s.ok) : (retrain n s).ok := by
  unfold retrain
  repeat' first
    | with_reducible assumption
    | with_reducible apply portDown_ok
    | with_reducible apply modPort_ok

theorem retrainAll_ok (s : State) (h : s.ok) : (retrainAll s).ok := by
  unfold retrainAll
  repeat' first
    | with_reducible assumption
    | with_reducible apply foldl_ok
    | with_reducible apply retrain_ok
    | intro _

theorem endRemote_ok (s : State) (h : s.ok) : (endRemote s).ok := by
  unfold endRemote
  repeat' first
    | with_reducible assumption
    | with_reducible apply foldl_ok
    | with_reducible apply failOp_ok
    | with_reducible apply memberMissing_ok
    | intro _

theorem applyRunnel_ok (old : Conf) (s : State) (h : s.ok) : (applyRunnel old s).ok := by
  unfold applyRunnel
  repeat' first
    | with_reducible assumption
    | with_reducible apply foldl_ok
    | with_reducible apply retrainAll_ok
    | with_reducible apply endRemote_ok
    | with_reducible apply retrain_ok
    | dsimp only
    | split
    | intro _

theorem sendBindAck_ok (dev : Nat) (tag : Nat) (i : Nat × Nat × Nat) (s : State) (h : s.ok) : (sendBindAck dev tag i s).ok := by
  unfold sendBindAck
  repeat' first
    | with_reducible assumption
    | with_reducible apply emit_ok
    | dsimp only
    | split

theorem bindStep_ok (s : State) (h : s.ok) : (bindStep s).ok := by
  unfold bindStep
  repeat' first
    | with_reducible assumption
    | with_reducible apply foldl_ok
    | with_reducible apply State.modLnk_ok
    | with_reducible apply sendBindAck_ok
    | dsimp only
    | split
    | intro _

theorem settleUnit_ok (undone : List Nat) (u : WbUnit) (s : State) (h : s.ok) : (settleUnit undone u s).ok := by
  unfold settleUnit
  repeat' first
    | with_reducible assumption
    | with_reducible apply draw_ok
    | with_reducible apply State.modMedia_ok
    | with_reducible apply modNs_ok
    | with_reducible apply Mem.wf_write
    | with_reducible exact Ns.wf_of (by assumption)
    | with_reducible apply Ns.ok_of
    | dsimp only
    | split
    | intro _

theorem settleFrame_ok (us : List WbUnit) (s : State) (h : s.ok) : (settleFrame us s).ok := by
  unfold settleFrame
  repeat' first
    | with_reducible assumption
    | with_reducible apply foldl_ok
    | with_reducible apply draw_ok
    | with_reducible apply settleUnit_ok
    | intro _

theorem settleWrites_ok (s : State) (h : s.ok) : (settleWrites s).ok := by
  unfold settleWrites
  repeat' first
    | with_reducible assumption
    | with_reducible apply foldl_ok
    | with_reducible apply settleFrame_ok
    | intro _

theorem endCommands_ok (s : State) (h : s.ok) : (endCommands s).ok := by
  unfold endCommands
  repeat' first
    | with_reducible assumption
    | with_reducible apply State.modNss_map_ok
    | with_reducible apply State.modNvm_ok
    | with_reducible apply State.modIdx_ok
    | with_reducible exact Ns.wf_of (by assumption)
    | with_reducible apply Ns.ok_of
    | dsimp only
    | intro _

theorem discardStaged_ok (s : State) (h : s.ok) : (discardStaged s).ok := by
  unfold discardStaged
  repeat' first
    | with_reducible assumption
    | with_reducible apply State.modParts_map_ok
    | with_reducible apply State.modRes_ok
    | with_reducible apply dropSets_ok
    | (with_reducible apply State.modMgmt_ok _ (fun h => h))
    | with_reducible apply State.modStore_ok
    | with_reducible apply State.modCfg_ok

theorem disable_ok (s : State) (h : s.ok) : (disable s).ok := by
  unfold disable
  repeat' first
    | with_reducible assumption
    | with_reducible apply State.modNvm_ok

theorem orphanJobs_ok (s : State) (h : s.ok) : (orphanJobs s).ok := by
  unfold orphanJobs
  repeat' first
    | with_reducible assumption
    | with_reducible apply State.modParts_map_ok
    | with_reducible apply State.modIdx_ok

theorem functionEnds_ok (s : State) (h : s.ok) : (functionEnds s).ok := by
  exact disable_ok _ (endSelfTest_ok _ _ _ (State.modPwr_ok _ (fun _ e he => by cases he)
    (orphanJobs_ok _ (foldl_ok (fun s p h => tearJob_ok _ _ _ h) _ (discardStaged_ok _ (endCommands_ok _ h))))))

theorem functionReset_ok (s : State) (h : s.ok) : (functionReset s).ok := by
  unfold functionReset
  repeat' first
    | with_reducible assumption
    | with_reducible apply State.modNvm_ok
    | with_reducible apply functionEnds_ok

theorem mediaAfter_ok (power : Bool) (s : State) (h : s.ok) : (mediaAfter power s).ok := by
  unfold mediaAfter
  repeat' first
    | with_reducible assumption
    | with_reducible apply State.modMedia_ok

theorem resetAll_ok (power : Bool) (s : State) (h : s.ok) : (resetAll power s).ok := by
  unfold resetAll
  repeat' first
    | with_reducible assumption
    | apply State.modClus_mapIdx_ok _ (fun _ _ _ => Clu.afterReset_ok _ _)
    | with_reducible apply State.modResv_ok _ (fun _ => Mem.wf_nil)
    | with_reducible apply State.modPwr_ok _ (fun _ => Pwr.afterReset_ok _)
    | exact fun hm => ⟨Nat.zero_le 4, Nat.zero_le 2, fun _ e => nomatch e⟩
    | with_reducible apply (State.modParts_const_ok _ rfl)
    | with_reducible apply settleWrites_ok
    | with_reducible apply discardStaged_ok
    | with_reducible apply endCommands_ok
    | with_reducible apply State.modMgmt_ok
    | with_reducible apply endSelfTest_ok
    | with_reducible apply mediaAfter_ok
    | with_reducible apply State.modNvm_ok
    | with_reducible apply disable_ok
    | with_reducible apply State.modIdx_ok
    | with_reducible apply State.modStore_ok
    | with_reducible apply State.modPresets_ok
    | with_reducible apply State.modRas_ok
    | with_reducible apply State.modSigs_ok
    | with_reducible apply State.modLnk_ok
    | with_reducible apply State.modCad_ok
    | with_reducible apply State.modEscalate_ok
    | with_reducible apply State.modCis_ok
    | with_reducible apply State.modSec_ok
    | with_reducible apply State.modGen_ok
    | (with_reducible apply State.modBoot_ok _ (fun h => h))

theorem effStage_ok (c : Cmd) (s : State) (h : s.ok) : (effStage c s).ok := by
  unfold effStage
  repeat' first
    | with_reducible assumption
    | with_reducible apply failWith_ok
    | with_reducible apply badParam_ok
    | with_reducible apply doneWith_ok
    | with_reducible apply State.modCfg_ok
    | dsimp only
    | split

theorem runCheck_ok (c : Conf) (s : State) (h : s.ok) : (runCheck c s).1.ok := by
  unfold runCheck
  repeat' first
    | with_reducible assumption
    | with_reducible apply State.modCfg_ok

theorem effCheck_ok (c : Cmd) (s : State) (h : s.ok) : (effCheck c s).ok := by
  unfold effCheck
  repeat' first
    | with_reducible assumption
    | with_reducible apply badDword_ok
    | with_reducible apply done_ok
    | with_reducible apply runCheck_ok
    | with_reducible apply doneWith_ok
    | dsimp only
    | split

theorem effDiscard_ok (c : Cmd) (s : State) (h : s.ok) : (effDiscard c s).ok := by
  unfold effDiscard
  repeat' first
    | with_reducible assumption
    | with_reducible apply badDword_ok
    | with_reducible apply ok_ok
    | with_reducible apply State.modCfg_ok
    | split

theorem unselect_ok (p : Nat) (s : State) (h : s.ok) : (unselect p s).ok := by
  unfold unselect
  repeat' first
    | with_reducible assumption
    | with_reducible apply refuse_ok
    | with_reducible apply modPart_ok
    | split

theorem effCommit_ok (c : Cmd) (s : State) (h : s.ok) : (effCommit c s).ok := by
  unfold effCommit
  repeat' first
    | with_reducible assumption
    | with_reducible apply foldl_ok
    | with_reducible apply failWith_ok
    | with_reducible apply done_ok
    | with_reducible apply runCheck_ok
    | with_reducible apply doneWith_ok
    | with_reducible apply State.modCfg_ok
    | with_reducible apply unselect_ok
    | with_reducible apply setPhase_ok
    | dsimp only
    | split
    | intro _

theorem failCommit_ok (k : Commit) (n : Nat) (s : State) (h : s.ok) : (failCommit k n s).ok := by
  unfold failCommit
  repeat' first
    | with_reducible assumption
    | with_reducible apply complete_ok
    | with_reducible apply State.modCfg_ok

theorem drainOver_ok (s : State) (h : s.ok) : (drainOver s).ok := by
  unfold drainOver
  repeat' first
    | with_reducible assumption
    | with_reducible apply runCheck_ok
    | with_reducible apply failCommit_ok
    | with_reducible apply State.modCfg_ok
    | dsimp only
    | split

theorem drainTimeout_ok (s : State) (h : s.ok) : (drainTimeout s).ok := by
  unfold drainTimeout
  repeat' first
    | with_reducible assumption
    | with_reducible apply foldl_ok
    | with_reducible apply tearJob_ok
    | split
    | intro _

theorem recordDurable_ok (s : State) (h : s.ok) : (recordDurable s).ok := by
  unfold recordDurable
  repeat' first
    | with_reducible assumption
    | with_reducible apply State.modCfg_ok
    | split

theorem pendQueue_ok (p : Nat) (q : Nat) (s : State) (h : s.ok) : (pendQueue p q s).ok := by
  unfold pendQueue
  repeat' first
    | with_reducible assumption
    | with_reducible apply foldl_ok
    | with_reducible apply refuse_ok
    | intro _

theorem applyQueues_ok (old : Conf) (new : Conf) (s : State) (h : s.ok) : (applyQueues old new s).ok := by
  unfold applyQueues
  repeat' first
    | with_reducible assumption
    | with_reducible apply foldl_ok
    | with_reducible apply pendQueue_ok
    | with_reducible apply modPart_ok
    | dsimp only
    | split
    | intro _

theorem applyParts_ok (old : Conf) (new : Conf) (s : State) (h : s.ok) : (applyParts old new s).ok := by
  unfold applyParts
  repeat' first
    | with_reducible assumption
    | with_reducible apply foldl_ok
    | with_reducible apply modPart_ok
    | split
    | intro _

theorem applyCommit_ok (s : State) (h : s.ok) : (applyCommit s).ok := by
  unfold applyCommit
  repeat' first
    | with_reducible assumption
    | with_reducible apply State.modCfg_ok
    | with_reducible apply extendMeas_ok
    | with_reducible apply applyParts_ok
    | with_reducible apply applyQueues_ok
    | with_reducible apply recompute_ok
    | with_reducible apply complete_ok
    | with_reducible apply applyRunnel_ok
    | dsimp only
    | split

theorem spoil_ok (a : Nat) (n : Nat) (s : State) (h : s.ok) : (spoil a n s).ok := by
  unfold spoil
  repeat' first
    | with_reducible assumption
    | with_reducible apply State.modFree_ok
    | with_reducible apply State.modBoot_ok
    | with_reducible apply Mem.wf_clear

theorem appendEntry_ok (outcome : Nat) (cause : Nat) (s : State) (h : s.ok) : (appendEntry outcome cause s).ok := by
  unfold appendEntry
  repeat' first
    | with_reducible assumption
    | (with_reducible apply State.modBoot_ok _ (fun h => h))

theorem closeEntry_ok (outcome : Nat) (cause : Nat) (s : State) (h : s.ok) : (closeEntry outcome cause s).ok := by
  unfold closeEntry
  repeat' first
    | with_reducible assumption
    | (with_reducible apply State.modBoot_ok _ (fun h => h))

theorem countFailure_ok (cause : Nat) (s : State) (h : s.ok) : (countFailure cause s).ok := by
  unfold countFailure
  repeat' first
    | with_reducible assumption
    | with_reducible apply closeEntry_ok
    | with_reducible apply appendEntry_ok
    | (with_reducible apply State.modBoot_ok _ (fun h => h))
    | split

theorem beginStart_ok (kind : Nat) (s : State) (h : s.ok) : (beginStart kind s).ok := by
  unfold beginStart
  repeat' first
    | with_reducible assumption
    | (with_reducible apply State.modBoot_ok _ (fun h => h))

theorem goDown_ok (s : State) (h : s.ok) : (goDown s).ok := by
  unfold goDown
  exact State.modNvm_ok _ (resetAll_ok false _ (State.modBoot_ok _ (fun h => h) h))

theorem restart_ok (kind : Nat) (s : State) (h : s.ok) : (restart kind s).ok := by
  unfold restart
  have k := goDown_ok s h
  generalize goDown s = u at k ⊢
  dsimp only
  split
  · exact State.modBoot_ok _ (fun h => h) k
  · exact beginStart_ok kind _ k

theorem controllerReset_ok (kind : Nat) (s : State) (h : s.ok) : (controllerReset kind s).ok := by
  unfold controllerReset
  repeat' first
    | with_reducible assumption
    | with_reducible apply restart_ok
    | with_reducible apply closeEntry_ok
    | split

theorem failStart_ok (cause : Nat) (s : State) (h : s.ok) : (failStart cause s).ok := by
  unfold failStart
  repeat' first
    | with_reducible assumption
    | with_reducible apply countFailure_ok
    | with_reducible apply restart_ok
    | with_reducible apply draw_ok
    | dsimp only
    | split

theorem enterTrickle_ok (cause : Nat) (s : State) (h : s.ok) : (enterTrickle cause s).ok := by
  unfold enterTrickle
  repeat' first
    | with_reducible assumption
    | with_reducible apply extendMeas_ok
    | with_reducible apply State.modUpAt_ok
    | (with_reducible apply State.modBoot_ok _ (fun h => h))
    | with_reducible apply State.modNvm_ok

theorem repairDieLinks_ok (s : State) (h : s.ok) : (repairDieLinks s).ok := by
  unfold repairDieLinks
  repeat' first
    | with_reducible assumption
    | with_reducible apply foldl_ok
    | with_reducible apply State.modRas_ok
    | with_reducible apply addRecord_ok
    | intro _

theorem processorRuns_ok (s : State) (h : s.ok) : (processorRuns s).ok := by
  unfold processorRuns
  repeat' first
    | with_reducible assumption
    | with_reducible apply foldl_ok
    | with_reducible apply repairDieLinks_ok
    | with_reducible apply measurePolicy_ok
    | with_reducible apply State.modUpAt_ok
    | with_reducible apply extendMeas_ok
    | with_reducible apply useCadsrc_ok
    | (with_reducible apply State.modBoot_ok _ (fun h => h))
    | with_reducible apply retrainAll_ok
    | with_reducible apply State.modNvm_ok
    | with_reducible apply askSurge_ok
    | with_reducible apply wakeClusters_ok
    | split
    | intro _

theorem verifySlot_ok (s : State) (h : s.ok) : (verifySlot s).ok := by
  unfold verifySlot
  repeat' first
    | with_reducible assumption
    | with_reducible apply enterTrickle_ok
    | with_reducible apply countFailure_ok
    | (with_reducible apply State.modBoot_ok _ (fun h => h))
    | with_reducible apply State.modSec_ok
    | with_reducible apply processorRuns_ok
    | with_reducible apply extendMeas_ok
    | dsimp only
    | split

theorem rebuildLedger_ok (s : State) (h : s.ok) : (rebuildLedger s).ok := by
  unfold rebuildLedger
  repeat' first
    | with_reducible assumption
    | with_reducible apply draw_ok
    | (with_reducible apply State.modBoot_ok _ (fun h => h))

theorem persistFatal_ok (s : State) (h : s.ok) : (persistFatal s).ok := by
  unfold persistFatal
  repeat' first
    | with_reducible assumption
    | with_reducible apply State.modRas_ok
    | dsimp only
    | split

theorem fillDone_ok (r : FillReport) (s : State) (h : s.ok) : (fillDone r s).ok := by
  unfold fillDone
  repeat' first
    | with_reducible assumption
    | with_reducible apply foldl_ok
    | with_reducible apply failStart_ok
    | (with_reducible apply State.modBoot_ok _ (fun h => h))
    | with_reducible apply failArray_ok
    | with_reducible apply rebuildLedger_ok
    | with_reducible apply closeEntry_ok
    | with_reducible apply extendMeas_ok
    | with_reducible apply persistFatal_ok
    | with_reducible apply enterTrickle_ok
    | with_reducible apply appendEntry_ok
    | with_reducible apply State.modRas_ok
    | with_reducible apply verifySlot_ok
    | (extract_lets +onlyGivenNames x; refine cut_ok (s := x) ?_ fun _ => ?_; rotate_left; clear_value x; rotate_right; subst x)
    | extract_lets +onlyGivenNames y
    | split
    | intro _

theorem copyDone_ok (passed : Bool) (s : State) (h : s.ok) : (copyDone passed s).ok := by
  unfold copyDone
  repeat' first
    | with_reducible assumption
    | with_reducible apply State.modBoot_ok _ (fun h => Mem.wf_write _ _ h)
    | with_reducible apply verifySlot_ok
    | with_reducible apply enterTrickle_ok
    | with_reducible apply countFailure_ok
    | split

theorem flushBuffer_ok (slc : Bool) (s : State) (h : s.ok) : (flushBuffer slc s).ok := by
  unfold flushBuffer
  repeat' first
    | with_reducible assumption
    | with_reducible apply foldl_ok
    | with_reducible apply drawLoc_ok
    | with_reducible apply State.modMedia_ok
    | with_reducible apply countUnits_ok
    | with_reducible apply noteProgram_ok
    | dsimp only
    | intro _

theorem loseUnit_ok (nsid : Nat) (lba : Nat) (s : State) (h : s.ok) : (loseUnit nsid lba s).ok := by
  unfold loseUnit
  repeat' first
    | with_reducible assumption
    | with_reducible apply drawLoc_ok
    | with_reducible apply setEntry_ok
    | with_reducible apply State.modMedia_ok
    | split

theorem undoChange_ok (u : Undo) (s : State) (h : s.ok) : (undoChange u s).ok := by
  unfold undoChange
  repeat' first
    | with_reducible assumption
    | with_reducible apply modNs_ok
    | with_reducible apply State.modMedia_ok
    | with_reducible apply Mem.wf_write
    | with_reducible exact Ns.wf_of (by assumption)
    | with_reducible apply Ns.ok_of
    | intro _

theorem recover_ok (r : ReplayReport) (s : State) (h : s.ok) : (recover r s).ok := by
  unfold recover
  repeat' first
    | with_reducible assumption
    | with_reducible apply foldl_ok
    | with_reducible apply State.modCis_ok
    | with_reducible apply undoChange_ok
    | (with_reducible apply State.modBoot_ok _ (fun h => h))
    | with_reducible apply State.modMedia_ok
    | with_reducible apply smartEvent_ok
    | with_reducible apply loseUnit_ok
    | with_reducible apply addRecord_ok
    | dsimp only
    | split
    | intro _

theorem firstReady_ok (s : State) (h : s.ok) : (firstReady s).ok := by
  unfold firstReady
  repeat' first
    | with_reducible assumption
    | with_reducible apply measurePolicy_ok
    | with_reducible apply State.modSec_ok
    | dsimp only
    | split

theorem destroyAll_ok (block : Bool) (s : State) (h : s.ok) : (destroyAll block s).ok := by
  unfold destroyAll
  repeat' first
    | with_reducible assumption
    | exact fun _ y hy => by obtain ⟨x, _, rfl⟩ := List.mem_map.1 hy; exact Mem.wf_nil
    | with_reducible apply State.modNss_ok
    | with_reducible apply State.modKeyGens_ok
    | with_reducible apply State.modSec_ok
    | with_reducible apply dropSets_ok
    | with_reducible apply State.modIdx_ok
    | with_reducible apply State.modStore_ok
    | with_reducible apply State.modMedia_ok
    | with_reducible apply State.modResv_ok
    | with_reducible apply State.modCfg_ok
    | with_reducible exact Mem.wf_nil
    | dsimp only
    | split
    | intro _

theorem resumeSanitize_ok (s : State) (h : s.ok) : (resumeSanitize s).ok := by
  unfold resumeSanitize
  repeat' first
    | with_reducible assumption
    | with_reducible apply destroyAll_ok
    | (with_reducible apply State.modMgmt_ok _ (fun h => h))
    | split

theorem reloadPinned_ok (s : State) (h : s.ok) : (reloadPinned s).ok := by
  unfold reloadPinned
  repeat' first
    | with_reducible assumption
    | with_reducible apply foldl_ok
    | (with_reducible refine getD_ok (startLoad_ok _ _ ?_ ) ?_)
    | intro _

theorem noteAwake_ok (s : State) (h : s.ok) : (noteAwake s).ok := by
  unfold noteAwake
  repeat' first
    | with_reducible assumption
    | (with_reducible apply State.modBoot_ok _ (fun h => h))
    | split

theorem replayEnds_ok (r : ReplayReport) (s : State) (h : s.ok) : (replayEnds r s).ok := by
  unfold replayEnds
  repeat' first
    | with_reducible assumption
    | with_reducible apply foldl_ok
    | with_reducible apply failStart_ok
    | with_reducible apply State.modRas_ok
    | with_reducible apply State.modMedia_ok
    | with_reducible apply failCluster_ok
    | with_reducible apply substituteIn_ok
    | with_reducible apply recover_ok
    | with_reducible apply flushBuffer_ok
    | with_reducible apply firstReady_ok
    | (with_reducible apply State.modBoot_ok _ (fun h => h))
    | with_reducible apply closeEntry_ok
    | with_reducible apply State.modNvm_ok
    | with_reducible apply resumeSanitize_ok
    | with_reducible apply reloadPinned_ok
    | dsimp only
    | split
    | intro _

theorem timerExpires_ok (s : State) (h : s.ok) : (timerExpires s).ok := by
  unfold timerExpires
  repeat' first
    | with_reducible assumption
    | with_reducible apply failStart_ok
    | split

theorem escalateNow_ok (s : State) (h : s.ok) : (escalateNow s).ok := by
  unfold escalateNow
  repeat' first
    | with_reducible assumption
    | with_reducible apply State.modRas_ok
    | with_reducible apply State.modEscalate_ok
    | with_reducible apply failStart_ok
    | with_reducible apply restart_ok
    | dsimp only
    | split

theorem powerOn_ok (s : State) (h : s.ok) : (powerOn s).ok := by
  unfold powerOn
  repeat' first
    | with_reducible assumption
    | with_reducible apply beginStart_ok
    | with_reducible apply State.modNvm_ok
    | with_reducible apply resetAll_ok

theorem hostGone_ok (s : State) (h : s.ok) : (hostGone s).ok := by
  unfold hostGone
  repeat' first
    | with_reducible assumption
    | with_reducible apply State.modNvm_ok

theorem saveStamp_ok (s : State) (h : s.ok) : (saveStamp s).ok := by
  unfold saveStamp
  repeat' first
    | with_reducible assumption
    | with_reducible apply State.modMedia_ok

theorem beginDump_ok (thermal : Bool) (s : State) (h : s.ok) : (beginDump thermal s).ok := by
  unfold beginDump
  refine State.modBoot_ok _ (fun h => h) (hostGone_ok _ (State.modLnk_ok _ (State.modParts_const_ok _ rfl (State.modSigs_ok _ ?_))))
  exact State.modClus_mapIdx_ok _ (fun _ _ _ => Clu.afterReset_ok _ _) (saveStamp_ok _ (endCommands_ok _ (settleWrites_ok _ h)))

theorem powerLoss_ok (s : State) (h : s.ok) : (powerLoss s).ok := by
  unfold powerLoss
  repeat' first
    | with_reducible assumption
    | with_reducible apply switchSpare_ok
    | with_reducible apply beginDump_ok
    | (with_reducible apply State.modBoot_ok _ (fun h => h))
    | with_reducible apply hostGone_ok
    | with_reducible apply endCommands_ok
    | dsimp only
    | split

theorem thermalStop_ok (s : State) (h : s.ok) : (thermalStop s).ok := by
  unfold thermalStop
  repeat' first
    | with_reducible assumption
    | (with_reducible apply State.modPwr_ok _ (fun h => h))
    | with_reducible apply beginDump_ok
    | (with_reducible apply State.modBoot_ok _ (fun h => h))
    | with_reducible apply hostGone_ok
    | with_reducible apply endCommands_ok
    | dsimp only
    | split

theorem dumpEnds_ok (recordOk : Bool) (us : Nat) (j : Nat) (s : State) (h : s.ok) : (dumpEnds recordOk us j s).ok := by
  unfold dumpEnds
  repeat' first
    | with_reducible assumption
    | with_reducible apply State.modCis_ok
    | with_reducible apply State.modMedia_ok
    | (with_reducible apply State.modBoot_ok _ (fun h => h))
    | dsimp only
    | split

theorem readWindow_ok (j : Nat) (s : State) (h : s.ok) : (readWindow j s).2.ok := by
  unfold readWindow
  repeat' first
    | with_reducible assumption
    | (with_reducible apply State.modBoot_ok _ (fun h => h))
    | with_reducible apply draw_ok
    | dsimp only
    | split

theorem readReg_ok (a : Nat) (b : Block) (off : Nat) (s : State) (h : s.ok) : (readReg a b off s).2.ok := by
  unfold readReg
  repeat' first
    | with_reducible assumption
    | with_reducible apply State.modGen_ok
    | with_reducible apply readWindow_ok
    | split

theorem busRead_ok (a : Nat) (size : Nat) (s : State) (h : s.ok) : (busRead a size s).2.ok := by
  unfold busRead
  repeat' first
    | with_reducible assumption
    | with_reducible apply readReg_ok
    | split

theorem scrubSwitch_ok (promise : Nat) (old : Bool) (new : Bool) (s : State) (h : s.ok) : (scrubSwitch promise old new s).ok := by
  unfold scrubSwitch
  repeat' first
    | with_reducible assumption
    | with_reducible apply openKind_ok
    | with_reducible apply losePromise_ok
    | dsimp only
    | split

theorem writeRasCtl_ok (v : Nat) (s : State) (h : s.ok) : (writeRasCtl v s).ok := by
  unfold writeRasCtl
  repeat' first
    | with_reducible assumption
    | with_reducible apply scrubSwitch_ok
    | with_reducible apply State.modRas_ok

theorem writeMedCtl_ok (v : Nat) (s : State) (h : s.ok) : (writeMedCtl v s).ok := by
  unfold writeMedCtl
  repeat' first
    | with_reducible assumption
    | with_reducible apply State.modMedia_ok
    | with_reducible apply scrubSwitch_ok

theorem writeInj_ok (v : Nat) (s : State) (h : s.ok) : (writeInj v s).ok := by
  unfold writeInj
  repeat' first
    | with_reducible assumption
    | with_reducible apply State.modSec_ok
    | with_reducible apply debugAct_ok
    | with_reducible apply State.modRas_ok
    | dsimp only
    | split

theorem writeCluCtl_ok (c : Nat) (v : Nat) (s : State) (h : s.ok) : (writeCluCtl c v s).ok := by
  unfold writeCluCtl
  repeat' first
    | with_reducible assumption
    | (rename_i x hx; exact ⟨hx.1, Mem.wf_cells _ _, hx.2.2⟩)
    | with_reducible apply debugAct_ok
    | with_reducible apply modClu_ok
    | (rename_i x hx; exact Clu.ok_of_eq hx rfl rfl rfl rfl rfl rfl rfl rfl rfl rfl)
    | dsimp only
    | split
    | intro _

theorem writeTmctl_ok (c : Nat) (v : Nat) (s : State) (h : s.ok) : (writeTmctl c v s).ok := by
  unfold writeTmctl
  repeat' first
    | with_reducible assumption
    | with_reducible apply modClu_ok
    | with_reducible apply debugAct_ok
    | (rename_i x hx; exact Clu.ok_of_eq hx rfl rfl rfl rfl rfl rfl rfl rfl rfl rfl)
    | dsimp only
    | split
    | intro _

theorem writePctl_ok (v : Nat) (s : State) (h : s.ok) : (writePctl v s).ok := by
  unfold writePctl
  repeat' first
    | with_reducible assumption
    | (with_reducible apply State.modBoot_ok _ (fun h => h))
    | with_reducible apply debugAct_ok
    | dsimp only
    | split

theorem writeBoot_ok (off : Nat) (v : Nat) (s : State) (h : s.ok) : (writeBoot off v s).ok := by
  unfold writeBoot
  repeat' first
    | with_reducible assumption
    | with_reducible apply controllerReset_ok
    | (with_reducible apply State.modBoot_ok _ (fun h => h))
    | with_reducible apply writePctl_ok
    | split

theorem writeClu_ok (c : Nat) (off : Nat) (v : Nat) (s : State) (h : s.ok) : (writeClu c off v s).ok := by
  unfold writeClu
  repeat' first
    | with_reducible assumption
    | with_reducible apply writeCluCtl_ok
    | with_reducible apply modClu_ok
    | with_reducible apply writeTmctl_ok
    | (rename_i x hx; exact Clu.ok_of_eq hx rfl rfl rfl rfl rfl rfl rfl rfl rfl rfl)
    | dsimp only
    | split
    | intro _

theorem writeSync_ok (n : Nat) (off : Nat) (v : Nat) (s : State) (h : s.ok) : (writeSync n off v s).ok := by
  unfold writeSync
  repeat' first
    | with_reducible assumption
    | with_reducible apply modClu_ok
    | with_reducible apply Clu.modObj_ok
    | split

theorem writeReg_ok (b : Block) (off : Nat) (v : Nat) (s : State) (h : s.ok) : (writeReg b off v s).ok := by
  unfold writeReg
  repeat' first
    | with_reducible assumption
    | with_reducible apply State.modGen_ok
    | with_reducible apply State.modCad_ok
    | with_reducible apply startTest_ok
    | with_reducible apply writeBoot_ok
    | with_reducible apply writeRasCtl_ok
    | with_reducible apply writeInj_ok
    | with_reducible apply writeMedCtl_ok
    | with_reducible apply checkHealth_ok
    | with_reducible apply State.modMedia_ok
    | with_reducible apply writeClu_ok
    | with_reducible apply writeSync_ok
    | split

theorem busWrite_ok (a : Nat) (v : Nat) (size : Nat) (s : State) (h : s.ok) : (busWrite a v size s).ok := by
  unfold busWrite
  repeat' first
    | with_reducible assumption
    | with_reducible apply writeReg_ok
    | split

theorem effIdentify_ok (c : Cmd) (s : State) (h : s.ok) : (effIdentify c s).ok := by
  unfold effIdentify
  repeat' first
    | with_reducible assumption
    | with_reducible apply ok_ok
    | with_reducible apply hostData_ok
    | with_reducible apply done_ok
    | with_reducible apply badField_ok
    | dsimp only
    | split

theorem effLogPage_ok (c : Cmd) (s : State) (h : s.ok) : (effLogPage c s).ok := by
  unfold effLogPage
  repeat' first
    | with_reducible assumption
    | with_reducible apply done_ok
    | with_reducible apply badField_ok
    | with_reducible apply hostData_ok
    | with_reducible apply ok_ok
    | with_reducible apply unmask_ok
    | dsimp only
    | split

theorem storeObject_ok (o : Stored) (s : State) (h : s.ok) : (storeObject o s).ok := by
  unfold storeObject
  repeat' first
    | with_reducible assumption
    | with_reducible apply orphanModel_ok
    | with_reducible apply extendMeas_ok
    | with_reducible apply State.modStore_ok
    | split

theorem endInstall_ok (id : Nat) (s : State) (h : s.ok) : (endInstall id s).ok := by
  unfold endInstall
  repeat' first
    | with_reducible assumption
    | with_reducible apply State.modStore_ok

theorem finishInstall_ok (c : Cmd) (id : Nat) (st : StagedModel) (s : State) (h : s.ok) : (finishInstall c id st s).ok := by
  unfold finishInstall
  repeat' first
    | with_reducible assumption
    | with_reducible apply badDword_ok
    | with_reducible apply endInstall_ok
    | with_reducible apply done_ok
    | with_reducible apply State.modSec_ok
    | with_reducible apply storeObject_ok
    | with_reducible apply State.modStore_ok
    | with_reducible apply ok_ok
    | (refine startLoad_ok _ _ ?_ _ (by assumption))
    | with_reducible apply setPhase_ok
    | with_reducible apply exhausted_ok
    | dsimp only
    | split

theorem effModelInstall_ok (c : Cmd) (s : State) (h : s.ok) : (effModelInstall c s).ok := by
  unfold effModelInstall
  repeat' first
    | with_reducible assumption
    | with_reducible apply failWith_ok
    | with_reducible apply done_ok
    | with_reducible apply State.modStore_ok
    | with_reducible apply badDword_ok
    | with_reducible apply finishInstall_ok
    | with_reducible apply ok_ok
    | dsimp only
    | split

theorem effProgramInstall_ok (c : Cmd) (s : State) (h : s.ok) : (effProgramInstall c s).ok := by
  unfold effProgramInstall
  repeat' first
    | with_reducible assumption
    | with_reducible apply failWith_ok
    | with_reducible apply done_ok
    | with_reducible apply State.modSec_ok
    | with_reducible apply ok_ok
    | with_reducible apply storeObject_ok
    | dsimp only
    | split

theorem effModelRemove_ok (c : Cmd) (s : State) (h : s.ok) : (effModelRemove c s).ok := by
  unfold effModelRemove
  repeat' first
    | with_reducible assumption
    | with_reducible apply failWith_ok
    | with_reducible apply orphanModel_ok
    | with_reducible apply ok_ok
    | with_reducible apply extendMeas_ok
    | with_reducible apply State.modStore_ok
    | dsimp only
    | split

theorem effFirmwareDownload_ok (c : Cmd) (s : State) (h : s.ok) : (effFirmwareDownload c s).ok := by
  unfold effFirmwareDownload
  repeat' first
    | with_reducible assumption
    | with_reducible apply badField_ok
    | with_reducible apply done_ok
    | with_reducible apply ok_ok
    | (with_reducible apply State.modMgmt_ok _ (fun h => h))
    | dsimp only
    | split

theorem writePending_ok (img : List Byte) (passed : Bool) (s : State) (h : s.ok) : (writePending img passed s).ok := by
  have h1 : (s.modBoot fun b => (List.range 16).foldl (fun (b : Boot) k => b.erase (16 + k)) b).ok :=
    State.modBoot_ok _ (fun hf => erases_wf (List.range 16) s.boot hf) h
  unfold writePending
  dsimp only
  refine ite_ok (State.modBoot_ok _ ?_ h1) (State.modBoot_ok _ ?_ (spoil_ok _ _ _ h1))
  · intro hf
    dsimp only
    with_reducible exact Boot.program_wf _ _ _ hf
  · intro hf
    exact hf

theorem effFirmwareCommit_ok (c : Cmd) (s : State) (h : s.ok) : (effFirmwareCommit c s).ok := by
  unfold effFirmwareCommit
  repeat' first
    | with_reducible assumption
    | with_reducible apply done_ok
    | with_reducible apply ok_ok
    | with_reducible apply badField_ok
    | with_reducible apply writePending_ok
    | (with_reducible apply State.modBoot_ok _ (fun h => h))
    | dsimp only
    | split

theorem effSanitize_ok (c : Cmd) (s : State) (h : s.ok) : (effSanitize c s).ok := by
  unfold effSanitize
  repeat' first
    | with_reducible assumption
    | with_reducible apply endSelfTest_ok
    | with_reducible apply ok_ok
    | with_reducible apply destroyAll_ok
    | (with_reducible apply State.modMgmt_ok _ (fun h => h))
    | with_reducible apply badField_ok
    | dsimp only
    | split

theorem sanitizeOver_ok (s : State) (h : s.ok) : (sanitizeOver s).ok := by
  unfold sanitizeOver
  repeat' first
    | with_reducible assumption
    | (with_reducible apply State.modMgmt_ok _ (fun h => h))
    | split

theorem destroyContents_ok (nsid : Nat) (s : State) (h : s.ok) : (destroyContents nsid s).ok := by
  unfold destroyContents
  repeat' first
    | with_reducible assumption
    | with_reducible apply foldl_ok
    | with_reducible apply removeIndex_ok
    | with_reducible apply dropUnits_ok
    | dsimp only
    | split
    | intro _

theorem newKey_ok (nsid : Nat) (s : State) (h : s.ok) : (newKey nsid s).ok := by
  unfold newKey
  repeat' first
    | with_reducible assumption
    | with_reducible apply modNs_ok
    | with_reducible apply State.modKeyGens_ok
    | with_reducible exact Ns.wf_of (by assumption)
    | with_reducible apply Ns.ok_of
    | dsimp only
    | intro _

theorem effFormat_ok (c : Cmd) (s : State) (h : s.ok) : (effFormat c s).ok := by
  unfold effFormat
  repeat' first
    | with_reducible assumption
    | with_reducible apply foldl_ok
    | with_reducible apply done_ok
    | with_reducible apply badField_ok
    | with_reducible apply endSelfTest_ok
    | with_reducible apply ok_ok
    | with_reducible apply destroyContents_ok
    | with_reducible apply newKey_ok
    | dsimp only
    | split
    | intro _

theorem nsChanged_ok (s : State) (h : s.ok) : (nsChanged s).ok := by
  unfold nsChanged
  repeat' first
    | with_reducible assumption
    | with_reducible apply raiseEvent_ok
    | split

theorem nsCreate_ok (c : Cmd) (s : State) (h : s.ok) : (nsCreate c s).ok := by
  unfold nsCreate
  repeat' first
    | with_reducible assumption
    | exact fun hn y hy => (List.mem_append.1 hy).elim (hn y) fun hy => by rw [List.mem_singleton.1 hy]; exact Mem.wf_nil
    | with_reducible apply done_ok
    | with_reducible apply badField_ok
    | with_reducible apply doneWith_ok
    | with_reducible apply State.modNss_ok
    | with_reducible apply State.modKeyGens_ok
    | dsimp only
    | split

theorem closeNs_ok (order : Nat) (c : Cmd) (s : State) (h : s.ok) : (closeNs order c s).ok := by
  unfold closeNs
  repeat' first
    | with_reducible assumption
    | with_reducible apply State.modNss_map_ok
    | with_reducible exact Ns.wf_of (by assumption)
    | with_reducible apply Ns.ok_of
    | dsimp only
    | split
    | intro _

theorem reopenNs_ok (order : Nat) (s : State) (h : s.ok) : (reopenNs order s).ok := by
  unfold reopenNs
  repeat' first
    | with_reducible assumption
    | with_reducible apply State.modNss_map_ok
    | with_reducible exact Ns.wf_of (by assumption)
    | with_reducible apply Ns.ok_of
    | dsimp only
    | split
    | intro _

theorem effNsManagement_ok (c : Cmd) (s : State) (h : s.ok) : (effNsManagement c s).ok := by
  unfold effNsManagement
  repeat' first
    | with_reducible assumption
    | with_reducible apply nsCreate_ok
    | with_reducible apply setPhase_ok
    | with_reducible apply done_ok
    | with_reducible apply badField_ok
    | dsimp only
    | split

theorem effNsAttachment_ok (c : Cmd) (s : State) (h : s.ok) : (effNsAttachment c s).ok := by
  unfold effNsAttachment
  repeat' first
    | with_reducible assumption
    | with_reducible apply done_ok
    | with_reducible apply nsChanged_ok
    | with_reducible apply ok_ok
    | with_reducible apply modNs_ok
    | with_reducible apply reopenNs_ok
    | with_reducible apply setPhase_ok
    | with_reducible apply badField_ok
    | with_reducible exact Ns.wf_of (by assumption)
    | with_reducible apply Ns.ok_of
    | dsimp only
    | split
    | intro _

theorem nsEnds_ok (f : Flight) (s : State) (h : s.ok) : (nsEnds f s).ok := by
  unfold nsEnds
  repeat' first
    | with_reducible assumption
    | with_reducible apply foldl_ok
    | with_reducible apply State.modNss_filter_ok
    | with_reducible apply dropSets_ok
    | with_reducible apply destroyContents_ok
    | with_reducible apply modNs_ok
    | with_reducible apply nsChanged_ok
    | with_reducible apply complete_ok
    | with_reducible exact Ns.wf_of (by assumption)
    | with_reducible apply Ns.ok_of
    | dsimp only
    | split
    | intro _

theorem effRegisterRead_ok (c : Cmd) (s : State) (h : s.ok) : (effRegisterRead c s).ok := by
  unfold effRegisterRead
  repeat' first
    | with_reducible assumption
    | with_reducible apply foldl_snd_ok
    | with_reducible apply doneWith_ok
    | with_reducible apply busRead_ok
    | with_reducible apply hostData_ok
    | dsimp only
    | split
    | intro _

theorem effRegisterWrite_ok (c : Cmd) (s : State) (h : s.ok) : (effRegisterWrite c s).ok := by
  unfold effRegisterWrite
  repeat' first
    | with_reducible assumption
    | with_reducible apply foldl_ok
    | with_reducible apply doneWith_ok
    | with_reducible apply busWrite_ok
    | with_reducible apply ok_ok
    | dsimp only
    | split
    | intro _

theorem effCisternTest_ok (c : Cmd) (s : State) (h : s.ok) : (effCisternTest c s).ok := by
  unfold effCisternTest
  repeat' first
    | with_reducible assumption
    | with_reducible apply badDword_ok
    | with_reducible apply startTest_ok
    | with_reducible apply setPhase_ok
    | dsimp only
    | split

theorem effLedgerClear_ok (c : Cmd) (s : State) (h : s.ok) : (effLedgerClear c s).ok := by
  unfold effLedgerClear
  repeat' first
    | with_reducible assumption
    | with_reducible apply badDword_ok
    | (with_reducible apply State.modBoot_ok _ (fun h => h))
    | with_reducible apply doneWith_ok
    | dsimp only
    | split

theorem effMiSend_ok (c : Cmd) (s : State) (h : s.ok) : (effMiSend c s).ok := by
  unfold effMiSend
  repeat' first
    | with_reducible assumption
    | with_reducible apply ok_ok

theorem effMiReceive_ok (c : Cmd) (s : State) (h : s.ok) : (effMiReceive c s).ok := by
  unfold effMiReceive
  repeat' first
    | with_reducible assumption
    | with_reducible apply ok_ok
    | with_reducible apply hostData_ok
    | with_reducible apply draw_ok
    | with_reducible apply doneWith_ok
    | dsimp only
    | split

theorem lookupRange_ok (nsid : Nat) (lba : Nat) (n : Nat) (s : State) (h : s.ok) : (lookupRange nsid lba n s).ok := by
  unfold lookupRange
  repeat' first
    | with_reducible assumption
    | with_reducible apply foldl_ok
    | with_reducible apply lookupPage_ok
    | intro _

theorem readBlocks_ok (c : Cmd) (a : Nat) (n : Nat) (s : State) (h : s.ok) : (readBlocks c a n s).ok := by
  unfold readBlocks
  repeat' first
    | with_reducible assumption
    | with_reducible apply done_ok
    | with_reducible apply modFlight_ok
    | with_reducible apply ok_ok
    | with_reducible apply hostData_ok
    | split

theorem effRead_ok (c : Cmd) (s : State) (h : s.ok) : (effRead c s).ok := by
  unfold effRead
  repeat' first
    | with_reducible assumption
    | with_reducible apply done_ok
    | with_reducible apply readBlocks_ok
    | with_reducible apply lookupRange_ok
    | dsimp only
    | split

theorem bufferUnits_ok (c : Cmd) (a : Nat) (n : Nat) (posted : Bool) (s : State) (h : s.ok) : (bufferUnits c a n posted s).ok := by
  unfold bufferUnits
  repeat' first
    | with_reducible assumption
    | with_reducible apply noteUndo_ok
    | with_reducible apply modNs_ok
    | with_reducible apply journaled_ok
    | with_reducible apply State.modMedia_ok
    | with_reducible apply countUnits_ok
    | with_reducible apply Mem.wf_write
    | with_reducible exact Ns.wf_of (by assumption)
    | with_reducible apply Ns.ok_of
    | intro _

theorem voidClean_ok (s : State) (h : s.ok) : (voidClean s).ok := by
  unfold voidClean
  repeat' first
    | with_reducible assumption
    | (with_reducible apply State.modBoot_ok _ (fun h => h))

theorem effWrite_ok (c : Cmd) (s : State) (h : s.ok) : (effWrite c s).ok := by
  unfold effWrite
  repeat' first
    | with_reducible assumption
    | with_reducible apply done_ok
    | with_reducible apply lookupRange_ok
    | with_reducible apply voidClean_ok
    | with_reducible apply bufferUnits_ok
    | with_reducible apply ok_ok
    | with_reducible apply setPhase_ok
    | dsimp only
    | split

theorem effWriteZeroes_ok (c : Cmd) (s : State) (h : s.ok) : (effWriteZeroes c s).ok := by
  unfold effWriteZeroes
  repeat' first
    | with_reducible assumption
    | with_reducible apply done_ok
    | with_reducible apply ok_ok
    | with_reducible apply dropUnits_ok
    | with_reducible apply lookupRange_ok
    | with_reducible apply voidClean_ok
    | dsimp only
    | split

theorem effDatasetManagement_ok (c : Cmd) (s : State) (h : s.ok) : (effDatasetManagement c s).ok := by
  unfold effDatasetManagement
  repeat' first
    | with_reducible assumption
    | with_reducible apply foldl_ok
    | with_reducible apply done_ok
    | with_reducible apply ok_ok
    | with_reducible apply dropUnits_ok
    | with_reducible apply lookupRange_ok
    | with_reducible apply voidClean_ok
    | dsimp only
    | split
    | intro _

theorem effFlush_ok (c : Cmd) (s : State) (h : s.ok) : (effFlush c s).ok := by
  unfold effFlush
  repeat' first
    | with_reducible assumption
    | with_reducible apply done_ok
    | with_reducible apply ok_ok
    | split

theorem postWrites_ok (s : State) (h : s.ok) : (postWrites s).ok := by
  unfold postWrites
  repeat' first
    | with_reducible assumption
    | with_reducible apply foldl_ok
    | with_reducible apply complete_ok
    | with_reducible apply State.modMedia_ok
    | dsimp only
    | split
    | intro _

theorem runIo_ok (opc : Nat) (c : Cmd) (s : State) (h : s.ok) : (runIo opc c s).ok := by
  unfold runIo
  repeat' first
    | with_reducible assumption
    | with_reducible apply effFlush_ok
    | with_reducible apply effWrite_ok
    | with_reducible apply effRead_ok
    | with_reducible apply effWriteZeroes_ok
    | with_reducible apply effDatasetManagement_ok
    | with_reducible apply effIndexDelete_ok
    | with_reducible apply effIndexPublish_ok
    | with_reducible apply effIndexCompact_ok
    | with_reducible apply effResultFetch_ok
    | with_reducible apply effResultRelease_ok
    | with_reducible apply effJob_ok
    | with_reducible apply done_ok
    | split

theorem runAdmin_ok (opc : Nat) (c : Cmd) (s : State) (h : s.ok) : (runAdmin opc c s).ok := by
  unfold runAdmin
  repeat' first
    | with_reducible assumption
    | with_reducible apply effDeleteSq_ok
    | with_reducible apply effCreateSq_ok
    | with_reducible apply effLogPage_ok
    | with_reducible apply effDeleteCq_ok
    | with_reducible apply effCreateCq_ok
    | with_reducible apply effIdentify_ok
    | with_reducible apply effAbort_ok
    | with_reducible apply effSetFeatures_ok
    | with_reducible apply effGetFeatures_ok
    | with_reducible apply effAer_ok
    | with_reducible apply effNsManagement_ok
    | with_reducible apply effFirmwareCommit_ok
    | with_reducible apply effFirmwareDownload_ok
    | with_reducible apply effSelfTest_ok
    | with_reducible apply effNsAttachment_ok
    | with_reducible apply effMiSend_ok
    | with_reducible apply effMiReceive_ok
    | with_reducible apply effFormat_ok
    | with_reducible apply effSanitize_ok
    | with_reducible apply effStage_ok
    | with_reducible apply effCheck_ok
    | with_reducible apply effCommit_ok
    | with_reducible apply effDiscard_ok
    | with_reducible apply effModelInstall_ok
    | with_reducible apply effModelRemove_ok
    | with_reducible apply effProgramInstall_ok
    | with_reducible apply effRegisterRead_ok
    | with_reducible apply effRegisterWrite_ok
    | with_reducible apply effAttest_ok
    | with_reducible apply effCisternTest_ok
    | with_reducible apply effIndexCreate_ok
    | with_reducible apply effIndexDrop_ok
    | with_reducible apply effLedgerClear_ok
    | with_reducible apply done_ok
    | split

theorem adminTurn_ok (f : Flight) (s : State) (h : s.ok) : (adminTurn f s).ok := by
  unfold adminTurn
  repeat' first
    | with_reducible assumption
    | with_reducible apply done_ok
    | with_reducible apply undoFetch_ok
    | with_reducible apply badDword_ok
    | with_reducible apply asFetched_ok
    | with_reducible apply runAdmin_ok
    | dsimp only
    | split

theorem route_ok (f : Flight) (s : State) (h : s.ok) : (route f s).ok := by
  unfold route
  repeat' first
    | with_reducible assumption
    | with_reducible apply setPhase_ok
    | with_reducible apply done_ok
    | with_reducible apply asFetched_ok
    | with_reducible apply runIo_ok
    | with_reducible apply effSetFeatures_ok
    | with_reducible apply adminTurn_ok
    | dsimp only
    | split

theorem closings_ok (f : Flight) (s : State) (h : s.ok) : (closings f s).ok := by
  unfold closings
  repeat' first
    | with_reducible assumption
    | with_reducible apply closeIndex_ok
    | with_reducible apply closeNs_ok
    | split

theorem beginExit_ok (s : State) (h : s.ok) : (beginExit s).ok := by
  unfold beginExit
  repeat' first
    | with_reducible assumption
    | with_reducible apply foldl_ok
    | (with_reducible apply State.modMgmt_ok _ (fun h => h))
    | with_reducible apply askSurge_ok
    | with_reducible apply wakeClusters_ok
    | dsimp only
    | split
    | intro _

theorem fetched_ok (sqid : Nat) (e : Sqe) (s : State) (h : s.ok) : (fetched sqid e s).ok := by
  unfold fetched
  repeat' first
    | with_reducible assumption
    | with_reducible apply completeFlight_ok
    | with_reducible apply State.modNvm_ok
    | with_reducible apply done_ok
    | with_reducible apply badField_ok
    | with_reducible apply closings_ok
    | with_reducible apply setPhase_ok
    | with_reducible apply beginExit_ok
    | with_reducible apply route_ok
    | dsimp only
    | split

theorem fetchOne_ok (s : State) (h : s.ok) : ∀ t, fetchOne s = some t → t.ok := by
  unfold fetchOne
  repeat' first
    | with_reducible assumption
    | exact none_ok
    | with_reducible refine some_ok ?_
    | with_reducible apply State.modNvm_ok
    | with_reducible apply fetched_ok
    | dsimp only
    | split

theorem fetchLoop_ok (a : Nat) (s : State) (h : s.ok) : (fetchLoop a s).ok := by
  induction a generalizing s with
  | zero =>
    unfold fetchLoop
    repeat' first
      | with_reducible assumption
  | succ n ih =>
    unfold fetchLoop
    repeat' first
      | with_reducible assumption
      | with_reducible apply ih
      | (refine fetchOne_ok _ ?_ _ (by assumption))
      | split

theorem serialStep_ok (s : State) (h : s.ok) : (serialStep s).ok := by
  unfold serialStep
  repeat' first
    | with_reducible assumption
    | with_reducible apply adminTurn_ok
    | with_reducible apply State.modNvm_ok
    | split

theorem dropStep_ok (s : State) (h : s.ok) : (dropStep s).ok := by
  unfold dropStep
  repeat' first
    | with_reducible assumption
    | with_reducible apply complete_ok
    | with_reducible apply removeIndex_ok
    | split

theorem nsStep_ok (s : State) (h : s.ok) : (nsStep s).ok := by
  unfold nsStep
  repeat' first
    | with_reducible assumption
    | with_reducible apply nsEnds_ok
    | split

theorem sqStep_ok (s : State) (h : s.ok) : (sqStep s).ok := by
  unfold sqStep
  repeat' first
    | with_reducible assumption
    | with_reducible apply complete_ok
    | with_reducible apply State.modNvm_ok
    | split

theorem abortStep_ok (s : State) (h : s.ok) : (abortStep s).ok := by
  unfold abortStep
  repeat' first
    | with_reducible assumption
    | with_reducible apply complete_ok
    | split

theorem publishStep_ok (s : State) (h : s.ok) : (publishStep s).ok := by
  unfold publishStep
  repeat' first
    | with_reducible assumption
    | with_reducible apply foldl_ok
    | with_reducible apply nextPublish_ok
    | intro _

theorem markDone_ok (s : State) (h : s.ok) : (markDone s).ok := by
  unfold markDone
  repeat' first
    | with_reducible assumption
    | with_reducible apply State.modIdx_ok
    | split

theorem settleLoop_ok (a : Nat) (s : State) (h : s.ok) : (settleLoop a s).ok := by
  induction a generalizing s with
  | zero =>
    unfold settleLoop
    repeat' first
      | with_reducible assumption
  | succ n ih =>
    unfold settleLoop
    repeat' first
      | with_reducible assumption
      | with_reducible apply ih
      | with_reducible apply escalateNow_ok
      | with_reducible apply serialStep_ok
      | with_reducible apply abortStep_ok
      | with_reducible apply sqStep_ok
      | with_reducible apply nsStep_ok
      | with_reducible apply dropStep_ok
      | with_reducible apply bindStep_ok
      | with_reducible apply markDone_ok
      | with_reducible apply kickAll_ok
      | with_reducible apply postWrites_ok
      | with_reducible apply publishStep_ok
      | with_reducible apply fetchLoop_ok
      | dsimp only
      | split

theorem settle_ok (s : State) (h : s.ok) : (settle s).ok := by
  unfold settle
  repeat' first
    | with_reducible assumption
    | with_reducible apply settleLoop_ok

theorem enqueue_ok (e : Sqe) (s : State) (h : s.ok) : (enqueue e s).ok := by
  unfold enqueue
  repeat' first
    | with_reducible assumption
    | with_reducible apply State.modNvm_ok

theorem submit_ok (opc : BitVec 8) (c : Cmd) (s : State) (h : s.ok) : (submit opc c s).ok := by
  unfold submit
  repeat' first
    | with_reducible assumption
    | with_reducible apply enqueue_ok

theorem command_ok (opc : BitVec 8) (c : Cmd) (s : State) (h : s.ok) : (command opc c s).ok := by
  unfold command
  repeat' first
    | with_reducible assumption
    | with_reducible apply settle_ok
    | with_reducible apply submit_ok

end Sys2Proof.Machine
end

