-- ==== Sys2Proof/Laws/KeepRows.lean ====
section
/-! SUPPORT. What keeps a safe state: the rows of commands, of the control core, of the host port, and the traffic between clusters. -/

namespace Sys2Proof.Machine

theorem answer_ok (s : State) (h : s.ok) : okOut (answer s) := by
  unfold answer
  repeat' first
    | with_reducible assumption
    | with_reducible apply okOut_next
    | with_reducible apply settle_ok

theorem adminRow_ok (opc : BitVec 8) (c : Cmd) (s : State) (h : s.ok) : okOut (adminRow opc c s) := by
  unfold adminRow
  repeat' first
    | with_reducible assumption
    | with_reducible apply answer_ok
    | with_reducible apply submit_ok

theorem ioRow_ok (opc : BitVec 8) (c : Cmd) (s : State) (h : s.ok) : okOut (ioRow opc c s) := by
  unfold ioRow
  repeat' first
    | with_reducible assumption
    | with_reducible apply okOut_next
    | with_reducible apply answer_ok
    | with_reducible apply submit_ok
    | split

theorem execAdminAbort_ok (c : Cmd) (s : State) (h : s.ok) : okOut (execAdminAbort c s) := by
  unfold execAdminAbort
  repeat' first
    | with_reducible assumption
    | with_reducible apply adminRow_ok

theorem execAsynchronousEventRequest_ok (c : Cmd) (s : State) (h : s.ok) : okOut (execAsynchronousEventRequest c s) := by
  unfold execAsynchronousEventRequest
  repeat' first
    | with_reducible assumption
    | with_reducible apply adminRow_ok

theorem execCreateIoSubmissionQueue_ok (c : Cmd) (s : State) (h : s.ok) : okOut (execCreateIoSubmissionQueue c s) := by
  unfold execCreateIoSubmissionQueue
  repeat' first
    | with_reducible assumption
    | with_reducible apply adminRow_ok

theorem execCreateIoCompletionQueue_ok (c : Cmd) (s : State) (h : s.ok) : okOut (execCreateIoCompletionQueue c s) := by
  unfold execCreateIoCompletionQueue
  repeat' first
    | with_reducible assumption
    | with_reducible apply adminRow_ok

theorem execDeleteIoSubmissionQueue_ok (c : Cmd) (s : State) (h : s.ok) : okOut (execDeleteIoSubmissionQueue c s) := by
  unfold execDeleteIoSubmissionQueue
  repeat' first
    | with_reducible assumption
    | with_reducible apply adminRow_ok

theorem execDeleteIoCompletionQueue_ok (c : Cmd) (s : State) (h : s.ok) : okOut (execDeleteIoCompletionQueue c s) := by
  unfold execDeleteIoCompletionQueue
  repeat' first
    | with_reducible assumption
    | with_reducible apply adminRow_ok

theorem execIdentify_ok (c : Cmd) (s : State) (h : s.ok) : okOut (execIdentify c s) := by
  unfold execIdentify
  repeat' first
    | with_reducible assumption
    | with_reducible apply adminRow_ok

theorem execGetLogPage_ok (c : Cmd) (s : State) (h : s.ok) : okOut (execGetLogPage c s) := by
  unfold execGetLogPage
  repeat' first
    | with_reducible assumption
    | with_reducible apply adminRow_ok

theorem execGetFeatures_ok (c : Cmd) (s : State) (h : s.ok) : okOut (execGetFeatures c s) := by
  unfold execGetFeatures
  repeat' first
    | with_reducible assumption
    | with_reducible apply adminRow_ok

theorem execSetFeaturesPowerManagement_ok (c : Cmd) (s : State) (h : s.ok) : okOut (execSetFeaturesPowerManagement c s) := by
  unfold execSetFeaturesPowerManagement
  repeat' first
    | with_reducible assumption
    | with_reducible apply adminRow_ok

theorem execSetFeaturesArbitration_ok (c : Cmd) (s : State) (h : s.ok) : okOut (execSetFeaturesArbitration c s) := by
  unfold execSetFeaturesArbitration
  repeat' first
    | with_reducible assumption
    | with_reducible apply adminRow_ok

theorem execSetFeaturesTimestamp_ok (c : Cmd) (s : State) (h : s.ok) : okOut (execSetFeaturesTimestamp c s) := by
  unfold execSetFeaturesTimestamp
  repeat' first
    | with_reducible assumption
    | with_reducible apply adminRow_ok

theorem execSetFeaturesVendorEventEnable_ok (c : Cmd) (s : State) (h : s.ok) : okOut (execSetFeaturesVendorEventEnable c s) := by
  unfold execSetFeaturesVendorEventEnable
  repeat' first
    | with_reducible assumption
    | with_reducible apply adminRow_ok

theorem execSetFeatures_ok (c : Cmd) (s : State) (h : s.ok) : okOut (execSetFeatures c s) := by
  unfold execSetFeatures
  repeat' first
    | with_reducible assumption
    | with_reducible apply adminRow_ok

theorem execDeviceSelfTestShort_ok (c : Cmd) (s : State) (h : s.ok) : okOut (execDeviceSelfTestShort c s) := by
  unfold execDeviceSelfTestShort
  repeat' first
    | with_reducible assumption
    | with_reducible apply adminRow_ok

theorem execDeviceSelfTestExtended_ok (c : Cmd) (s : State) (h : s.ok) : okOut (execDeviceSelfTestExtended c s) := by
  unfold execDeviceSelfTestExtended
  repeat' first
    | with_reducible assumption
    | with_reducible apply adminRow_ok

theorem execDeviceSelfTestStop_ok (c : Cmd) (s : State) (h : s.ok) : okOut (execDeviceSelfTestStop c s) := by
  unfold execDeviceSelfTestStop
  repeat' first
    | with_reducible assumption
    | with_reducible apply adminRow_ok

theorem execFirmwareImageDownload_ok (c : Cmd) (s : State) (h : s.ok) : okOut (execFirmwareImageDownload c s) := by
  unfold execFirmwareImageDownload
  repeat' first
    | with_reducible assumption
    | with_reducible apply adminRow_ok

theorem execFirmwareCommitReplaceActivate_ok (c : Cmd) (s : State) (h : s.ok) : okOut (execFirmwareCommitReplaceActivate c s) := by
  unfold execFirmwareCommitReplaceActivate
  repeat' first
    | with_reducible assumption
    | with_reducible apply adminRow_ok

theorem execFirmwareCommitActivate_ok (c : Cmd) (s : State) (h : s.ok) : okOut (execFirmwareCommitActivate c s) := by
  unfold execFirmwareCommitActivate
  repeat' first
    | with_reducible assumption
    | with_reducible apply adminRow_ok

theorem execSanitizeCryptoErase_ok (c : Cmd) (s : State) (h : s.ok) : okOut (execSanitizeCryptoErase c s) := by
  unfold execSanitizeCryptoErase
  repeat' first
    | with_reducible assumption
    | with_reducible apply adminRow_ok

theorem execSanitizeBlockErase_ok (c : Cmd) (s : State) (h : s.ok) : okOut (execSanitizeBlockErase c s) := by
  unfold execSanitizeBlockErase
  repeat' first
    | with_reducible assumption
    | with_reducible apply adminRow_ok

theorem execFormatNvm_ok (c : Cmd) (s : State) (h : s.ok) : okOut (execFormatNvm c s) := by
  unfold execFormatNvm
  repeat' first
    | with_reducible assumption
    | with_reducible apply adminRow_ok

theorem execNamespaceCreate_ok (c : Cmd) (s : State) (h : s.ok) : okOut (execNamespaceCreate c s) := by
  unfold execNamespaceCreate
  repeat' first
    | with_reducible assumption
    | with_reducible apply adminRow_ok

theorem execNamespaceDelete_ok (c : Cmd) (s : State) (h : s.ok) : okOut (execNamespaceDelete c s) := by
  unfold execNamespaceDelete
  repeat' first
    | with_reducible assumption
    | with_reducible apply adminRow_ok

theorem execNamespaceAttach_ok (c : Cmd) (s : State) (h : s.ok) : okOut (execNamespaceAttach c s) := by
  unfold execNamespaceAttach
  repeat' first
    | with_reducible assumption
    | with_reducible apply adminRow_ok

theorem execNamespaceDetach_ok (c : Cmd) (s : State) (h : s.ok) : okOut (execNamespaceDetach c s) := by
  unfold execNamespaceDetach
  repeat' first
    | with_reducible assumption
    | with_reducible apply adminRow_ok

theorem execNvmeMiSend_ok (c : Cmd) (s : State) (h : s.ok) : okOut (execNvmeMiSend c s) := by
  unfold execNvmeMiSend
  repeat' first
    | with_reducible assumption
    | with_reducible apply adminRow_ok

theorem execNvmeMiReceive_ok (c : Cmd) (s : State) (h : s.ok) : okOut (execNvmeMiReceive c s) := by
  unfold execNvmeMiReceive
  repeat' first
    | with_reducible assumption
    | with_reducible apply adminRow_ok

theorem execRead_ok (c : Cmd) (s : State) (h : s.ok) : okOut (execRead c s) := by
  unfold execRead
  repeat' first
    | with_reducible assumption
    | with_reducible apply ioRow_ok

theorem execWrite_ok (c : Cmd) (s : State) (h : s.ok) : okOut (execWrite c s) := by
  unfold execWrite
  repeat' first
    | with_reducible assumption
    | with_reducible apply ioRow_ok

theorem execWriteZeroes_ok (c : Cmd) (s : State) (h : s.ok) : okOut (execWriteZeroes c s) := by
  unfold execWriteZeroes
  repeat' first
    | with_reducible assumption
    | with_reducible apply ioRow_ok

theorem execDatasetManagement_ok (c : Cmd) (s : State) (h : s.ok) : okOut (execDatasetManagement c s) := by
  unfold execDatasetManagement
  repeat' first
    | with_reducible assumption
    | with_reducible apply ioRow_ok

theorem execFlush_ok (c : Cmd) (s : State) (h : s.ok) : okOut (execFlush c s) := by
  unfold execFlush
  repeat' first
    | with_reducible assumption
    | with_reducible apply ioRow_ok

theorem execScan_ok (c : Cmd) (s : State) (h : s.ok) : okOut (execScan c s) := by
  unfold execScan
  repeat' first
    | with_reducible assumption
    | with_reducible apply ioRow_ok

theorem execEmbed_ok (c : Cmd) (s : State) (h : s.ok) : okOut (execEmbed c s) := by
  unfold execEmbed
  repeat' first
    | with_reducible assumption
    | with_reducible apply ioRow_ok

theorem execScore_ok (c : Cmd) (s : State) (h : s.ok) : okOut (execScore c s) := by
  unfold execScore
  repeat' first
    | with_reducible assumption
    | with_reducible apply ioRow_ok

theorem execSearch_ok (c : Cmd) (s : State) (h : s.ok) : okOut (execSearch c s) := by
  unfold execSearch
  repeat' first
    | with_reducible assumption
    | with_reducible apply ioRow_ok

theorem execNearJoin_ok (c : Cmd) (s : State) (h : s.ok) : okOut (execNearJoin c s) := by
  unfold execNearJoin
  repeat' first
    | with_reducible assumption
    | with_reducible apply ioRow_ok

theorem execIndexInsert_ok (c : Cmd) (s : State) (h : s.ok) : okOut (execIndexInsert c s) := by
  unfold execIndexInsert
  repeat' first
    | with_reducible assumption
    | with_reducible apply ioRow_ok

theorem execIndexDelete_ok (c : Cmd) (s : State) (h : s.ok) : okOut (execIndexDelete c s) := by
  unfold execIndexDelete
  repeat' first
    | with_reducible assumption
    | with_reducible apply ioRow_ok

theorem execIndexPublish_ok (c : Cmd) (s : State) (h : s.ok) : okOut (execIndexPublish c s) := by
  unfold execIndexPublish
  repeat' first
    | with_reducible assumption
    | with_reducible apply ioRow_ok

theorem execIndexCompact_ok (c : Cmd) (s : State) (h : s.ok) : okOut (execIndexCompact c s) := by
  unfold execIndexCompact
  repeat' first
    | with_reducible assumption
    | with_reducible apply ioRow_ok

theorem execJobRun_ok (c : Cmd) (s : State) (h : s.ok) : okOut (execJobRun c s) := by
  unfold execJobRun
  repeat' first
    | with_reducible assumption
    | with_reducible apply ioRow_ok

theorem execResultFetch_ok (c : Cmd) (s : State) (h : s.ok) : okOut (execResultFetch c s) := by
  unfold execResultFetch
  repeat' first
    | with_reducible assumption
    | with_reducible apply ioRow_ok

theorem execResultRelease_ok (c : Cmd) (s : State) (h : s.ok) : okOut (execResultRelease c s) := by
  unfold execResultRelease
  repeat' first
    | with_reducible assumption
    | with_reducible apply ioRow_ok

theorem execRecallEstimate_ok (c : Cmd) (s : State) (h : s.ok) : okOut (execRecallEstimate c s) := by
  unfold execRecallEstimate
  repeat' first
    | with_reducible assumption
    | with_reducible apply ioRow_ok

theorem execIndexCreate_ok (c : Cmd) (s : State) (h : s.ok) : okOut (execIndexCreate c s) := by
  unfold execIndexCreate
  repeat' first
    | with_reducible assumption
    | with_reducible apply adminRow_ok

theorem execIndexDrop_ok (c : Cmd) (s : State) (h : s.ok) : okOut (execIndexDrop c s) := by
  unfold execIndexDrop
  repeat' first
    | with_reducible assumption
    | with_reducible apply adminRow_ok

theorem execConfigurationStage_ok (c : Cmd) (s : State) (h : s.ok) : okOut (execConfigurationStage c s) := by
  unfold execConfigurationStage
  repeat' first
    | with_reducible assumption
    | with_reducible apply adminRow_ok

theorem execConfigurationCheck_ok (c : Cmd) (s : State) (h : s.ok) : okOut (execConfigurationCheck c s) := by
  unfold execConfigurationCheck
  repeat' first
    | with_reducible assumption
    | with_reducible apply adminRow_ok

theorem execConfigurationCommit_ok (c : Cmd) (s : State) (h : s.ok) : okOut (execConfigurationCommit c s) := by
  unfold execConfigurationCommit
  repeat' first
    | with_reducible assumption
    | with_reducible apply adminRow_ok

theorem execConfigurationDiscard_ok (c : Cmd) (s : State) (h : s.ok) : okOut (execConfigurationDiscard c s) := by
  unfold execConfigurationDiscard
  repeat' first
    | with_reducible assumption
    | with_reducible apply adminRow_ok

theorem execModelInstall_ok (c : Cmd) (s : State) (h : s.ok) : okOut (execModelInstall c s) := by
  unfold execModelInstall
  repeat' first
    | with_reducible assumption
    | with_reducible apply adminRow_ok

theorem execModelRemove_ok (c : Cmd) (s : State) (h : s.ok) : okOut (execModelRemove c s) := by
  unfold execModelRemove
  repeat' first
    | with_reducible assumption
    | with_reducible apply adminRow_ok

theorem execProgramInstall_ok (c : Cmd) (s : State) (h : s.ok) : okOut (execProgramInstall c s) := by
  unfold execProgramInstall
  repeat' first
    | with_reducible assumption
    | with_reducible apply adminRow_ok

theorem execRegisterRead_ok (c : Cmd) (s : State) (h : s.ok) : okOut (execRegisterRead c s) := by
  unfold execRegisterRead
  repeat' first
    | with_reducible assumption
    | with_reducible apply adminRow_ok

theorem execRegisterWrite_ok (c : Cmd) (s : State) (h : s.ok) : okOut (execRegisterWrite c s) := by
  unfold execRegisterWrite
  repeat' first
    | with_reducible assumption
    | with_reducible apply adminRow_ok

theorem execAttestCertificates_ok (c : Cmd) (s : State) (h : s.ok) : okOut (execAttestCertificates c s) := by
  unfold execAttestCertificates
  repeat' first
    | with_reducible assumption
    | with_reducible apply adminRow_ok

theorem execAttestQuote_ok (c : Cmd) (s : State) (h : s.ok) : okOut (execAttestQuote c s) := by
  unfold execAttestQuote
  repeat' first
    | with_reducible assumption
    | with_reducible apply adminRow_ok

theorem execAttestOwner_ok (c : Cmd) (s : State) (h : s.ok) : okOut (execAttestOwner c s) := by
  unfold execAttestOwner
  repeat' first
    | with_reducible assumption
    | with_reducible apply adminRow_ok

theorem execCisternTest_ok (c : Cmd) (s : State) (h : s.ok) : okOut (execCisternTest c s) := by
  unfold execCisternTest
  repeat' first
    | with_reducible assumption
    | with_reducible apply adminRow_ok

theorem execStartLedgerClear_ok (c : Cmd) (s : State) (h : s.ok) : okOut (execStartLedgerClear c s) := by
  unfold execStartLedgerClear
  repeat' first
    | with_reducible assumption
    | with_reducible apply adminRow_ok

theorem retire_ok (c size : Nat) (f : Clu → Eff) (s : State) (hf : ∀ x : Clu, x.ok → (f x).clu.ok) (h : s.ok)
    : (retire c size f s).ok := by
  have hx := hf _ (State.clu_ok c h)
  unfold retire
  dsimp only
  repeat' first
    | with_reducible assumption
    | with_reducible apply contextFault_ok
    | with_reducible apply sendSignal_ok
    | with_reducible apply modClu_const_ok
    | exact Clu.modCore_ok _ _ (fun h => h) rfl rfl rfl rfl hx
    | exact Clu.modCore_ok _ _ (fun h => h) rfl rfl List.length_set rfl hx
    | split

theorem genFault_ok (c : Nat) (s : State) (h : s.ok) : (genFault c s).ok := by
  unfold genFault
  repeat' first
    | with_reducible assumption
    | with_reducible apply programFault_ok

theorem runCore_ok (c op : Nat) (w : Word) (w1 : Option Word) (f : Clu → Eff) (s : State) (hf : ∀ x : Clu, x.ok → (f x).clu.ok)
    (h : s.ok) : okOut (runCore c op w w1 f s) := by
  unfold runCore
  repeat' first
    | exact okOut_fault _
    | exact okOut_next h
    | exact okOut_next (genFault_ok _ _ h)
    | exact okOut_next (retire_ok _ _ _ _ hf h)
    | dsimp only
    | split

theorem execAlu_ok (c : Nat) (w : Word) (s : State) (h : s.ok) : okOut (execAlu c w s) := by
  unfold execAlu
  repeat' first
    | with_reducible assumption
    | with_reducible apply aluEff_ok
    | with_reducible apply runCore_ok

theorem execAddi_ok (c : Nat) (w : Word) (s : State) (h : s.ok) : okOut (execAddi c w s) := by
  unfold execAddi
  repeat' first
    | with_reducible assumption
    | with_reducible apply immEff_ok
    | with_reducible apply runCore_ok

theorem execAndi_ok (c : Nat) (w : Word) (s : State) (h : s.ok) : okOut (execAndi c w s) := by
  unfold execAndi
  repeat' first
    | with_reducible assumption
    | with_reducible apply immEff_ok
    | with_reducible apply runCore_ok

theorem execOri_ok (c : Nat) (w : Word) (s : State) (h : s.ok) : okOut (execOri c w s) := by
  unfold execOri
  repeat' first
    | with_reducible assumption
    | with_reducible apply immEff_ok
    | with_reducible apply runCore_ok

theorem execXori_ok (c : Nat) (w : Word) (s : State) (h : s.ok) : okOut (execXori c w s) := by
  unfold execXori
  repeat' first
    | with_reducible assumption
    | with_reducible apply immEff_ok
    | with_reducible apply runCore_ok

theorem execSlli_ok (c : Nat) (w : Word) (s : State) (h : s.ok) : okOut (execSlli c w s) := by
  unfold execSlli
  repeat' first
    | with_reducible assumption
    | with_reducible apply immEff_ok
    | with_reducible apply runCore_ok

theorem execSrli_ok (c : Nat) (w : Word) (s : State) (h : s.ok) : okOut (execSrli c w s) := by
  unfold execSrli
  repeat' first
    | with_reducible assumption
    | with_reducible apply immEff_ok
    | with_reducible apply runCore_ok

theorem execSrai_ok (c : Nat) (w : Word) (s : State) (h : s.ok) : okOut (execSrai c w s) := by
  unfold execSrai
  repeat' first
    | with_reducible assumption
    | with_reducible apply immEff_ok
    | with_reducible apply runCore_ok

theorem execLi32_ok (c : Nat) (w : Word) (w1 : Word) (s : State) (h : s.ok) : okOut (execLi32 c w w1 s) := by
  unfold execLi32
  repeat' first
    | with_reducible assumption
    | with_reducible apply Clu.on_ok
    | exact Core.setReg_keeps _ _ _ _
    | with_reducible apply runCore_ok
    | dsimp only
    | intro _

theorem execLih_ok (c : Nat) (w : Word) (w1 : Word) (s : State) (h : s.ok) : okOut (execLih c w w1 s) := by
  unfold execLih
  repeat' first
    | with_reducible assumption
    | with_reducible apply Clu.on_ok
    | exact Core.setReg_keeps _ _ _ _
    | with_reducible apply runCore_ok
    | dsimp only
    | intro _

theorem execLd_ok (c : Nat) (w : Word) (s : State) (h : s.ok) : okOut (execLd c w s) := by
  unfold execLd
  repeat' first
    | with_reducible assumption
    | with_reducible apply loadEff_ok
    | with_reducible apply runCore_ok

theorem execLw_ok (c : Nat) (w : Word) (s : State) (h : s.ok) : okOut (execLw c w s) := by
  unfold execLw
  repeat' first
    | with_reducible assumption
    | with_reducible apply loadEff_ok
    | with_reducible apply runCore_ok

theorem execLh_ok (c : Nat) (w : Word) (s : State) (h : s.ok) : okOut (execLh c w s) := by
  unfold execLh
  repeat' first
    | with_reducible assumption
    | with_reducible apply loadEff_ok
    | with_reducible apply runCore_ok

theorem execLb_ok (c : Nat) (w : Word) (s : State) (h : s.ok) : okOut (execLb c w s) := by
  unfold execLb
  repeat' first
    | with_reducible assumption
    | with_reducible apply loadEff_ok
    | with_reducible apply runCore_ok

theorem execSt_ok (c : Nat) (w : Word) (s : State) (h : s.ok) : okOut (execSt c w s) := by
  unfold execSt
  repeat' first
    | with_reducible assumption
    | with_reducible apply storeEff_ok
    | with_reducible apply runCore_ok

theorem execSw_ok (c : Nat) (w : Word) (s : State) (h : s.ok) : okOut (execSw c w s) := by
  unfold execSw
  repeat' first
    | with_reducible assumption
    | with_reducible apply storeEff_ok
    | with_reducible apply runCore_ok

theorem execSh_ok (c : Nat) (w : Word) (s : State) (h : s.ok) : okOut (execSh c w s) := by
  unfold execSh
  repeat' first
    | with_reducible assumption
    | with_reducible apply storeEff_ok
    | with_reducible apply runCore_ok

theorem execSb_ok (c : Nat) (w : Word) (s : State) (h : s.ok) : okOut (execSb c w s) := by
  unfold execSb
  repeat' first
    | with_reducible assumption
    | with_reducible apply storeEff_ok
    | with_reducible apply runCore_ok

theorem execBeq_ok (c : Nat) (w : Word) (s : State) (h : s.ok) : okOut (execBeq c w s) := by
  unfold execBeq
  repeat' first
    | with_reducible assumption
    | with_reducible apply branchEff_ok
    | with_reducible apply runCore_ok

theorem execBne_ok (c : Nat) (w : Word) (s : State) (h : s.ok) : okOut (execBne c w s) := by
  unfold execBne
  repeat' first
    | with_reducible assumption
    | with_reducible apply branchEff_ok
    | with_reducible apply runCore_ok

theorem execBlt_ok (c : Nat) (w : Word) (s : State) (h : s.ok) : okOut (execBlt c w s) := by
  unfold execBlt
  repeat' first
    | with_reducible assumption
    | with_reducible apply branchEff_ok
    | with_reducible apply runCore_ok

theorem execBge_ok (c : Nat) (w : Word) (s : State) (h : s.ok) : okOut (execBge c w s) := by
  unfold execBge
  repeat' first
    | with_reducible assumption
    | with_reducible apply branchEff_ok
    | with_reducible apply runCore_ok

theorem execBltu_ok (c : Nat) (w : Word) (s : State) (h : s.ok) : okOut (execBltu c w s) := by
  unfold execBltu
  repeat' first
    | with_reducible assumption
    | with_reducible apply branchEff_ok
    | with_reducible apply runCore_ok

theorem execBgeu_ok (c : Nat) (w : Word) (s : State) (h : s.ok) : okOut (execBgeu c w s) := by
  unfold execBgeu
  repeat' first
    | with_reducible assumption
    | with_reducible apply branchEff_ok
    | with_reducible apply runCore_ok

theorem execJal_ok (c : Nat) (w : Word) (s : State) (h : s.ok) : okOut (execJal c w s) := by
  unfold execJal
  repeat' first
    | with_reducible assumption
    | with_reducible apply Clu.on_ok
    | exact Core.setReg_keeps _ _ _ _
    | with_reducible apply runCore_ok
    | dsimp only
    | intro _

theorem execJalr_ok (c : Nat) (w : Word) (s : State) (h : s.ok) : okOut (execJalr c w s) := by
  unfold execJalr
  repeat' first
    | with_reducible assumption
    | with_reducible apply Clu.on_ok
    | exact Core.setReg_keeps _ _ _ _
    | with_reducible apply runCore_ok
    | dsimp only
    | intro _

theorem execLoop_ok (c : Nat) (w : Word) (s : State) (h : s.ok) : okOut (execLoop c w s) := by
  unfold execLoop
  repeat' first
    | with_reducible assumption
    | with_reducible apply loopEff_ok
    | with_reducible apply runCore_ok
    | dsimp only
    | split
    | intro _

theorem execLoopi_ok (c : Nat) (w : Word) (s : State) (h : s.ok) : okOut (execLoopi c w s) := by
  unfold execLoopi
  repeat' first
    | with_reducible assumption
    | with_reducible apply loopEff_ok
    | with_reducible apply runCore_ok

theorem execLcidx_ok (c : Nat) (w : Word) (s : State) (h : s.ok) : okOut (execLcidx c w s) := by
  unfold execLcidx
  repeat' first
    | with_reducible assumption
    | with_reducible apply Clu.on_ok
    | exact Core.setReg_keeps _ _ _ _
    | with_reducible apply runCore_ok
    | dsimp only
    | split
    | intro _

theorem execAgld_ok (c : Nat) (w : Word) (s : State) (h : s.ok) : okOut (execAgld c w s) := by
  unfold execAgld
  repeat' first
    | with_reducible assumption
    | with_reducible apply Clu.on_ok
    | exact ⟨fun h => h, rfl, rfl, rfl, List.length_set⟩
    | with_reducible apply runCore_ok
    | dsimp only
    | split
    | intro _

theorem execAgst_ok (c : Nat) (w : Word) (s : State) (h : s.ok) : okOut (execAgst c w s) := by
  unfold execAgst
  repeat' first
    | with_reducible assumption
    | with_reducible apply Clu.on_ok
    | exact ⟨fun h => Mem.wf_write _ _ h, rfl, rfl, rfl, rfl⟩
    | with_reducible apply runCore_ok
    | dsimp only
    | split
    | intro _

theorem execAgset_ok (c : Nat) (w : Word) (s : State) (h : s.ok) : okOut (execAgset c w s) := by
  unfold execAgset
  repeat' first
    | with_reducible assumption
    | with_reducible apply Clu.on_ok
    | exact ⟨fun h => h, rfl, rfl, rfl, List.length_set⟩
    | with_reducible apply runCore_ok
    | dsimp only
    | split
    | intro _

theorem execSwait_ok (c : Nat) (w : Word) (s : State) (h : s.ok) : okOut (execSwait c w s) := by
  unfold execSwait
  repeat' first
    | with_reducible assumption
    | with_reducible apply waitEff_ok
    | with_reducible apply runCore_ok

theorem execStake_ok (c : Nat) (w : Word) (s : State) (h : s.ok) : okOut (execStake c w s) := by
  unfold execStake
  repeat' first
    | with_reducible assumption
    | with_reducible apply waitEff_ok
    | with_reducible apply runCore_ok

theorem execSsig_ok (c : Nat) (w : Word) (s : State) (h : s.ok) : okOut (execSsig c w s) := by
  unfold execSsig
  repeat' first
    | with_reducible assumption
    | with_reducible apply ssigEff_ok
    | with_reducible apply runCore_ok

theorem execSset_ok (c : Nat) (w : Word) (s : State) (h : s.ok) : okOut (execSset c w s) := by
  unfold execSset
  repeat' first
    | with_reducible assumption
    | with_reducible apply Clu.modObj_ok
    | with_reducible apply runCore_ok
    | dsimp only
    | split
    | intro _

theorem execIssueF_ok (c : Nat) (w : Word) (w1 : Word) (s : State) (h : s.ok) : okOut (execIssueF c w w1 s) := by
  unfold execIssueF
  repeat' first
    | with_reducible assumption
    | with_reducible apply issueEff_ok
    | with_reducible apply runCore_ok

theorem execIssueM_ok (c : Nat) (w : Word) (w1 : Word) (s : State) (h : s.ok) : okOut (execIssueM c w w1 s) := by
  unfold execIssueM
  repeat' first
    | with_reducible assumption
    | with_reducible apply issueEff_ok
    | with_reducible apply runCore_ok

theorem execIssueV_ok (c : Nat) (w : Word) (w1 : Word) (s : State) (h : s.ok) : okOut (execIssueV c w w1 s) := by
  unfold execIssueV
  repeat' first
    | with_reducible assumption
    | with_reducible apply issueEff_ok
    | with_reducible apply runCore_ok

theorem execIssueH_ok (c : Nat) (w : Word) (w1 : Word) (s : State) (h : s.ok) : okOut (execIssueH c w w1 s) := by
  unfold execIssueH
  repeat' first
    | with_reducible assumption
    | with_reducible apply issueEff_ok
    | with_reducible apply runCore_ok

theorem execIssueS_ok (c : Nat) (w : Word) (w1 : Word) (s : State) (h : s.ok) : okOut (execIssueS c w w1 s) := by
  unfold execIssueS
  repeat' first
    | with_reducible assumption
    | with_reducible apply issueEff_ok
    | with_reducible apply runCore_ok

theorem execBarDrain_ok (c : Nat) (w : Word) (s : State) (h : s.ok) : okOut (execBarDrain c w s) := by
  unfold execBarDrain
  repeat' first
    | with_reducible assumption
    | with_reducible apply okOut_next
    | with_reducible apply okOut_fault
    | with_reducible apply barEff_ok
    | with_reducible apply runCore_ok
    | split

theorem execBarStage_ok (c : Nat) (w : Word) (s : State) (h : s.ok) : okOut (execBarStage c w s) := by
  unfold execBarStage
  repeat' first
    | with_reducible assumption
    | with_reducible apply okOut_next
    | with_reducible apply okOut_fault
    | with_reducible apply barEff_ok
    | with_reducible apply runCore_ok
    | split

theorem execBarEnd_ok (c : Nat) (w : Word) (s : State) (h : s.ok) : okOut (execBarEnd c w s) := by
  unfold execBarEnd
  repeat' first
    | with_reducible assumption
    | with_reducible apply okOut_next
    | with_reducible apply okOut_fault
    | with_reducible apply barEff_ok
    | with_reducible apply runCore_ok
    | split

theorem execRecb_ok (c : Nat) (w : Word) (s : State) (h : s.ok) : okOut (execRecb c w s) := by
  unfold execRecb
  repeat' first
    | with_reducible assumption
    | with_reducible apply Clu.on_ok
    | exact ⟨fun h => h, rfl, rfl, rfl, rfl⟩
    | with_reducible apply runCore_ok
    | dsimp only
    | split
    | intro _

theorem execVerd_ok (c : Nat) (w : Word) (s : State) (h : s.ok) : okOut (execVerd c w s) := by
  unfold execVerd
  repeat' first
    | with_reducible assumption
    | with_reducible apply Clu.on_ok
    | exact ⟨fun h => h, rfl, rfl, rfl, rfl⟩
    | with_reducible apply runCore_ok
    | dsimp only
    | split
    | intro _

theorem execRdcyc_ok (c : Nat) (w : Word) (s : State) (h : s.ok) : okOut (execRdcyc c w s) := by
  unfold execRdcyc
  repeat' first
    | with_reducible assumption
    | with_reducible apply Clu.on_ok
    | exact Core.setReg_keeps _ _ _ _
    | with_reducible apply runCore_ok
    | dsimp only
    | split
    | intro _

theorem execTrap_ok (c : Nat) (w : Word) (s : State) (h : s.ok) : okOut (execTrap c w s) := by
  unfold execTrap
  repeat' first
    | with_reducible assumption
    | with_reducible apply runCore_ok
    | dsimp only
    | split
    | intro _

theorem execSyncWaitMet_ok (c : Nat) (s : State) (h : s.ok) : okOut (execSyncWaitMet c s) := by
  unfold execSyncWaitMet
  repeat' first
    | with_reducible assumption
    | with_reducible apply okOut_next
    | with_reducible apply okOut_fault
    | with_reducible apply modClu_ok
    | with_reducible apply grant_ok
    | dsimp only
    | split

theorem execDeviceSignal_ok (o : Nat) (s : State) (h : s.ok) : okOut (execDeviceSignal o s) := by
  unfold execDeviceSignal
  repeat' first
    | with_reducible assumption
    | with_reducible apply okOut_next
    | with_reducible apply okOut_fault
    | with_reducible apply State.modSigs_ok
    | with_reducible apply dropSignal_ok
    | with_reducible apply applySignal_ok
    | dsimp only
    | split

theorem badDoorbell_ok (info : Nat) (s : State) (h : s.ok) : (badDoorbell info s).ok := by
  unfold badDoorbell
  repeat' first
    | with_reducible assumption
    | with_reducible apply raiseEvent_ok

theorem execSubmissionQueueDoorbell_ok (qid : Nat) (tail : Nat) (entries : List Sqe) (s : State) (h : s.ok)
    : okOut (execSubmissionQueueDoorbell qid tail entries s) := by
  unfold execSubmissionQueueDoorbell
  repeat' first
    | with_reducible assumption
    | with_reducible apply okOut_next
    | with_reducible apply foldl_ok
    | with_reducible apply answer_ok
    | with_reducible apply badDoorbell_ok
    | with_reducible apply enqueue_ok
    | dsimp only
    | split
    | intro _

theorem postBacklog_ok (cqid : Nat) (a : Nat) (s : State) (h : s.ok) : (postBacklog cqid a s).ok := by
  induction a generalizing s with
  | zero =>
    unfold postBacklog
    repeat' first
      | with_reducible assumption
  | succ n ih =>
    unfold postBacklog
    repeat' first
      | with_reducible assumption
      | with_reducible apply ih
      | with_reducible apply postNow_ok
      | with_reducible apply State.modNvm_ok
      | split

theorem execCompletionQueueDoorbell_ok (qid : Nat) (head : Nat) (s : State) (h : s.ok)
    : okOut (execCompletionQueueDoorbell qid head s) := by
  unfold execCompletionQueueDoorbell
  repeat' first
    | with_reducible assumption
    | with_reducible apply okOut_next
    | with_reducible apply answer_ok
    | with_reducible apply badDoorbell_ok
    | with_reducible apply State.modNvm_ok
    | with_reducible apply postBacklog_ok
    | dsimp only
    | split

theorem execControllerEnable_ok (r : CtlRegs) (s : State) (h : s.ok) : okOut (execControllerEnable r s) := by
  unfold execControllerEnable
  repeat' first
    | with_reducible assumption
    | with_reducible apply okOut_next
    | with_reducible apply answer_ok
    | with_reducible apply State.modNvm_ok
    | split

theorem execControllerDisable_ok (s : State) (h : s.ok) : okOut (execControllerDisable s) := by
  unfold execControllerDisable
  repeat' first
    | with_reducible assumption
    | with_reducible apply okOut_next
    | with_reducible apply answer_ok
    | with_reducible apply functionEnds_ok
    | split

theorem execShutdownNotification_ok (shn : BitVec 2) (s : State) (h : s.ok) : okOut (execShutdownNotification shn s) := by
  unfold execShutdownNotification
  repeat' first
    | with_reducible assumption
    | with_reducible apply okOut_next
    | with_reducible apply saveStamp_ok
    | with_reducible apply flushBuffer_ok
    | with_reducible apply answer_ok
    | (with_reducible apply State.modBoot_ok _ (fun h => h))
    | with_reducible apply State.modNvm_ok
    | dsimp only
    | split

theorem execNvmSubsystemReset_ok (v : Word) (s : State) (h : s.ok) : okOut (execNvmSubsystemReset v s) := by
  unfold execNvmSubsystemReset
  repeat' first
    | with_reducible assumption
    | with_reducible apply okOut_next
    | with_reducible apply answer_ok
    | with_reducible apply controllerReset_ok
    | split

theorem execPerstAssert_ok (s : State) (h : s.ok) : okOut (execPerstAssert s) := by
  unfold execPerstAssert
  repeat' first
    | with_reducible assumption
    | with_reducible apply answer_ok
    | with_reducible apply controllerReset_ok
    | with_reducible apply State.modGen_ok

theorem execPerstDeassert_ok (s : State) (h : s.ok) : okOut (execPerstDeassert s) := by
  unfold execPerstDeassert
  repeat' first
    | with_reducible assumption
    | with_reducible apply State.modGen_ok
    | with_reducible apply answer_ok
    | with_reducible apply beginStart_ok
    | split

theorem execHotReset_ok (s : State) (h : s.ok) : okOut (execHotReset s) := by
  unfold execHotReset
  repeat' first
    | with_reducible assumption
    | with_reducible apply okOut_next
    | with_reducible apply answer_ok
    | with_reducible apply functionReset_ok
    | split

theorem execFunctionLevelReset_ok (s : State) (h : s.ok) : okOut (execFunctionLevelReset s) := by
  unfold execFunctionLevelReset
  repeat' first
    | with_reducible assumption
    | with_reducible apply okOut_next
    | with_reducible apply answer_ok
    | with_reducible apply functionReset_ok
    | split

theorem execLinkDown_ok (s : State) (h : s.ok) : okOut (execLinkDown s) := by
  unfold execLinkDown
  repeat' first
    | with_reducible assumption
    | with_reducible apply okOut_next
    | with_reducible apply answer_ok
    | with_reducible apply State.modNvm_ok
    | with_reducible apply functionReset_ok
    | split

theorem execLinkRetrain_ok (rate : Nat) (width : Nat) (s : State) (h : s.ok) : okOut (execLinkRetrain rate width s) := by
  unfold execLinkRetrain
  repeat' first
    | with_reducible assumption
    | with_reducible apply okOut_next
    | with_reducible apply answer_ok
    | with_reducible apply State.modNvm_ok
    | split

theorem execPowerGood_ok (bay : BitVec 4) (i3c : Bool) (vin : Nat) (s : State) (h : s.ok)
    : okOut (execPowerGood bay i3c vin s) := by
  unfold execPowerGood
  repeat' first
    | with_reducible assumption
    | with_reducible apply okOut_next
    | with_reducible apply powerOn_ok
    | with_reducible apply State.modGen_ok
    | with_reducible apply answer_ok
    | (with_reducible apply State.modPwr_ok _ (fun h => h))
    | dsimp only
    | split

theorem execMemoryFillDone_ok (r : FillReport) (s : State) (h : s.ok) : okOut (execMemoryFillDone r s) := by
  unfold execMemoryFillDone
  repeat' first
    | with_reducible assumption
    | with_reducible apply answer_ok
    | with_reducible apply fillDone_ok

theorem execActivationCopyDone_ok (ok : Bool) (s : State) (h : s.ok) : okOut (execActivationCopyDone ok s) := by
  unfold execActivationCopyDone
  repeat' first
    | with_reducible assumption
    | with_reducible apply answer_ok
    | with_reducible apply copyDone_ok

theorem execReplayDone_ok (r : ReplayReport) (s : State) (h : s.ok) : okOut (execReplayDone r s) := by
  unfold execReplayDone
  repeat' first
    | with_reducible assumption
    | with_reducible apply answer_ok
    | with_reducible apply replayEnds_ok

theorem execStartTimerExpiry_ok (s : State) (h : s.ok) : okOut (execStartTimerExpiry s) := by
  unfold execStartTimerExpiry
  repeat' first
    | with_reducible assumption
    | with_reducible apply answer_ok
    | with_reducible apply timerExpires_ok

theorem leaveEnvelope_ok (s : State) (h : s.ok) : (leaveEnvelope s).ok := by
  unfold leaveEnvelope
  repeat' first
    | with_reducible assumption
    | with_reducible apply openKind_ok
    | with_reducible apply losePromise_ok
    | dsimp only
    | split

theorem losePower_ok (s : State) (h : s.ok) : (losePower s).ok := by
  unfold losePower
  repeat' first
    | with_reducible assumption
    | with_reducible apply powerLoss_ok
    | (with_reducible apply State.modPwr_ok _ (fun h => h))
    | split

theorem execPowerLossCondition_ok (line : Bool) (s : State) (h : s.ok) : okOut (execPowerLossCondition line s) := by
  unfold execPowerLossCondition
  repeat' first
    | with_reducible assumption
    | with_reducible apply okOut_next
    | with_reducible apply answer_ok
    | with_reducible apply losePower_ok
    | with_reducible apply State.modGen_ok
    | with_reducible apply leaveEnvelope_ok
    | split

theorem execOvervoltageTrip_ok (s : State) (h : s.ok) : okOut (execOvervoltageTrip s) := by
  unfold execOvervoltageTrip
  repeat' first
    | with_reducible assumption
    | with_reducible apply okOut_next
    | with_reducible apply answer_ok
    | with_reducible apply losePower_ok
    | with_reducible apply leaveEnvelope_ok
    | split

theorem execPowerStageFault_ok (stage : Nat) (s : State) (h : s.ok) : okOut (execPowerStageFault stage s) := by
  unfold execPowerStageFault
  repeat' first
    | with_reducible assumption
    | with_reducible apply okOut_next
    | with_reducible apply answer_ok
    | with_reducible apply losePower_ok
    | with_reducible apply addRecord_ok
    | split

theorem execDumpComplete_ok (recordOk : Bool) (us : Nat) (j : Nat) (s : State) (h : s.ok)
    : okOut (execDumpComplete recordOk us j s) := by
  unfold execDumpComplete
  repeat' first
    | with_reducible assumption
    | with_reducible apply answer_ok
    | with_reducible apply dumpEnds_ok

theorem execThermalShutdownRecovery_ok (t : List Int) (s : State) (h : s.ok) : okOut (execThermalShutdownRecovery t s) := by
  unfold execThermalShutdownRecovery
  repeat' first
    | with_reducible assumption
    | with_reducible apply okOut_next
    | with_reducible apply answer_ok
    | (with_reducible apply State.modPwr_ok _ (fun h => h))
    | with_reducible apply powerOn_ok
    | split

theorem barRead_ok (a : Nat) (size : Nat) (s : State) (h : s.ok) : okOut (barRead a size s) := by
  unfold barRead
  repeat' first
    | with_reducible assumption
    | with_reducible apply okOut_next
    | with_reducible apply busRead_ok
    | with_reducible apply answer_ok
    | with_reducible apply State.modBusReply_ok
    | dsimp only
    | split

theorem barWrite_ok (a : Nat) (v : Nat) (size : Nat) (s : State) (h : s.ok) : okOut (barWrite a v size s) := by
  unfold barWrite
  repeat' first
    | with_reducible assumption
    | with_reducible apply okOut_next
    | with_reducible apply answer_ok
    | with_reducible apply busWrite_ok
    | split

theorem execBar2Read_ok (a : Word) (size : Nat) (s : State) (h : s.ok) : okOut (execBar2Read a size s) := by
  unfold execBar2Read
  repeat' first
    | with_reducible assumption
    | with_reducible apply barRead_ok

theorem execBar2Write_ok (a : Word) (v : Word) (size : Nat) (s : State) (h : s.ok) : okOut (execBar2Write a v size s) := by
  unfold execBar2Write
  repeat' first
    | with_reducible assumption
    | with_reducible apply barWrite_ok

theorem execRegisterPairLoRead_ok (a : Word) (s : State) (h : s.ok) : okOut (execRegisterPairLoRead a s) := by
  unfold execRegisterPairLoRead
  repeat' first
    | with_reducible assumption
    | with_reducible apply barRead_ok

theorem execRegisterPairHiWrite_ok (a : Word) (v : Word) (s : State) (h : s.ok) : okOut (execRegisterPairHiWrite a v s) := by
  unfold execRegisterPairHiWrite
  repeat' first
    | with_reducible assumption
    | with_reducible apply barWrite_ok

theorem execCluCtlHaltreq_ok (c : Nat) (s : State) (h : s.ok) : okOut (execCluCtlHaltreq c s) := by
  unfold execCluCtlHaltreq
  repeat' first
    | with_reducible assumption
    | with_reducible apply okOut_fault
    | with_reducible apply barWrite_ok
    | split

theorem execCluCtlFreload_ok (c : Nat) (s : State) (h : s.ok) : okOut (execCluCtlFreload c s) := by
  unfold execCluCtlFreload
  repeat' first
    | with_reducible assumption
    | with_reducible apply okOut_fault
    | with_reducible apply barWrite_ok
    | split

theorem execCluTmctlRead_ok (c : Nat) (s : State) (h : s.ok) : okOut (execCluTmctlRead c s) := by
  unfold execCluTmctlRead
  repeat' first
    | with_reducible assumption
    | with_reducible apply okOut_fault
    | with_reducible apply barWrite_ok
    | split

theorem execCluTmctlWrite_ok (c : Nat) (v : Word) (s : State) (h : s.ok) : okOut (execCluTmctlWrite c v s) := by
  unfold execCluTmctlWrite
  repeat' first
    | with_reducible assumption
    | with_reducible apply okOut_fault
    | with_reducible apply barWrite_ok
    | split

theorem execCluTfinfoWrite_ok (c : Nat) (v : Word) (s : State) (h : s.ok) : okOut (execCluTfinfoWrite c v s) := by
  unfold execCluTfinfoWrite
  repeat' first
    | with_reducible assumption
    | with_reducible apply okOut_fault
    | with_reducible apply barWrite_ok
    | split

theorem execCluAstatWrite_ok (c : Nat) (v : Word) (s : State) (h : s.ok) : okOut (execCluAstatWrite c v s) := by
  unfold execCluAstatWrite
  repeat' first
    | with_reducible assumption
    | with_reducible apply okOut_fault
    | with_reducible apply barWrite_ok
    | split

theorem execSyncValueWrite_ok (o : Nat) (v : Word) (s : State) (h : s.ok) : okOut (execSyncValueWrite o v s) := by
  unfold execSyncValueWrite
  repeat' first
    | with_reducible assumption
    | with_reducible apply okOut_fault
    | with_reducible apply barWrite_ok
    | split

theorem execSyncStatWrite_ok (o : Nat) (v : Word) (s : State) (h : s.ok) : okOut (execSyncStatWrite o v s) := by
  unfold execSyncStatWrite
  repeat' first
    | with_reducible assumption
    | with_reducible apply okOut_fault
    | with_reducible apply barWrite_ok
    | split

theorem execCadVstatWrite_ok (v : Word) (s : State) (h : s.ok) : okOut (execCadVstatWrite v s) := by
  unfold execCadVstatWrite
  repeat' first
    | with_reducible assumption
    | with_reducible apply barWrite_ok

theorem execCisTestStart_ok (v : Word) (s : State) (h : s.ok) : okOut (execCisTestStart v s) := by
  unfold execCisTestStart
  repeat' first
    | with_reducible assumption
    | with_reducible apply barWrite_ok

theorem execMedCtlWrite_ok (v : Word) (s : State) (h : s.ok) : okOut (execMedCtlWrite v s) := by
  unfold execMedCtlWrite
  repeat' first
    | with_reducible assumption
    | with_reducible apply barWrite_ok

theorem execRasCtlWrite_ok (v : Word) (s : State) (h : s.ok) : okOut (execRasCtlWrite v s) := by
  unfold execRasCtlWrite
  repeat' first
    | with_reducible assumption
    | with_reducible apply barWrite_ok

theorem execRasInjArm_ok (v : Word) (s : State) (h : s.ok) : okOut (execRasInjArm v s) := by
  unfold execRasInjArm
  repeat' first
    | with_reducible assumption
    | with_reducible apply barWrite_ok

theorem execGenFaultWrite_ok (v : Word) (s : State) (h : s.ok) : okOut (execGenFaultWrite v s) := by
  unfold execGenFaultWrite
  repeat' first
    | with_reducible assumption
    | with_reducible apply barWrite_ok

theorem execBootCtlCrst_ok (v : Word) (s : State) (h : s.ok) : okOut (execBootCtlCrst v s) := by
  unfold execBootCtlCrst
  repeat' first
    | with_reducible assumption
    | with_reducible apply barWrite_ok

theorem execBootNativeProgram_ok (v : Word) (s : State) (h : s.ok) : okOut (execBootNativeProgram v s) := by
  unfold execBootNativeProgram
  repeat' first
    | with_reducible assumption
    | with_reducible apply barWrite_ok

theorem execBootPulseVerifiedProgram_ok (v : Word) (s : State) (h : s.ok) : okOut (execBootPulseVerifiedProgram v s) := by
  unfold execBootPulseVerifiedProgram
  repeat' first
    | with_reducible assumption
    | with_reducible apply barWrite_ok

theorem execBootErase_ok (v : Word) (s : State) (h : s.ok) : okOut (execBootErase v s) := by
  unfold execBootErase
  repeat' first
    | with_reducible assumption
    | with_reducible apply barWrite_ok

theorem execBootPstatWrite_ok (v : Word) (s : State) (h : s.ok) : okOut (execBootPstatWrite v s) := by
  unfold execBootPstatWrite
  repeat' first
    | with_reducible assumption
    | with_reducible apply barWrite_ok

theorem execBootRwinRead_ok (j : Nat) (s : State) (h : s.ok) : okOut (execBootRwinRead j s) := by
  unfold execBootRwinRead
  repeat' first
    | with_reducible assumption
    | with_reducible apply okOut_fault
    | with_reducible apply barRead_ok
    | split

theorem begin__ok (c : Nat) (e : Nat) (arrays : Nat) (k : ECmd) (s : State) (h : s.ok) : (begin_ c e arrays k s).ok := by
  unfold begin_
  repeat' first
    | with_reducible assumption
    | with_reducible apply modClu_ok
    | with_reducible apply Clu.modQ_ok
    | with_reducible apply grant_ok
    | dsimp only
    | split
    | intro _

theorem applyFinished_ok (c : Nat) (e : Nat) (a : Nat) (s : State) (h : s.ok) : (applyFinished c e a s).ok := by
  induction a generalizing s with
  | zero =>
    unfold applyFinished
    repeat' first
      | with_reducible assumption
  | succ n ih =>
    unfold applyFinished
    repeat' first
      | with_reducible assumption
      | with_reducible apply ih
      | with_reducible apply modClu_ok
      | with_reducible apply sendSignal_ok
      | with_reducible apply Clu.modQ_ok
      | dsimp only
      | split

theorem finish_ok (c : Nat) (e : Nat) (seq : Nat) (s : State) (h : s.ok) : (finish c e seq s).ok := by
  unfold finish
  repeat' first
    | with_reducible assumption
    | with_reducible apply modClu_ok
    | with_reducible apply Clu.modQ_ok
    | with_reducible apply applyFinished_ok
    | dsimp only
    | split

theorem startFetch_ok (c : Nat) (k : ECmd) (s : State) (h : s.ok) : (startFetch c k s).ok := by
  unfold startFetch
  repeat' first
    | with_reducible assumption
    | with_reducible apply contextFault_ok
    | with_reducible apply begin__ok
    | with_reducible apply startOp_ok
    | dsimp only
    | split

theorem startStore_ok (c : Nat) (k : ECmd) (s : State) (h : s.ok) : (startStore c k s).ok := by
  unfold startStore
  repeat' first
    | with_reducible assumption
    | with_reducible apply contextFault_ok
    | with_reducible apply begin__ok
    | with_reducible apply startOp_ok
    | dsimp only
    | split

theorem runFetch_ok (c : Nat) (ops : Nat → Bool) (s : State) (h : s.ok) : okOut (runFetch c ops s) := by
  unfold runFetch
  repeat' first
    | with_reducible assumption
    | with_reducible apply okOut_next
    | with_reducible apply okOut_fault
    | with_reducible apply startFetch_ok
    | with_reducible apply contextFault_ok
    | split

theorem runStore_ok (c : Nat) (ops : Nat → Bool) (s : State) (h : s.ok) : okOut (runStore c ops s) := by
  unfold runStore
  repeat' first
    | with_reducible assumption
    | with_reducible apply okOut_next
    | with_reducible apply okOut_fault
    | with_reducible apply startStore_ok
    | split

theorem execFetchCopy_ok (c : Nat) (s : State) (h : s.ok) : okOut (execFetchCopy c s) := by
  unfold execFetchCopy
  repeat' first
    | with_reducible assumption
    | with_reducible apply runFetch_ok

theorem execFetchGather_ok (c : Nat) (s : State) (h : s.ok) : okOut (execFetchGather c s) := by
  unfold execFetchGather
  repeat' first
    | with_reducible assumption
    | with_reducible apply runFetch_ok

theorem execFetchCopyrel_ok (c : Nat) (s : State) (h : s.ok) : okOut (execFetchCopyrel c s) := by
  unfold execFetchCopyrel
  repeat' first
    | with_reducible assumption
    | with_reducible apply runFetch_ok

theorem execStoreCopy_ok (c : Nat) (s : State) (h : s.ok) : okOut (execStoreCopy c s) := by
  unfold execStoreCopy
  repeat' first
    | with_reducible assumption
    | with_reducible apply runStore_ok

theorem execStoreAppend_ok (c : Nat) (s : State) (h : s.ok) : okOut (execStoreAppend c s) := by
  unfold execStoreAppend
  repeat' first
    | with_reducible assumption
    | with_reducible apply runStore_ok

theorem execStoreVappend_ok (c : Nat) (s : State) (h : s.ok) : okOut (execStoreVappend c s) := by
  unfold execStoreVappend
  repeat' first
    | with_reducible assumption
    | with_reducible apply runStore_ok

theorem execStorePlist_ok (c : Nat) (s : State) (h : s.ok) : okOut (execStorePlist c s) := by
  unfold execStorePlist
  repeat' first
    | with_reducible assumption
    | with_reducible apply runStore_ok

theorem resvWrite_ok (a : Nat) (bs : List Byte) (pois : List Nat) (s : State) (h : s.ok) : (resvWrite a bs pois s).ok := by
  unfold resvWrite
  repeat' first
    | with_reducible assumption
    | with_reducible apply State.modResv_ok
    | with_reducible apply Mem.wf_write

theorem addPoison_ok (p : Nat) (c : Nat) (ids : List Nat) (s : State) (h : s.ok) : (addPoison p c ids s).ok := by
  unfold addPoison
  repeat' first
    | with_reducible assumption
    | with_reducible apply foldl_ok
    | with_reducible apply modClu_ok
    | with_reducible apply modRun_ok
    | with_reducible apply tearJob_ok
    | (rename_i x hx; exact Clu.ok_of_eq hx rfl rfl rfl rfl rfl rfl rfl rfl rfl rfl)
    | dsimp only
    | split
    | intro _

theorem moveFetch_ok (c : Nat) (k : ECmd) (s : State) (h : s.ok) : (moveFetch c k s).ok := by
  unfold moveFetch
  repeat' first
    | with_reducible assumption
    | (rename_i x hx; exact ⟨hx.1, hx.2.1, hx.2.2.1, releaseSlots_wf _ _ _ hx.2.2.2.1, hx.2.2.2.2⟩)
    | with_reducible apply foldl_ok
    | with_reducible apply modClu_ok
    | (with_reducible apply State.modResv_ok _ (fun h => h))
    | with_reducible apply Clu.tileFill_ok
    | dsimp only
    | split
    | intro _

theorem moveStore_ok (c : Nat) (k : ECmd) (s : State) (h : s.ok) : (moveStore c k s).ok := by
  unfold moveStore
  repeat' first
    | with_reducible assumption
    | with_reducible apply foldl_ok
    | with_reducible apply resvWrite_ok
    | with_reducible apply modRun_ok
    | with_reducible apply addPoison_ok
    | dsimp only
    | split
    | intro _

theorem execTransferComplete_ok (c : Nat) (e : Engine) (seq : Nat) (s : State) (h : s.ok)
    : okOut (execTransferComplete c e seq s) := by
  unfold execTransferComplete
  repeat' first
    | with_reducible assumption
    | with_reducible apply okOut_next
    | with_reducible apply okOut_fault
    | with_reducible apply finish_ok
    | with_reducible apply moveFetch_ok
    | with_reducible apply moveStore_ok
    | dsimp only
    | split

theorem execEngineCommandFinish_ok (c : Nat) (e : Engine) (s : State) (h : s.ok) : okOut (execEngineCommandFinish c e s) := by
  unfold execEngineCommandFinish
  repeat' first
    | with_reducible assumption
    | with_reducible apply okOut_next
    | with_reducible apply okOut_fault
    | with_reducible apply finish_ok
    | dsimp only
    | split

theorem dropMsg_ok (s : State) (h : s.ok) : (dropMsg s).ok := by
  unfold dropMsg
  repeat' first
    | with_reducible assumption
    | with_reducible apply State.modLnk_ok

theorem sendReject_ok (m : Msg) (reason : Nat) (s : State) (h : s.ok) : (sendReject m reason s).ok := by
  unfold sendReject
  repeat' first
    | with_reducible assumption
    | with_reducible apply emit_ok

theorem sendAck_ok (m : Msg) (s : State) (h : s.ok) : (sendAck m s).ok := by
  unfold sendAck
  repeat' first
    | with_reducible assumption
    | with_reducible apply emit_ok

theorem acknowledged_ok (dev : Nat) (flow : Nat) (ack : Nat) (s : State) (h : s.ok) : (acknowledged dev flow ack s).ok := by
  unfold acknowledged
  repeat' first
    | with_reducible assumption
    | with_reducible apply foldl_ok
    | with_reducible apply setFlow_ok
    | with_reducible apply dropOp_ok
    | dsimp only
    | split
    | intro _

theorem noteArrival_ok (m : Msg) (s : State) (h : s.ok) : (noteArrival m s).ok := by
  unfold noteArrival
  repeat' first
    | with_reducible assumption
    | with_reducible apply modPeer_ok
    | with_reducible apply modPort_ok
    | with_reducible apply acknowledged_ok
    | split

theorem bind_ok (m : Msg) (s : State) (h : s.ok) : (bind m s).ok := by
  unfold bind
  repeat' first
    | with_reducible assumption
    | with_reducible apply State.modLnk_ok
    | with_reducible apply sendBindAck_ok
    | dsimp only
    | split

theorem bindAck_ok (m : Msg) (s : State) (h : s.ok) : (bindAck m s).ok := by
  unfold bindAck
  repeat' first
    | with_reducible assumption
    | with_reducible apply foldl_ok
    | with_reducible apply State.modLnk_ok
    | with_reducible apply emit_ok
    | dsimp only
    | split
    | intro _

theorem remoteRead_ok (m : Msg) (s : State) (h : s.ok) : (remoteRead m s).ok := by
  unfold remoteRead
  repeat' first
    | with_reducible assumption
    | with_reducible apply dropMsg_ok
    | with_reducible apply sendReject_ok
    | with_reducible apply emit_ok
    | dsimp only
    | split

theorem countReply_ok (o : RemOp) (addr : Nat) (s : State) (h : s.ok) : (countReply o addr s).ok := by
  unfold countReply
  repeat' first
    | with_reducible assumption
    | with_reducible apply dropOp_ok
    | with_reducible apply State.modLnk_ok
    | split

theorem remoteData_ok (m : Msg) (s : State) (h : s.ok) : (remoteData m s).ok := by
  unfold remoteData
  repeat' first
    | with_reducible assumption
    | with_reducible apply modClu_ok
    | with_reducible apply poisonOrigin_ok
    | with_reducible apply countReply_ok
    | with_reducible apply Clu.tileFill_ok
    | dsimp only
    | split

theorem remoteWrite_ok (m : Msg) (s : State) (h : s.ok) : (remoteWrite m s).ok := by
  unfold remoteWrite
  repeat' first
    | with_reducible assumption
    | with_reducible apply dropMsg_ok
    | with_reducible apply sendReject_ok
    | with_reducible apply poisonOrigin_ok
    | with_reducible apply resvWrite_ok
    | with_reducible apply emit_ok
    | dsimp only
    | split

theorem writeAck_ok (m : Msg) (s : State) (h : s.ok) : (writeAck m s).ok := by
  unfold writeAck
  repeat' first
    | with_reducible assumption
    | with_reducible apply countReply_ok
    | split

theorem remoteSignal_ok (m : Msg) (s : State) (h : s.ok) : (remoteSignal m s).ok := by
  unfold remoteSignal
  repeat' first
    | with_reducible assumption
    | with_reducible apply dropMsg_ok
    | with_reducible apply dropSignal_ok
    | with_reducible apply applySignal_ok
    | dsimp only
    | split

theorem cancelContext_ok (m : Msg) (s : State) (h : s.ok) : (cancelContext m s).ok := by
  unfold cancelContext
  repeat' first
    | with_reducible assumption
    | with_reducible apply foldl_ok
    | with_reducible apply State.modLnk_ok
    | with_reducible apply modPart_ok
    | with_reducible apply tearJob_ok
    | with_reducible apply emit_ok
    | dsimp only
    | split
    | intro _

theorem waking_ok (m : Msg) (s : State) (h : s.ok) : (waking m s).ok := by
  unfold waking
  repeat' first
    | with_reducible assumption
    | with_reducible apply State.modLnk_ok

theorem fanMissing_ok (f : Fan) (dev : Nat) (st : Status) (s : State) (h : s.ok) : (fanMissing f dev st s).ok := by
  unfold fanMissing
  repeat' first
    | with_reducible assumption
    | with_reducible apply foldl_ok
    | with_reducible apply memberMissing_ok
    | with_reducible apply emit_ok
    | with_reducible apply shuffleWithout_ok
    | dsimp only
    | split
    | intro _

theorem rejected_ok (m : Msg) (s : State) (h : s.ok) : (rejected m s).ok := by
  unfold rejected
  repeat' first
    | with_reducible assumption
    | with_reducible apply foldl_ok
    | with_reducible apply fanMissing_ok
    | with_reducible apply contextFault_ok
    | with_reducible apply dropOp_ok
    | with_reducible apply State.modLnk_ok
    | with_reducible apply failOp_ok
    | dsimp only
    | split
    | intro _

theorem takePart_ok (m : Msg) (s : State) (h : s.ok) : (takePart m s).2.ok := by
  unfold takePart
  repeat' first
    | with_reducible assumption
    | with_reducible apply State.modLnk_ok
    | dsimp only
    | split

theorem declineShuffle_ok (m : Msg) (reason : Nat) (nsid : Nat) (params : List Byte) (s : State) (h : s.ok)
    : (declineShuffle m reason nsid params s).ok := by
  unfold declineShuffle
  repeat' first
    | with_reducible assumption
    | with_reducible apply foldl_ok
    | with_reducible apply sendReject_ok
    | with_reducible apply emit_ok
    | dsimp only
    | intro _

theorem fanRequest_ok (m : Msg) (s : State) (h : s.ok) : (fanRequest m s).ok := by
  have h1 := takePart_ok m s h
  unfold fanRequest
  split
  · next t ht =>
    rw [ht] at h1
    exact h1
  · next body t ht =>
    rw [ht] at h1
    repeat' first
      | with_reducible exact h1
      | with_reducible apply declineShuffle_ok
      | with_reducible apply startShuffle_ok
      | with_reducible apply sendReject_ok
      | with_reducible apply placeJob_ok
      | dsimp only
      | split

theorem fanProgress_ok (m : Msg) (s : State) (h : s.ok) : (fanProgress m s).ok := by
  unfold fanProgress
  repeat' first
    | with_reducible assumption
    | with_reducible apply State.modLnk_ok

theorem fanResult_ok (m : Msg) (s : State) (h : s.ok) : (fanResult m s).ok := by
  unfold fanResult
  repeat' first
    | with_reducible assumption
    | (refine snd_ok (by assumption) (takePart_ok _ _ ?_ ))
    | with_reducible apply modFan_ok
    | with_reducible apply fanMissing_ok
    | split

theorem openShuffle_ok (tag : Nat) (fdev : Nat) (s : State) (h : s.ok) : (openShuffle tag fdev s).ok := by
  unfold openShuffle
  repeat' first
    | with_reducible assumption
    | with_reducible apply State.modLnk_ok
    | dsimp only
    | split

theorem shuffleItem_ok (m : Msg) (s : State) (h : s.ok) : (shuffleItem m s).ok := by
  unfold shuffleItem
  repeat' first
    | with_reducible assumption
    | with_reducible apply modShuffle_ok
    | with_reducible apply openShuffle_ok

theorem shuffleEnd_ok (m : Msg) (s : State) (h : s.ok) : (shuffleEnd m s).ok := by
  unfold shuffleEnd
  repeat' first
    | with_reducible assumption
    | with_reducible apply openShuffle_ok
    | with_reducible apply shuffleWithout_ok
    | with_reducible apply modShuffle_ok
    | with_reducible apply State.modLnk_ok
    | with_reducible apply shuffleStep_ok
    | dsimp only
    | split

theorem shufflePairs_ok (m : Msg) (s : State) (h : s.ok) : (shufflePairs m s).ok := by
  unfold shufflePairs
  repeat' first
    | with_reducible assumption
    | with_reducible apply ownerDone_ok
    | with_reducible apply State.modLnk_ok
    | dsimp only
    | split

theorem serve_ok (m : Msg) (s : State) (h : s.ok) : (serve m s).ok := by
  unfold serve
  repeat' first
    | with_reducible assumption
    | with_reducible apply dropMsg_ok
    | with_reducible apply sendReject_ok
    | with_reducible apply emit_ok
    | with_reducible apply modPeer_ok
    | with_reducible apply bind_ok
    | with_reducible apply bindAck_ok
    | with_reducible apply remoteRead_ok
    | with_reducible apply remoteData_ok
    | with_reducible apply remoteWrite_ok
    | with_reducible apply writeAck_ok
    | with_reducible apply remoteSignal_ok
    | with_reducible apply cancelContext_ok
    | with_reducible apply waking_ok
    | with_reducible apply rejected_ok
    | with_reducible apply fanRequest_ok
    | with_reducible apply fanProgress_ok
    | with_reducible apply fanResult_ok
    | with_reducible apply shuffleItem_ok
    | with_reducible apply shufflePairs_ok
    | with_reducible apply shuffleEnd_ok
    | split

theorem accept_ok (m : Msg) (s : State) (h : s.ok) : (accept m s).ok := by
  unfold accept
  repeat' first
    | with_reducible assumption
    | with_reducible apply emit_ok
    | with_reducible apply beginExit_ok
    | with_reducible apply State.modLnk_ok
    | with_reducible apply serve_ok
    | dsimp only
    | split

theorem serveHeld_ok (s : State) (h : s.ok) : (serveHeld s).ok := by
  unfold serveHeld
  repeat' first
    | with_reducible assumption
    | with_reducible apply foldl_ok
    | with_reducible apply serve_ok
    | with_reducible apply State.modLnk_ok
    | intro _

theorem arrives_ok (m : Msg) (s : State) (h : s.ok) : (arrives m s).ok := by
  unfold arrives
  repeat' first
    | with_reducible assumption
    | with_reducible apply dropMsg_ok
    | with_reducible apply noteArrival_ok
    | with_reducible apply serve_ok
    | with_reducible apply sendAck_ok
    | with_reducible apply State.modLnk_ok
    | with_reducible apply accept_ok
    | with_reducible apply setFlow_ok
    | dsimp only
    | split

end Sys2Proof.Machine
end

