-- ==== Sys2Proof/Laws/KeepEvents.lean ====
section
/-! SUPPORT. What keeps a safe state: the rows of events. -/

namespace Sys2Proof.Machine

theorem frameMarker_ok (s : State) (h : s.ok) : (frameMarker s).ok := by
  have h1 : (useCadsrc (applyCommit s)).ok := useCadsrc_ok _ (applyCommit_ok _ h)
  unfold frameMarker
  dsimp only
  refine ageGrants_ok _ _ (throttleFrame_ok _ ?_)
  split
  · next ps sqid cid he =>
    have h2 := enterState_ok ps _ (h1.pwr _ he) (State.modPwr_ok (fun p => { p with pendingPs := none }) (fun _ e he => by cases he) h1)
    split
    · exact complete_ok _ _ _ _ _ _ h2
    · exact h2
  · exact h1

theorem measurePeriod_ok (owned : Bool) (s : State) (h : s.ok) : (measurePeriod owned s).ok := by
  unfold measurePeriod
  repeat' first
    | with_reducible assumption
    | with_reducible apply draw_ok
    | (with_reducible apply State.modPwr_ok _ (fun h => h))

theorem afterEdge_ok (owned : Bool) (r : State × EdgeKind) (h : r.1.ok) : (afterEdge owned r).ok := by
  unfold afterEdge
  split
  · exact h
  · exact noteAwake_ok _ (ownedPeriod_ok _ (askErases_ok _ (measurePeriod_ok _ _ h)))
  · exact noteAwake_ok _ (ownedPeriod_ok _ (askErases_ok _ (frameMarker_ok _ (measurePeriod_ok _ _ h))))

theorem cadencePulse_ok (len : Nat) (high : Nat) (s : State) (h : s.ok) : (cadencePulse len high s).ok := by
  unfold cadencePulse
  repeat' first
    | with_reducible assumption
    | with_reducible apply afterEdge_ok
    | with_reducible apply pulse_ok
    | with_reducible apply State.modGen_ok
    | split

theorem execCadenceEdge_ok (len : Nat) (high : Nat) (s : State) (h : s.ok) : okOut (execCadenceEdge len high s) := by
  unfold execCadenceEdge
  repeat' first
    | with_reducible assumption
    | with_reducible apply answer_ok
    | with_reducible apply cadencePulse_ok

theorem execCadenceMarker_ok (len : Nat) (high : Nat) (s : State) (h : s.ok) : okOut (execCadenceMarker len high s) := by
  unfold execCadenceMarker
  repeat' first
    | with_reducible assumption
    | with_reducible apply answer_ok
    | with_reducible apply cadencePulse_ok

theorem execCadenceLoss_ok (s : State) (h : s.ok) : okOut (execCadenceLoss s) := by
  unfold execCadenceLoss
  repeat' first
    | with_reducible assumption
    | with_reducible apply okOut_next
    | with_reducible apply State.modGen_ok
    | with_reducible apply answer_ok
    | with_reducible apply toSurrogate_ok
    | dsimp only
    | split

theorem execSurrogatePeriod_ok (s : State) (h : s.ok) : okOut (execSurrogatePeriod s) := by
  unfold execSurrogatePeriod
  repeat' first
    | with_reducible assumption
    | with_reducible apply okOut_next
    | with_reducible apply answer_ok
    | with_reducible apply afterEdge_ok
    | with_reducible apply surrogateTick_ok
    | split

theorem execCadenceAcquireTimeout_ok (s : State) (h : s.ok) : okOut (execCadenceAcquireTimeout s) := by
  unfold execCadenceAcquireTimeout
  repeat' first
    | with_reducible assumption
    | with_reducible apply okOut_next
    | with_reducible apply answer_ok
    | with_reducible apply raiseEvent_ok
    | with_reducible apply State.modCad_ok
    | split

theorem execGrantRelease_ok (u : GUnit) (s : State) (h : s.ok) : okOut (execGrantRelease u s) := by
  unfold execGrantRelease
  repeat' first
    | with_reducible assumption
    | with_reducible apply okOut_next
    | with_reducible apply answer_ok
    | (with_reducible apply State.modPwr_ok _ (fun h => h))
    | split

theorem readSensors_ok (t : List Int) (s : State) (h : s.ok) : (readSensors t s).ok := by
  unfold readSensors
  repeat' first
    | with_reducible assumption
    | with_reducible apply foldl_ok
    | (with_reducible apply State.modPwr_ok _ (fun h => h))
    | with_reducible apply addRecord_ok
    | with_reducible apply smartEvent_ok
    | with_reducible apply leaveEnvelope_ok
    | dsimp only
    | split
    | intro _

theorem execThermalSensorRead_ok (t : List Int) (s : State) (h : s.ok) : okOut (execThermalSensorRead t s) := by
  unfold execThermalSensorRead
  repeat' first
    | with_reducible assumption
    | with_reducible apply okOut_next
    | with_reducible apply answer_ok
    | with_reducible apply readSensors_ok
    | split

theorem execThermalShutdown_ok (sensor : Nat) (s : State) (h : s.ok) : okOut (execThermalShutdown sensor s) := by
  unfold execThermalShutdown
  repeat' first
    | with_reducible assumption
    | with_reducible apply okOut_next
    | with_reducible apply okOut_fault
    | with_reducible apply answer_ok
    | with_reducible apply thermalStop_ok
    | split

theorem execEnvelopeRecovery_ok (s : State) (h : s.ok) : okOut (execEnvelopeRecovery s) := by
  unfold execEnvelopeRecovery
  repeat' first
    | with_reducible assumption
    | with_reducible apply okOut_next
    | with_reducible apply answer_ok
    | with_reducible apply keepPromise_ok
    | split

theorem endBurst_ok (s : State) (h : s.ok) : (endBurst s).ok := by
  unfold endBurst
  repeat' first
    | with_reducible assumption
    | with_reducible apply State.modCis_ok
    | (with_reducible apply State.modPwr_ok _ (fun h => h))
    | dsimp only
    | split

theorem execRechargeBurstEnd_ok (s : State) (h : s.ok) : okOut (execRechargeBurstEnd s) := by
  unfold execRechargeBurstEnd
  repeat' first
    | with_reducible assumption
    | with_reducible apply okOut_next
    | with_reducible apply answer_ok
    | with_reducible apply askRecharge_ok
    | with_reducible apply endBurst_ok
    | split

theorem readStrings_ok (r : StringReport) (s : State) (h : s.ok) : (readStrings r s).ok := by
  unfold readStrings
  repeat' first
    | with_reducible assumption
    | with_reducible apply foldl_ok
    | with_reducible apply State.modCis_ok
    | with_reducible apply failString_ok
    | with_reducible apply endBurst_ok
    | with_reducible apply askRecharge_ok
    | dsimp only
    | split
    | intro _

theorem execStringMonitorRead_ok (r : StringReport) (s : State) (h : s.ok) : okOut (execStringMonitorRead r s) := by
  unfold execStringMonitorRead
  repeat' first
    | with_reducible assumption
    | with_reducible apply okOut_next
    | with_reducible apply answer_ok
    | with_reducible apply readStrings_ok
    | split

theorem execSpareStringSwitchedIn_ok (s : State) (h : s.ok) : okOut (execSpareStringSwitchedIn s) := by
  unfold execSpareStringSwitchedIn
  repeat' first
    | with_reducible assumption
    | with_reducible apply okOut_next
    | with_reducible apply answer_ok
    | with_reducible apply switchSpare_ok
    | split

theorem execStringTestSchedule_ok (s : State) (h : s.ok) : okOut (execStringTestSchedule s) := by
  unfold execStringTestSchedule
  repeat' first
    | with_reducible assumption
    | with_reducible apply okOut_next
    | with_reducible apply answer_ok
    | with_reducible apply startTest_ok
    | split

theorem testedString_ok (i : Nat) (cap : Nat) (esr : Nat) (s : State) (h : s.ok) : (testedString i cap esr s).ok := by
  unfold testedString
  repeat' first
    | with_reducible assumption
    | with_reducible apply State.modCis_ok
    | with_reducible apply failString_ok
    | with_reducible apply advanceTest_ok
    | with_reducible apply recompute_ok
    | dsimp only
    | split

theorem execStringTestDone_ok (i : Nat) (cap : Nat) (esr : Nat) (s : State) (h : s.ok)
    : okOut (execStringTestDone i cap esr s) := by
  unfold execStringTestDone
  repeat' first
    | with_reducible assumption
    | with_reducible apply okOut_fault
    | with_reducible apply answer_ok
    | with_reducible apply testedString_ok
    | split

theorem execAllowanceRecompute_ok (s : State) (h : s.ok) : okOut (execAllowanceRecompute s) := by
  unfold execAllowanceRecompute
  repeat' first
    | with_reducible assumption
    | with_reducible apply okOut_next
    | with_reducible apply answer_ok
    | with_reducible apply advanceTest_ok
    | with_reducible apply recompute_ok
    | split

theorem releaseHeld_ok (s : State) (h : s.ok) : (releaseHeld s).ok := by
  unfold releaseHeld
  repeat' first
    | with_reducible assumption
    | with_reducible apply foldl_ok
    | with_reducible apply beginExit_ok
    | with_reducible apply route_ok
    | split
    | intro _

theorem stopClusters_ok (s : State) (h : s.ok) : (stopClusters s).ok := by
  unfold stopClusters
  repeat' first
    | with_reducible assumption
    | (rename_i x hx; exact ⟨Mem.wf_nil, Mem.wf_nil, hx.2.2⟩)
    | with_reducible apply State.modClus_map_ok
    | (with_reducible apply State.modPwr_ok _ (fun h => h))
    | intro _

theorem powerDown_ok (s : State) (h : s.ok) : (powerDown s).ok := by
  unfold powerDown
  repeat' first
    | with_reducible assumption
    | with_reducible apply foldl_ok
    | with_reducible apply dropSets_ok
    | with_reducible apply flushBuffer_ok
    | with_reducible apply State.modStore_ok
    | with_reducible apply State.modMedia_ok
    | with_reducible apply State.modResv_ok
    | with_reducible apply portDown_ok
    | (with_reducible apply State.modBoot_ok _ (fun h => h))
    | with_reducible exact Mem.wf_nil
    | dsimp only
    | intro _

theorem execPowerStateEntryDrained_ok (s : State) (h : s.ok) : okOut (execPowerStateEntryDrained s) := by
  unfold execPowerStateEntryDrained
  split
  · exact okOut_next h
  · next ps sqid cid he =>
    split
    · exact okOut_next h
    · have hps : ps = 3 ∨ ps = 4 := h.mgmt.2.2 _ he
      have h1 : (stopClusters s).ok := stopClusters_ok s h
      have h2 : ((stopClusters s).modMgmt fun m => { m with ps := ps, entry := none }).ok :=
        State.modMgmt_ok _ (fun hm => ⟨by dsimp only; omega, hm.2.1, fun _ e => by cases e⟩) h1
      dsimp only
      have h3 : (if ps = 4 then powerDown ((stopClusters s).modMgmt fun m => { m with
          ps := ps
          entry := none }) else (stopClusters s).modMgmt fun m => { m with
          ps := ps
          entry := none }).ok := by
        split
        · exact powerDown_ok _ h2
        · exact h2
      exact answer_ok _ (releaseHeld_ok _ (ite_ok (complete_ok _ _ _ _ _ _ h3) h3))

theorem execPowerStateExitDone_ok (s : State) (h : s.ok) : okOut (execPowerStateExitDone s) := by
  unfold execPowerStateExitDone
  repeat' first
    | with_reducible assumption
    | with_reducible apply okOut_next
    | exact fun hm => ⟨Nat.le_trans hm.2.1 (by decide), hm.2.1, hm.2.2⟩
    | with_reducible apply State.modMgmt_ok
    | with_reducible apply answer_ok
    | with_reducible apply serveHeld_ok
    | with_reducible apply releaseHeld_ok
    | with_reducible apply reloadPinned_ok
    | with_reducible apply retrainAll_ok
    | dsimp only
    | split

theorem execSelfTestTimeout_ok (s : State) (h : s.ok) : okOut (execSelfTestTimeout s) := by
  unfold execSelfTestTimeout
  repeat' first
    | with_reducible assumption
    | with_reducible apply answer_ok
    | with_reducible apply selfTestExpires_ok

theorem execSanitizeDone_ok (s : State) (h : s.ok) : okOut (execSanitizeDone s) := by
  unfold execSanitizeDone
  repeat' first
    | with_reducible assumption
    | with_reducible apply answer_ok
    | with_reducible apply sanitizeOver_ok

theorem quiescenceOut_ok (p : Nat) (s : State) (h : s.ok) : (quiescenceOut p s).ok := by
  unfold quiescenceOut
  repeat' first
    | with_reducible assumption
    | with_reducible apply foldl_ok
    | with_reducible apply modClu_ok
    | with_reducible apply kick_ok
    | with_reducible apply endFor_ok
    | with_reducible apply takeJob_ok
    | (rename_i x hx; exact Clu.ok_of_eq hx rfl rfl rfl rfl rfl rfl rfl rfl rfl rfl)
    | dsimp only
    | split
    | intro _

theorem countMirror_ok (s : State) (h : s.ok) : (countMirror s).ok := by
  unfold countMirror
  repeat' first
    | with_reducible assumption
    | (with_reducible apply State.modResv_ok _ (fun h => h))
    | split

theorem poisonPackage_ok (m : Nat) (s : State) (h : s.ok) : (poisonPackage m s).ok := by
  unfold poisonPackage
  repeat' first
    | with_reducible assumption
    | (with_reducible apply State.modResv_ok _ (fun h => h))
    | dsimp only
    | split

theorem loadDone_ok (m : Nat) (s : State) (h : s.ok) : (loadDone m s).ok := by
  unfold loadDone
  repeat' first
    | with_reducible assumption
    | with_reducible apply poisonPackage_ok
    | with_reducible apply modUnit_ok
    | with_reducible apply modHot_ok
    | with_reducible apply pumpLoads_ok
    | with_reducible apply kickAll_ok
    | with_reducible apply endPins_ok
    | with_reducible apply countMirror_ok
    | dsimp only
    | split

theorem chargeStep_ok (p : Nat) (o : Stored) (b : Batch) (s : State) (h : s.ok) : (chargeStep p o b s).ok := by
  unfold chargeStep
  repeat' first
    | with_reducible assumption
    | with_reducible apply foldl_ok
    | with_reducible apply chargeQueue_ok
    | intro _

theorem leaveTiles_ok (o : Stored) (b : Batch) (s : State) (h : s.ok) : (leaveTiles o b s).ok := by
  unfold leaveTiles
  repeat' first
    | with_reducible assumption
    | with_reducible apply foldl_ok
    | with_reducible apply countTiles_ok
    | dsimp only
    | split
    | intro _

theorem stepPoison_ok (p : Nat) (b : Batch) (s : State) (h : s.ok) : (stepPoison p b s).ok := by
  unfold stepPoison
  repeat' first
    | with_reducible assumption
    | with_reducible apply modBatch_ok
    | with_reducible apply metUndelivered_ok
    | dsimp only
    | split

theorem dropLeavers_ok (p : Nat) (s : State) (h : s.ok) : (dropLeavers p s).ok := by
  unfold dropLeavers
  repeat' first
    | with_reducible assumption
    | with_reducible apply foldl_ok
    | with_reducible apply modBatch_ok
    | with_reducible apply endFor_ok
    | with_reducible apply leaveBatch_ok
    | dsimp only
    | split
    | intro _

theorem stepEnd_ok (p : Nat) (s : State) (h : s.ok) : (stepEnd p s).ok := by
  unfold stepEnd
  repeat' first
    | with_reducible assumption
    | with_reducible apply foldl_ok
    | with_reducible apply genFault_ok
    | with_reducible apply stepPoison_ok
    | with_reducible apply chargeStep_ok
    | with_reducible apply modBatch_ok
    | with_reducible apply leaveTiles_ok
    | with_reducible apply writeLeft_ok
    | with_reducible apply tearJob_ok
    | with_reducible apply nextStep_ok
    | with_reducible apply dropLeavers_ok
    | dsimp only
    | split
    | intro _

theorem overrun_ok (p : Nat) (kind : Nat) (inst : Nat) (s : State) (h : s.ok) : (overrun p kind inst s).ok := by
  unfold overrun
  repeat' first
    | with_reducible assumption
    | with_reducible apply contextError_ok

theorem jobWatch_ok (p : Nat) (s : State) (h : s.ok) : (jobWatch p s).ok := by
  unfold jobWatch
  repeat' first
    | with_reducible assumption
    | with_reducible apply overrun_ok
    | with_reducible apply modRun_ok
    | split

theorem stepWatch_ok (p : Nat) (s : State) (h : s.ok) : (stepWatch p s).ok := by
  unfold stepWatch
  repeat' first
    | with_reducible assumption
    | with_reducible apply overrun_ok
    | with_reducible apply modBatch_ok
    | split

theorem coreHang_ok (c : Nat) (s : State) (h : s.ok) : (coreHang c s).ok := by
  unfold coreHang
  repeat' first
    | with_reducible assumption
    | with_reducible apply overrun_ok
    | split

theorem noteDeferral_ok (p : Nat) (s : State) (h : s.ok) : (noteDeferral p s).ok := by
  unfold noteDeferral
  repeat' first
    | with_reducible assumption
    | with_reducible apply modPart_ok

theorem failMember_ok (p : Nat) (o : Stored) (st : Status) (m : Member) (s : State) (h : s.ok) : (failMember p o st m s).ok := by
  unfold failMember
  repeat' first
    | with_reducible assumption
    | with_reducible apply endFor_ok
    | with_reducible apply leaveBatch_ok

theorem teardownOver_ok (p : Nat) (s : State) (h : s.ok) : (teardownOver p s).ok := by
  unfold teardownOver
  repeat' first
    | with_reducible assumption
    | with_reducible apply foldl_ok
    | with_reducible apply closeHandling_ok
    | with_reducible apply closeRun_ok
    | with_reducible apply noteDeferral_ok
    | with_reducible apply endFor_ok
    | with_reducible apply chargeStep_ok
    | with_reducible apply closeBatch_ok
    | with_reducible apply failMember_ok
    | dsimp only
    | split
    | intro _

theorem partResetOver_ok (p : Nat) (failed : List Nat) (s : State) (h : s.ok) : (partResetOver p failed s).ok := by
  unfold partResetOver
  repeat' first
    | with_reducible assumption
    | with_reducible apply foldl_ok
    | with_reducible apply failCluster_ok
    | with_reducible apply chargeStep_ok
    | with_reducible apply closeBatch_ok
    | with_reducible apply closeRun_ok
    | with_reducible apply noteDeferral_ok
    | with_reducible apply modPart_ok
    | with_reducible apply endFor_ok
    | with_reducible apply failMember_ok
    | with_reducible apply refusedBusy_ok
    | with_reducible apply raiseEvent_ok
    | with_reducible apply closeHandling_ok
    | dsimp only
    | split
    | intro _

theorem barrierActs_ok (c : Nat) (s : State) (h : s.ok) : (barrierActs c s).ok := by
  unfold barrierActs
  repeat' first
    | with_reducible assumption
    | with_reducible apply genFault_ok
    | with_reducible apply modClu_ok
    | with_reducible apply modRun_ok
    | with_reducible apply stageDone_ok
    | with_reducible apply Clu.modCore_ok _ _ (fun h => h) rfl rfl rfl rfl
    | dsimp only
    | split
    | intro _

theorem stageFrame_ok (c : Nat) (s : State) (h : s.ok) : (stageFrame c s).ok := by
  unfold stageFrame
  repeat' first
    | with_reducible assumption
    | (rename_i x hx; exact ⟨hx.1, hx.2.1, hx.2.2.1, Mem.wf_write _ _ hx.2.2.2.1, hx.2.2.2.2⟩)
    | with_reducible apply modClu_ok
    | with_reducible apply modRun_ok
    | with_reducible apply poisonOrigin_ok
    | with_reducible apply applySignal_ok
    | dsimp only
    | split
    | intro _

theorem ofPartition_ok (p : Nat) (f : State → State) (s : State) (h2 : ∀ s : State, s.ok → (f s).ok) (h : s.ok)
    : okOut (ofPartition p f s) := by
  unfold ofPartition
  repeat' first
    | with_reducible assumption
    | with_reducible apply okOut_fault
    | apply h2
    | with_reducible apply answer_ok
    | split

theorem ofCluster_ok (c : Nat) (f : State → State) (s : State) (h2 : ∀ s : State, s.ok → (f s).ok) (h : s.ok)
    : okOut (ofCluster c f s) := by
  unfold ofCluster
  repeat' first
    | with_reducible assumption
    | with_reducible apply okOut_fault
    | apply h2
    | with_reducible apply answer_ok
    | split

theorem execJobBoundary_ok (p : Nat) (s : State) (h : s.ok) : okOut (execJobBoundary p s) := by
  unfold execJobBoundary
  repeat' first
    | with_reducible assumption
    | with_reducible apply ofPartition_ok
    | with_reducible apply boundary_ok

theorem execQuiescenceWaitTimeout_ok (p : Nat) (s : State) (h : s.ok) : okOut (execQuiescenceWaitTimeout p s) := by
  unfold execQuiescenceWaitTimeout
  repeat' first
    | with_reducible assumption
    | with_reducible apply ofPartition_ok
    | with_reducible apply quiescenceOut_ok

theorem execModelLoadDone_ok (m : Nat) (s : State) (h : s.ok) : okOut (execModelLoadDone m s) := by
  unfold execModelLoadDone
  repeat' first
    | with_reducible assumption
    | with_reducible apply answer_ok
    | with_reducible apply loadDone_ok

theorem execBatchStepBoundary_ok (p : Nat) (s : State) (h : s.ok) : okOut (execBatchStepBoundary p s) := by
  unfold execBatchStepBoundary
  repeat' first
    | with_reducible assumption
    | with_reducible apply ofPartition_ok
    | with_reducible apply stepEnd_ok

theorem execJobWatchdog_ok (p : Nat) (s : State) (h : s.ok) : okOut (execJobWatchdog p s) := by
  unfold execJobWatchdog
  repeat' first
    | with_reducible assumption
    | with_reducible apply ofPartition_ok
    | with_reducible apply jobWatch_ok

theorem execStepWatchdog_ok (p : Nat) (s : State) (h : s.ok) : okOut (execStepWatchdog p s) := by
  unfold execStepWatchdog
  repeat' first
    | with_reducible assumption
    | with_reducible apply ofPartition_ok
    | with_reducible apply stepWatch_ok

theorem execControlCoreHang_ok (c : Nat) (s : State) (h : s.ok) : okOut (execControlCoreHang c s) := by
  unfold execControlCoreHang
  repeat' first
    | with_reducible assumption
    | with_reducible apply ofCluster_ok
    | with_reducible apply coreHang_ok

theorem execTeardownEnd_ok (p : Nat) (s : State) (h : s.ok) : okOut (execTeardownEnd p s) := by
  unfold execTeardownEnd
  repeat' first
    | with_reducible assumption
    | with_reducible apply ofPartition_ok
    | with_reducible apply teardownOver_ok

theorem execPartitionResetEnd_ok (p : Nat) (failed : List Nat) (s : State) (h : s.ok)
    : okOut (execPartitionResetEnd p failed s) := by
  unfold execPartitionResetEnd
  repeat' first
    | with_reducible assumption
    | with_reducible apply ofPartition_ok
    | with_reducible apply partResetOver_ok

theorem execBarrierDrained_ok (c : Nat) (s : State) (h : s.ok) : okOut (execBarrierDrained c s) := by
  unfold execBarrierDrained
  repeat' first
    | with_reducible assumption
    | with_reducible apply ofCluster_ok
    | with_reducible apply barrierActs_ok

theorem execFrameStaged_ok (c : Nat) (s : State) (h : s.ok) : okOut (execFrameStaged c s) := by
  unfold execFrameStaged
  repeat' first
    | with_reducible assumption
    | with_reducible apply ofCluster_ok
    | with_reducible apply stageFrame_ok

theorem execCommitDrainEnd_ok (s : State) (h : s.ok) : okOut (execCommitDrainEnd s) := by
  unfold execCommitDrainEnd
  repeat' first
    | with_reducible assumption
    | with_reducible apply answer_ok
    | with_reducible apply drainOver_ok

theorem execCommitDrainTimeout_ok (s : State) (h : s.ok) : okOut (execCommitDrainTimeout s) := by
  unfold execCommitDrainTimeout
  repeat' first
    | with_reducible assumption
    | with_reducible apply answer_ok
    | with_reducible apply drainTimeout_ok

theorem execCommitRecordDurable_ok (s : State) (h : s.ok) : okOut (execCommitRecordDurable s) := by
  unfold execCommitRecordDurable
  repeat' first
    | with_reducible assumption
    | with_reducible apply answer_ok
    | with_reducible apply recordDurable_ok

theorem epochDurable_ok (nsid : Nat) (idx : Nat) (s : State) (h : s.ok) : (epochDurable nsid idx s).ok := by
  unfold epochDurable
  repeat' first
    | with_reducible assumption
    | with_reducible apply modIndex_ok
    | with_reducible apply complete_ok
    | with_reducible apply countMirror_ok
    | dsimp only
    | split

theorem execEpochDurable_ok (nsid : Nat) (idx : Nat) (s : State) (h : s.ok) : okOut (execEpochDurable nsid idx s) := by
  unfold execEpochDurable
  repeat' first
    | with_reducible assumption
    | with_reducible apply answer_ok
    | with_reducible apply epochDurable_ok

theorem ofMedia_ok (f : State → State) (s : State) (h1 : ∀ s : State, s.ok → (f s).ok) (h : s.ok) : okOut (ofMedia f s) := by
  unfold ofMedia
  repeat' first
    | with_reducible assumption
    | with_reducible apply okOut_next
    | apply h1
    | with_reducible apply answer_ok
    | split

theorem modSb_ok (set0 : Nat) (block : Nat) (f : Superblock → Superblock) (s : State) (h : s.ok) : (modSb set0 block f s).ok := by
  unfold modSb
  repeat' first
    | with_reducible assumption
    | with_reducible apply State.modMedia_ok

theorem enduranceCheck_ok (s : State) (h : s.ok) : (enduranceCheck s).ok := by
  unfold enduranceCheck
  repeat' first
    | with_reducible assumption
    | with_reducible apply checkHealth_ok
    | with_reducible apply losePromise_ok
    | with_reducible apply State.modMedia_ok
    | split

theorem markLost_ok (ch : Nat) (e : MapE) (s : State) (h : s.ok) : (markLost ch e s).ok := by
  unfold markLost
  repeat' first
    | with_reducible assumption
    | with_reducible apply setEntry_ok
    | with_reducible apply State.modMedia_ok
    | with_reducible apply addRecord_ok

theorem storeLoses_ok (ch : Nat) (s : State) (h : s.ok) : (storeLoses ch s).ok := by
  unfold storeLoses
  dsimp only
  repeat' first
    | with_reducible assumption
    | with_reducible apply addRecord_ok
    | with_reducible apply State.modStore_ok
    | with_reducible apply draw_ok
    | split

theorem failDie_ok (ch : Nat) (die : Nat) (s : State) (h : s.ok) : (failDie ch die s).ok := by
  unfold failDie
  repeat' first
    | with_reducible assumption
    | with_reducible apply foldl_ok
    | with_reducible apply State.modMedia_ok
    | with_reducible apply addRecord_ok
    | with_reducible apply losePromise_ok
    | with_reducible apply markLost_ok
    | with_reducible apply State.modGen_ok
    | with_reducible apply raiseEvent_ok
    | with_reducible apply enduranceCheck_ok
    | dsimp only
    | split
    | intro _

theorem retireBlock_ok (l : Loc) (s : State) (h : s.ok) : (retireBlock l s).ok := by
  unfold retireBlock
  repeat' first
    | with_reducible assumption
    | with_reducible apply journaled_ok
    | with_reducible apply State.modMedia_ok
    | with_reducible apply modSb_ok
    | with_reducible apply addRecord_ok
    | with_reducible apply enduranceCheck_ok
    | with_reducible apply failDie_ok
    | dsimp only
    | split

theorem countStep_ok (ch : Nat) (step : Nat) (s : State) (h : s.ok) : (countStep ch step s).ok := by
  unfold countStep
  repeat' first
    | with_reducible assumption
    | with_reducible apply State.modMedia_ok

theorem unitRead_ok (l : Loc) (step : Nat) (s : State) (h : s.ok) : (unitRead l step s).ok := by
  unfold unitRead
  repeat' first
    | with_reducible assumption
    | with_reducible apply countStep_ok
    | with_reducible apply addRecord_ok
    | with_reducible apply drawLoc_ok
    | with_reducible apply setEntry_ok
    | with_reducible apply countUnits_ok
    | with_reducible apply noteProgram_ok
    | with_reducible apply markLost_ok
    | with_reducible apply storeLoses_ok
    | dsimp only
    | split

theorem pageRead_ok (l : Loc) (steps : List Nat) (s : State) (h : s.ok) : (pageRead l steps s).ok := by
  unfold pageRead
  repeat' first
    | with_reducible assumption
    | with_reducible apply foldl_ok
    | with_reducible apply unitRead_ok
    | with_reducible apply modSb_ok
    | with_reducible apply retireBlock_ok
    | with_reducible apply checkHealth_ok
    | dsimp only
    | split
    | intro _

theorem execFlashPageReadDone_ok (l : Loc) (steps : List Nat) (us : Nat) (s : State) (h : s.ok)
    : okOut (execFlashPageReadDone l steps us s) := by
  unfold execFlashPageReadDone
  repeat' first
    | with_reducible assumption
    | with_reducible apply okOut_fault
    | with_reducible apply ofMedia_ok
    | with_reducible apply pageRead_ok
    | with_reducible apply State.modMedia_ok
    | split
    | intro _

theorem programDone_ok (l : Loc) (nsid : Nat) (lba : Nat) (passed : Bool) (s : State) (h : s.ok)
    : (programDone l nsid lba passed s).ok := by
  unfold programDone
  repeat' first
    | with_reducible assumption
    | with_reducible apply retireBlock_ok
    | with_reducible apply countUnits_ok
    | with_reducible apply noteProgram_ok
    | with_reducible apply State.modMedia_ok
    | with_reducible apply advanceTest_ok
    | dsimp only
    | split

theorem execFlashProgramDone_ok (l : Loc) (nsid : Nat) (lba : Nat) (ok : Bool) (s : State) (h : s.ok)
    : okOut (execFlashProgramDone l nsid lba ok s) := by
  unfold execFlashProgramDone
  repeat' first
    | with_reducible assumption
    | with_reducible apply okOut_fault
    | with_reducible apply ofMedia_ok
    | with_reducible apply programDone_ok
    | split

theorem eraseDone_ok (set0 : Nat) (block : Nat) (passed : Bool) (slc : Bool) (s : State) (h : s.ok)
    : (eraseDone set0 block passed slc s).ok := by
  unfold eraseDone
  repeat' first
    | with_reducible assumption
    | (with_reducible apply State.modPwr_ok _ (fun h => h))
    | with_reducible apply draw_ok
    | with_reducible apply retireBlock_ok
    | with_reducible apply State.modMedia_ok
    | with_reducible apply checkHealth_ok
    | with_reducible apply journaled_ok
    | dsimp only
    | split

theorem execFlashEraseDone_ok (dieSet : Nat) (block : Nat) (ok : Bool) (slc : Bool) (s : State) (h : s.ok)
    : okOut (execFlashEraseDone dieSet block ok slc s) := by
  unfold execFlashEraseDone
  repeat' first
    | with_reducible assumption
    | with_reducible apply okOut_fault
    | with_reducible apply ofMedia_ok
    | with_reducible apply eraseDone_ok
    | split

theorem execDieStatusPollTimeout_ok (ch : Nat) (die : Nat) (s : State) (h : s.ok) : okOut (execDieStatusPollTimeout ch die s) := by
  unfold execDieStatusPollTimeout
  repeat' first
    | with_reducible assumption
    | with_reducible apply okOut_fault
    | with_reducible apply ofMedia_ok
    | with_reducible apply failDie_ok
    | split

theorem rebuildDone_ok (ch : Nat) (die : Nat) (s : State) (h : s.ok) : (rebuildDone ch die s).ok := by
  unfold rebuildDone
  repeat' first
    | with_reducible assumption
    | with_reducible apply foldl_ok
    | with_reducible apply drawLoc_ok
    | with_reducible apply setEntry_ok
    | with_reducible apply countUnits_ok
    | with_reducible apply noteProgram_ok
    | with_reducible apply State.modMedia_ok
    | with_reducible apply keepPromise_ok
    | with_reducible apply raiseEvent_ok
    | dsimp only
    | split
    | intro _

theorem execDieRebuildDone_ok (ch : Nat) (die : Nat) (s : State) (h : s.ok) : okOut (execDieRebuildDone ch die s) := by
  unfold execDieRebuildDone
  repeat' first
    | with_reducible assumption
    | with_reducible apply okOut_fault
    | with_reducible apply ofMedia_ok
    | with_reducible apply rebuildDone_ok
    | split

theorem moved_ok (nsid : Nat) (lba : Nat) (src : Loc) (dst : Loc) (s : State) (h : s.ok) : (moved nsid lba src dst s).ok := by
  unfold moved
  repeat' first
    | with_reducible assumption
    | with_reducible apply countUnits_ok
    | with_reducible apply noteProgram_ok
    | with_reducible apply setEntry_ok
    | with_reducible apply journaled_ok
    | dsimp only
    | split

theorem beginVictim_ok (src : Loc) (s : State) (h : s.ok) : (beginVictim src s).ok := by
  unfold beginVictim
  repeat' first
    | with_reducible assumption
    | with_reducible apply State.modMedia_ok

theorem execGcMove_ok (nsid : Nat) (lba : Nat) (src : Loc) (dst : Loc) (s : State) (h : s.ok)
    : okOut (execGcMove nsid lba src dst s) := by
  unfold execGcMove
  repeat' first
    | with_reducible assumption
    | with_reducible apply okOut_next
    | with_reducible apply okOut_fault
    | with_reducible apply ofMedia_ok
    | with_reducible apply moved_ok
    | with_reducible apply beginVictim_ok
    | split
    | intro _

theorem execFold_ok (nsid : Nat) (lba : Nat) (dst : Loc) (s : State) (h : s.ok) : okOut (execFold nsid lba dst s) := by
  unfold execFold
  repeat' first
    | with_reducible assumption
    | with_reducible apply okOut_next
    | with_reducible apply okOut_fault
    | with_reducible apply ofMedia_ok
    | with_reducible apply moved_ok
    | split

theorem patrolRead_ok (l : Loc) (steps : List Nat) (passEnds : Bool) (s : State) (h : s.ok)
    : (patrolRead l steps passEnds s).ok := by
  unfold patrolRead
  repeat' first
    | with_reducible assumption
    | with_reducible apply modSb_ok
    | with_reducible apply pageRead_ok
    | with_reducible apply keepPromise_ok
    | with_reducible apply State.modMedia_ok
    | dsimp only
    | split

theorem execMediaPatrolRead_ok (l : Loc) (steps : List Nat) (passEnds : Bool) (s : State) (h : s.ok)
    : okOut (execMediaPatrolRead l steps passEnds s) := by
  unfold execMediaPatrolRead
  repeat' first
    | with_reducible assumption
    | with_reducible apply okOut_fault
    | with_reducible apply ofMedia_ok
    | with_reducible apply patrolRead_ok
    | split

theorem execDirectoryCheckpoint_ok (s : State) (h : s.ok) : okOut (execDirectoryCheckpoint s) := by
  unfold execDirectoryCheckpoint
  repeat' first
    | with_reducible assumption
    | with_reducible apply ofMedia_ok
    | with_reducible apply State.modMedia_ok
    | intro _

theorem execMapPageConfirmed_ok (page : Nat) (l : Loc) (s : State) (h : s.ok) : okOut (execMapPageConfirmed page l s) := by
  unfold execMapPageConfirmed
  repeat' first
    | with_reducible assumption
    | with_reducible apply okOut_next
    | with_reducible apply okOut_fault
    | with_reducible apply ofMedia_ok
    | with_reducible apply State.modMedia_ok
    | with_reducible apply countUnits_ok
    | with_reducible apply noteProgram_ok
    | split
    | intro _

theorem execTimestampTimeout_ok (s : State) (h : s.ok) : okOut (execTimestampTimeout s) := by
  unfold execTimestampTimeout
  repeat' first
    | with_reducible assumption
    | with_reducible apply okOut_next
    | with_reducible apply answer_ok
    | with_reducible apply State.modMedia_ok
    | split

theorem coreSilent_ok (core : Nat) (s : State) (h : s.ok) : (coreSilent core s).ok := by
  unfold coreSilent
  repeat' first
    | with_reducible assumption
    | with_reducible apply State.modRas_ok
    | with_reducible apply State.modEscalate_ok
    | with_reducible apply addRecord_ok
    | dsimp only
    | split

theorem execFmcCoreWatchdog_ok (core : Nat) (s : State) (h : s.ok) : okOut (execFmcCoreWatchdog core s) := by
  unfold execFmcCoreWatchdog
  repeat' first
    | with_reducible assumption
    | with_reducible apply okOut_fault
    | with_reducible apply ofMedia_ok
    | with_reducible apply coreSilent_ok
    | split

theorem disarm_ok (hit : Bool) (s : State) (h : s.ok) : (disarm hit s).ok := by
  unfold disarm
  repeat' first
    | with_reducible assumption
    | with_reducible apply State.modRas_ok
    | split

theorem hbmCorrected_ok (stack : Nat) (bank : Nat) (row : Nat) (gran : Nat) (spareRow : Bool) (hit : Bool) (s : State)
    (h : s.ok) : (hbmCorrected stack bank row gran spareRow hit s).ok := by
  unfold hbmCorrected
  repeat' first
    | with_reducible assumption
    | with_reducible apply addRecord_ok
    | (with_reducible apply State.modResv_ok _ (fun h => h))
    | with_reducible apply losePromise_ok
    | dsimp only
    | split

theorem hbmBeyond_ok (reader : Option Nat) (stack : Nat) (gran : Nat) (hit : Bool) (s : State) (h : s.ok)
    : (hbmBeyond reader stack gran hit s).ok := by
  unfold hbmBeyond
  repeat' first
    | with_reducible assumption
    | with_reducible apply drawBytes_ok
    | with_reducible apply resvWrite_ok
    | with_reducible apply poisonOrigin_ok
    | with_reducible apply addRecord_ok
    | dsimp only
    | split

theorem reservoirRead_ok (c : Nat) (stack : Nat) (bank : Nat) (row : Nat) (gran : Nat) (r : CodeRead) (spareRow : Bool)
    (s : State) (h : s.ok) : (reservoirRead c stack bank row gran r spareRow s).ok := by
  unfold reservoirRead
  repeat' first
    | with_reducible assumption
    | with_reducible apply hbmCorrected_ok
    | with_reducible apply disarm_ok
    | with_reducible apply hbmBeyond_ok
    | dsimp only
    | split

theorem execReservoirRead_ok (c : Nat) (stack : Nat) (bank : Nat) (row : Nat) (gran : Nat) (r : CodeRead) (spareRow : Bool)
    (s : State) (h : s.ok) : okOut (execReservoirRead c stack bank row gran r spareRow s) := by
  unfold execReservoirRead
  repeat' first
    | with_reducible assumption
    | with_reducible apply okOut_next
    | with_reducible apply okOut_fault
    | with_reducible apply answer_ok
    | with_reducible apply reservoirRead_ok
    | split

theorem loseUnits_ok (stack : Nat) (s : State) (h : s.ok) : (loseUnits stack s).ok := by
  unfold loseUnits
  repeat' first
    | with_reducible assumption
    | with_reducible apply foldl_ok
    | with_reducible apply draw_ok
    | with_reducible apply releaseSet_ok
    | (with_reducible apply State.modResv_ok _ (fun h => h))
    | with_reducible apply dropUnit_ok
    | dsimp only
    | split
    | intro _

theorem retireChannel_ok (stack : Nat) (ch : Nat) (s : State) (h : s.ok) : (retireChannel stack ch s).ok := by
  unfold retireChannel
  repeat' first
    | with_reducible assumption
    | (with_reducible apply State.modResv_ok _ (fun h => h))
    | with_reducible apply addRecord_ok
    | with_reducible apply loseUnits_ok
    | with_reducible apply losePromise_ok
    | with_reducible apply State.modGen_ok
    | dsimp only
    | split

theorem repairChannel_ok (stack : Nat) (ch : Nat) (spareLane : Bool) (s : State) (h : s.ok)
    : (repairChannel stack ch spareLane s).ok := by
  unfold repairChannel
  repeat' first
    | with_reducible assumption
    | with_reducible apply addRecord_ok
    | (with_reducible apply State.modResv_ok _ (fun h => h))
    | with_reducible apply retireChannel_ok
    | split

theorem readLost_ok (c : Nat) (gran : Nat) (r : Fault17) (s : State) (h : s.ok) : (readLost c gran r s).ok := by
  unfold readLost
  repeat' first
    | with_reducible assumption
    | with_reducible apply State.modFree_ok
    | (with_reducible apply State.modResv_ok _ (fun h => h))
    | with_reducible apply poisonOrigin_ok
    | with_reducible apply addRecord_ok
    | with_reducible apply contextError_ok
    | dsimp only
    | split

theorem deliveryFails_ok (c : Nat) (stack : Nat) (ch : Nat) (gran : Nat) (k : RegionKind) (bothCopies : Bool) (s : State)
    (h : s.ok) : (deliveryFails c stack ch gran k bothCopies s).ok := by
  unfold deliveryFails
  repeat' first
    | with_reducible assumption
    | with_reducible apply addRecord_ok
    | (with_reducible apply State.modResv_ok _ (fun h => h))
    | with_reducible apply readLost_ok
    | dsimp only
    | split

theorem readLate_ok (c : Nat) (stack : Nat) (ch : Nat) (gran : Nat) (attempt : Nat) (k : RegionKind) (bothCopies : Bool)
    (spareLane : Bool) (s : State) (h : s.ok) : (readLate c stack ch gran attempt k bothCopies spareLane s).ok := by
  unfold readLate
  repeat' first
    | with_reducible assumption
    | (with_reducible apply State.modResv_ok _ (fun h => h))
    | with_reducible apply repairChannel_ok
    | with_reducible apply deliveryFails_ok
    | split

theorem execReservoirReadLate_ok (c : Nat) (stack : Nat) (ch : Nat) (gran : Nat) (attempt : Nat) (k : RegionKind)
    (bothCopies : Bool) (spareLane : Bool) (s : State) (h : s.ok)
    : okOut (execReservoirReadLate c stack ch gran attempt k bothCopies spareLane s) := by
  unfold execReservoirReadLate
  repeat' first
    | with_reducible assumption
    | with_reducible apply okOut_next
    | with_reducible apply okOut_fault
    | with_reducible apply answer_ok
    | with_reducible apply readLate_ok
    | split

theorem execMirrorRebuildDone_ok (stack : Nat) (s : State) (h : s.ok) : okOut (execMirrorRebuildDone stack s) := by
  unfold execMirrorRebuildDone
  repeat' first
    | with_reducible assumption
    | with_reducible apply okOut_next
    | with_reducible apply okOut_fault
    | with_reducible apply answer_ok
    | (with_reducible apply State.modResv_ok _ (fun h => h))
    | split

theorem hbmPatrol_ok (stack : Nat) (bank : Nat) (row : Nat) (gran : Nat) (r : CodeRead) (spareRow : Bool) (passEnds : Bool)
    (s : State) (h : s.ok) : (hbmPatrol stack bank row gran r spareRow passEnds s).ok := by
  unfold hbmPatrol
  repeat' first
    | with_reducible assumption
    | with_reducible apply hbmCorrected_ok
    | with_reducible apply disarm_ok
    | with_reducible apply hbmBeyond_ok
    | with_reducible apply keepPromise_ok
    | (with_reducible apply State.modResv_ok _ (fun h => h))
    | with_reducible apply State.modRas_ok
    | dsimp only
    | split

theorem execHbmPatrol_ok (stack : Nat) (bank : Nat) (row : Nat) (gran : Nat) (r : CodeRead) (spareRow : Bool) (passEnds : Bool)
    (s : State) (h : s.ok) : okOut (execHbmPatrol stack bank row gran r spareRow passEnds s) := by
  unfold execHbmPatrol
  repeat' first
    | with_reducible assumption
    | with_reducible apply okOut_next
    | with_reducible apply okOut_fault
    | with_reducible apply answer_ok
    | with_reducible apply hbmPatrol_ok
    | split

theorem rewriteLocation_ok (mem : Nat) (c : Nat) (addr : Nat) (s : State) (h : s.ok) : (rewriteLocation mem c addr s).ok := by
  unfold rewriteLocation
  repeat' first
    | with_reducible assumption
    | (rename_i x hx; exact Clu.modCore_ok _ _ (fun h => Mem.wf_write _ _ h) rfl rfl rfl rfl hx)
    | (rename_i x hx; exact Clu.modCore_ok _ _ (fun h => h) rfl rfl rfl (by simp only [List.length_modify]) hx)
    | with_reducible apply modClu_ok
    | with_reducible apply Clu.modObj_ok
    | split
    | intro _

theorem memoryError_ok (mem : Nat) (c : Nat) (addr : Nat) (hit : Bool) (s : State) (h : s.ok)
    : (memoryError mem c addr hit s).ok := by
  unfold memoryError
  repeat' first
    | with_reducible assumption
    | with_reducible apply rewriteLocation_ok
    | with_reducible apply contextError_ok
    | with_reducible apply addRecord_ok
    | with_reducible apply failCluster_ok
    | with_reducible apply State.modRas_ok
    | dsimp only
    | split

theorem granuleError_ok (mem : Nat) (c : Nat) (addr : Nat) (hit : Bool) (s : State) (h : s.ok)
    : (granuleError mem c addr hit s).ok := by
  unfold granuleError
  repeat' first
    | with_reducible assumption
    | (rename_i x hx; exact ⟨hx.1, hx.2.1, hx.2.2.1, Mem.wf_write _ _ hx.2.2.2.1, hx.2.2.2.2⟩)
    | with_reducible apply drawBytes_ok
    | with_reducible apply modClu_ok
    | with_reducible apply Clu.tileWrite_ok
    | with_reducible apply poisonOrigin_ok
    | dsimp only
    | split
    | intro _

theorem managementFault_ok (kind : Nat) (addr : Nat) (detail : Nat) (hit : Bool) (s : State) (h : s.ok)
    : (managementFault kind addr detail hit s).ok := by
  unfold managementFault
  repeat' first
    | with_reducible assumption
    | with_reducible apply fatalFault_ok

theorem sramError_ok (mem : Nat) (inst : Nat) (addr : Nat) (r : CodeRead) (s : State) (h : s.ok)
    : (sramError mem inst addr r s).ok := by
  unfold sramError
  repeat' first
    | with_reducible assumption
    | with_reducible apply disarm_ok
    | with_reducible apply addRecord_ok
    | with_reducible apply managementFault_ok
    | with_reducible apply granuleError_ok
    | with_reducible apply memoryError_ok
    | dsimp only
    | split

theorem sramPatrol_ok (mem : Nat) (inst : Nat) (addr : Nat) (r : CodeRead) (passEnds : Bool) (s : State) (h : s.ok)
    : (sramPatrol mem inst addr r passEnds s).ok := by
  unfold sramPatrol
  repeat' first
    | with_reducible assumption
    | with_reducible apply sramError_ok
    | with_reducible apply keepPromise_ok
    | with_reducible apply State.modRas_ok
    | dsimp only
    | split

theorem execSramPatrol_ok (mem : Nat) (inst : Nat) (addr : Nat) (r : CodeRead) (passEnds : Bool) (s : State) (h : s.ok)
    : okOut (execSramPatrol mem inst addr r passEnds s) := by
  unfold execSramPatrol
  repeat' first
    | with_reducible assumption
    | with_reducible apply okOut_next
    | with_reducible apply okOut_fault
    | with_reducible apply answer_ok
    | with_reducible apply sramPatrol_ok
    | split

theorem sliceFinds_ok (seg : Nat) (unit : Nat) (passed : Bool) (s : State) (h : s.ok) : (sliceFinds seg unit passed s).ok := by
  unfold sliceFinds
  repeat' first
    | with_reducible assumption
    | with_reducible apply foldl_ok
    | with_reducible apply draw_ok
    | with_reducible apply countStep_ok
    | with_reducible apply failCluster_ok
    | with_reducible apply failArray_ok
    | with_reducible apply retireBlock_ok
    | dsimp only
    | split
    | intro _

theorem execSelfTestSlice_ok (seg : Nat) (unit : Nat) (ok : Bool) (s : State) (h : s.ok)
    : okOut (execSelfTestSlice seg unit ok s) := by
  unfold execSelfTestSlice
  repeat' first
    | with_reducible assumption
    | with_reducible apply okOut_next
    | with_reducible apply answer_ok
    | with_reducible apply selfTestStep_ok
    | with_reducible apply sliceFinds_ok
    | split

theorem ucieLane_ok (link : Nat) (spareLeft : Bool) (s : State) (h : s.ok) : (ucieLane link spareLeft s).ok := by
  unfold ucieLane
  repeat' first
    | with_reducible assumption
    | with_reducible apply addRecord_ok
    | with_reducible apply State.modRas_ok
    | with_reducible apply losePromise_ok
    | with_reducible apply State.modGen_ok
    | dsimp only
    | split

theorem execUcieLaneFault_ok (link : Nat) (spareLeft : Bool) (s : State) (h : s.ok)
    : okOut (execUcieLaneFault link spareLeft s) := by
  unfold execUcieLaneFault
  repeat' first
    | with_reducible assumption
    | with_reducible apply okOut_next
    | with_reducible apply okOut_fault
    | with_reducible apply answer_ok
    | with_reducible apply ucieLane_ok
    | split

theorem execHostLinkError_ok (s : State) (h : s.ok) : okOut (execHostLinkError s) := by
  unfold execHostLinkError
  repeat' first
    | with_reducible assumption
    | with_reducible apply okOut_next
    | with_reducible apply answer_ok
    | with_reducible apply addRecord_ok
    | split

theorem execManagementProcessorMemoryError_ok (boot : Bool) (addr : Nat) (s : State) (h : s.ok)
    : okOut (execManagementProcessorMemoryError boot addr s) := by
  unfold execManagementProcessorMemoryError
  repeat' first
    | with_reducible assumption
    | with_reducible apply okOut_next
    | with_reducible apply answer_ok
    | with_reducible apply managementFault_ok
    | with_reducible apply disarm_ok
    | dsimp only
    | split

theorem execProcessorWatchdogExpiry_ok (s : State) (h : s.ok) : okOut (execProcessorWatchdogExpiry s) := by
  unfold execProcessorWatchdogExpiry
  repeat' first
    | with_reducible assumption
    | with_reducible apply okOut_next
    | with_reducible apply answer_ok
    | with_reducible apply managementFault_ok
    | split

theorem execCommandAuditExpiry_ok (sqid : Nat) (cid : Nat) (s : State) (h : s.ok) : okOut (execCommandAuditExpiry sqid cid s) := by
  unfold execCommandAuditExpiry
  repeat' first
    | with_reducible assumption
    | with_reducible apply okOut_next
    | with_reducible apply answer_ok
    | with_reducible apply fatalFault_ok
    | with_reducible apply State.modRas_ok
    | split

theorem execErrorHandlerTimeout_ok (s : State) (h : s.ok) : okOut (execErrorHandlerTimeout s) := by
  unfold execErrorHandlerTimeout
  repeat' first
    | with_reducible assumption
    | with_reducible apply okOut_next
    | with_reducible apply answer_ok
    | with_reducible apply fatalFault_ok
    | split

theorem flashOver_ok (o : FlashOp) (passed : Bool) (pulses : Nat) (s : State) (h : s.ok) : (flashOver o passed pulses s).ok := by
  unfold flashOver
  repeat' first
    | with_reducible assumption
    | with_reducible apply State.modBoot_ok _ (fun h => Boot.erase_wf _ _ h)
    | with_reducible apply State.modBoot_ok _ (fun h => Boot.program_wf _ _ _ h)
    | with_reducible apply State.modBoot_ok _ (fun h => h)
    | with_reducible apply spoil_ok
    | with_reducible apply drawBytes_ok
    | dsimp only
    | split

theorem execBootFlashOperationDone_ok (ok : Bool) (pulses : Nat) (s : State) (h : s.ok)
    : okOut (execBootFlashOperationDone ok pulses s) := by
  unfold execBootFlashOperationDone
  repeat' first
    | with_reducible assumption
    | with_reducible apply okOut_next
    | with_reducible apply answer_ok
    | with_reducible apply flashOver_ok
    | split

theorem runHamming_ok (c : Nat) (ops : Nat → Bool) (s : State) (h : s.ok) : okOut (runHamming c ops s) := by
  unfold runHamming
  split
  · exact okOut_fault _
  · split
    · exact okOut_next h
    · split
      · exact okOut_next (contextFault_ok _ _ _ _ _ h)
      · next y hy =>
        have hw := hammingRun_wf _ _ _ (State.clu_ok c h) hy
        exact okOut_next (modClu_ok _ _ (fun x hx => ⟨hw.1, hx.2⟩) (begin__ok _ _ _ _ _ h))

theorem execHammingQload_ok (c : Nat) (s : State) (h : s.ok) : okOut (execHammingQload c s) := by
  unfold execHammingQload
  repeat' first
    | with_reducible assumption
    | with_reducible apply runHamming_ok

theorem execHammingXscan_ok (c : Nat) (s : State) (h : s.ok) : okOut (execHammingXscan c s) := by
  unfold execHammingXscan
  repeat' first
    | with_reducible assumption
    | with_reducible apply runHamming_ok

theorem execHammingTload_ok (c : Nat) (s : State) (h : s.ok) : okOut (execHammingTload c s) := by
  unfold execHammingTload
  repeat' first
    | with_reducible assumption
    | with_reducible apply runHamming_ok

theorem execHammingPqscan_ok (c : Nat) (s : State) (h : s.ok) : okOut (execHammingPqscan c s) := by
  unfold execHammingPqscan
  repeat' first
    | with_reducible assumption
    | with_reducible apply runHamming_ok

theorem execHammingSelect_ok (c : Nat) (s : State) (h : s.ok) : okOut (execHammingSelect c s) := by
  unfold execHammingSelect
  repeat' first
    | with_reducible assumption
    | with_reducible apply runHamming_ok

theorem ofPort_ok (n : Nat) (f : State → State) (s : State) (h2 : ∀ s : State, s.ok → (f s).ok) (h : s.ok)
    : okOut (ofPort n f s) := by
  unfold ofPort
  repeat' first
    | with_reducible assumption
    | with_reducible apply okOut_fault
    | apply h2
    | with_reducible apply answer_ok
    | split

theorem checkSpares_ok (n : Nat) (s : State) (h : s.ok) : (checkSpares n s).ok := by
  unfold checkSpares
  repeat' first
    | with_reducible assumption
    | with_reducible apply losePromise_ok
    | split

theorem directLane_ok (n : Nat) (lane : Nat) (s : State) (h : s.ok) : (directLane n lane s).ok := by
  unfold directLane
  repeat' first
    | with_reducible assumption
    | with_reducible apply modPort_ok
    | with_reducible apply checkSpares_ok
    | with_reducible apply addRecord_ok
    | with_reducible apply raiseEvent_ok
    | with_reducible apply State.modGen_ok
    | with_reducible apply portDown_ok
    | dsimp only
    | split

theorem ethernetLane_ok (n : Nat) (lane : Nat) (s : State) (h : s.ok) : (ethernetLane n lane s).ok := by
  unfold ethernetLane
  repeat' first
    | with_reducible assumption
    | with_reducible apply modPort_ok
    | with_reducible apply addRecord_ok
    | with_reducible apply portDown_ok
    | with_reducible apply moveFlows_ok
    | dsimp only
    | split

theorem laneFails_ok (n : Nat) (lane : Nat) (codeword : Bool) (s : State) (h : s.ok) : (laneFails n lane codeword s).ok := by
  unfold laneFails
  repeat' first
    | with_reducible assumption
    | with_reducible apply modPort_ok
    | with_reducible apply directLane_ok
    | with_reducible apply ethernetLane_ok
    | dsimp only
    | split

theorem execLaneFailure_ok (port : Nat) (lane : Nat) (codeword : Bool) (s : State) (h : s.ok)
    : okOut (execLaneFailure port lane codeword s) := by
  unfold execLaneFailure
  repeat' first
    | with_reducible assumption
    | with_reducible apply okOut_fault
    | with_reducible apply ofPort_ok
    | with_reducible apply laneFails_ok
    | split

theorem execPortRetrainDone_ok (port : Nat) (s : State) (h : s.ok) : okOut (execPortRetrainDone port s) := by
  unfold execPortRetrainDone
  repeat' first
    | with_reducible assumption
    | with_reducible apply ofPort_ok
    | with_reducible apply modPort_ok
    | split
    | intro _

theorem execFlitRetry_ok (port : Nat) (s : State) (h : s.ok) : okOut (execFlitRetry port s) := by
  unfold execFlitRetry
  repeat' first
    | with_reducible assumption
    | with_reducible apply ofPort_ok
    | with_reducible apply modPort_ok
    | split
    | intro _

theorem trainFails_ok (n : Nat) (cause : Nat) (s : State) (h : s.ok) : (trainFails n cause s).ok := by
  unfold trainFails
  repeat' first
    | with_reducible assumption
    | with_reducible apply modPort_ok

theorem electricalDone_ok (n : Nat) (s : State) (h : s.ok) : (electricalDone n s).ok := by
  unfold electricalDone
  repeat' first
    | with_reducible assumption
    | with_reducible apply trainFails_ok
    | with_reducible apply putOnLink_ok
    | with_reducible apply modPort_ok
    | dsimp only
    | split

theorem execElectricalTrainingDone_ok (port : Nat) (s : State) (h : s.ok) : okOut (execElectricalTrainingDone port s) := by
  unfold execElectricalTrainingDone
  repeat' first
    | with_reducible assumption
    | with_reducible apply ofPort_ok
    | with_reducible apply electricalDone_ok

theorem execTrainingRetry_ok (port : Nat) (s : State) (h : s.ok) : okOut (execTrainingRetry port s) := by
  unfold execTrainingRetry
  repeat' first
    | with_reducible assumption
    | with_reducible apply ofPort_ok
    | with_reducible apply modPort_ok
    | split
    | intro _

theorem interfaceUp_ok (n : Nat) (i : Nat) (s : State) (h : s.ok) : (interfaceUp n i s).ok := by
  unfold interfaceUp
  repeat' first
    | with_reducible assumption
    | with_reducible apply modPort_ok
    | split

theorem execEthernetInterfaceUp_ok (port : Nat) (i : Nat) (s : State) (h : s.ok) : okOut (execEthernetInterfaceUp port i s) := by
  unfold execEthernetInterfaceUp
  repeat' first
    | with_reducible assumption
    | with_reducible apply okOut_fault
    | with_reducible apply ofPort_ok
    | with_reducible apply interfaceUp_ok
    | split

theorem helloArrives_ok (n : Nat) (h1 : Hello) (s : State) (h : s.ok) : (helloArrives n h1 s).ok := by
  unfold helloArrives
  repeat' first
    | with_reducible assumption
    | with_reducible apply trainFails_ok
    | with_reducible apply modPort_ok
    | dsimp only
    | split

theorem execHello_ok (port : Nat) (h1 : Hello) (s : State) (h : s.ok) : okOut (execHello port h1 s) := by
  unfold execHello
  repeat' first
    | with_reducible assumption
    | with_reducible apply ofPort_ok
    | with_reducible apply helloArrives_ok

theorem message_ok (typ : Nat) (m : Msg) (s : State) (h : s.ok) : okOut (message typ m s) := by
  unfold message
  repeat' first
    | with_reducible assumption
    | with_reducible apply answer_ok
    | with_reducible apply arrives_ok

theorem execProbe_ok (m : Msg) (s : State) (h : s.ok) : okOut (execProbe m s) := by
  unfold execProbe
  repeat' first
    | with_reducible assumption
    | with_reducible apply message_ok

theorem execProbeack_ok (m : Msg) (s : State) (h : s.ok) : okOut (execProbeack m s) := by
  unfold execProbeack
  repeat' first
    | with_reducible assumption
    | with_reducible apply message_ok

theorem sendProbes_ok (s : State) (h : s.ok) : (sendProbes s).ok := by
  unfold sendProbes
  repeat' first
    | with_reducible assumption
    | with_reducible apply foldl_ok
    | with_reducible apply putOnLink_ok
    | dsimp only
    | split
    | intro _

theorem execProbeTimer_ok (s : State) (h : s.ok) : okOut (execProbeTimer s) := by
  unfold execProbeTimer
  repeat' first
    | with_reducible assumption
    | with_reducible apply answer_ok
    | with_reducible apply sendProbes_ok

theorem execAck_ok (m : Msg) (s : State) (h : s.ok) : okOut (execAck m s) := by
  unfold execAck
  repeat' first
    | with_reducible assumption
    | with_reducible apply message_ok

theorem resend_ok (dev : Nat) (flow : Nat) (s : State) (h : s.ok) : (resend dev flow s).ok := by
  unfold resend
  repeat' first
    | with_reducible assumption
    | with_reducible apply putOnLink_ok
    | with_reducible apply setFlow_ok
    | with_reducible apply State.modLnk_ok
    | with_reducible apply modPeer_ok
    | with_reducible apply moveFlows_ok
    | with_reducible apply addRecord_ok
    | dsimp only
    | split

theorem execResendTimeout_ok (dev : Nat) (flow : Nat) (s : State) (h : s.ok) : okOut (execResendTimeout dev flow s) := by
  unfold execResendTimeout
  repeat' first
    | with_reducible assumption
    | with_reducible apply answer_ok
    | with_reducible apply resend_ok

theorem execPathRecovery_ok (dev : Nat) (path : Nat) (s : State) (h : s.ok) : okOut (execPathRecovery dev path s) := by
  unfold execPathRecovery
  repeat' first
    | with_reducible assumption
    | with_reducible apply answer_ok
    | with_reducible apply modPeer_ok
    | split

theorem execRateRaiseTimer_ok (dev : Nat) (s : State) (h : s.ok) : okOut (execRateRaiseTimer dev s) := by
  unfold execRateRaiseTimer
  repeat' first
    | with_reducible assumption
    | with_reducible apply answer_ok
    | with_reducible apply modPeer_ok
    | split

theorem execBind_ok (m : Msg) (s : State) (h : s.ok) : okOut (execBind m s) := by
  unfold execBind
  repeat' first
    | with_reducible assumption
    | with_reducible apply message_ok

theorem execBindack_ok (m : Msg) (s : State) (h : s.ok) : okOut (execBindack m s) := by
  unfold execBindack
  repeat' first
    | with_reducible assumption
    | with_reducible apply message_ok

theorem execRread_ok (m : Msg) (s : State) (h : s.ok) : okOut (execRread m s) := by
  unfold execRread
  repeat' first
    | with_reducible assumption
    | with_reducible apply message_ok

theorem execRdata_ok (m : Msg) (s : State) (h : s.ok) : okOut (execRdata m s) := by
  unfold execRdata
  repeat' first
    | with_reducible assumption
    | with_reducible apply message_ok

theorem execRwrite_ok (m : Msg) (s : State) (h : s.ok) : okOut (execRwrite m s) := by
  unfold execRwrite
  repeat' first
    | with_reducible assumption
    | with_reducible apply message_ok

theorem execWack_ok (m : Msg) (s : State) (h : s.ok) : okOut (execWack m s) := by
  unfold execWack
  repeat' first
    | with_reducible assumption
    | with_reducible apply message_ok

theorem execRsig_ok (m : Msg) (s : State) (h : s.ok) : okOut (execRsig m s) := by
  unfold execRsig
  repeat' first
    | with_reducible assumption
    | with_reducible apply message_ok

theorem execCancel_ok (m : Msg) (s : State) (h : s.ok) : okOut (execCancel m s) := by
  unfold execCancel
  repeat' first
    | with_reducible assumption
    | with_reducible apply message_ok

theorem execCancelack_ok (m : Msg) (s : State) (h : s.ok) : okOut (execCancelack m s) := by
  unfold execCancelack
  repeat' first
    | with_reducible assumption
    | with_reducible apply message_ok

theorem execWaking_ok (m : Msg) (s : State) (h : s.ok) : okOut (execWaking m s) := by
  unfold execWaking
  repeat' first
    | with_reducible assumption
    | with_reducible apply message_ok

theorem execReject_ok (m : Msg) (s : State) (h : s.ok) : okOut (execReject m s) := by
  unfold execReject
  repeat' first
    | with_reducible assumption
    | with_reducible apply message_ok

theorem remoteTimeout_ok (opid : Nat) (dev : Nat) (s : State) (h : s.ok) : (remoteTimeout opid dev s).ok := by
  unfold remoteTimeout
  repeat' first
    | with_reducible assumption
    | with_reducible apply failOp_ok
    | with_reducible apply fanMissing_ok
    | split

theorem execRemoteTimeout_ok (opid : Nat) (dev : Nat) (s : State) (h : s.ok) : okOut (execRemoteTimeout opid dev s) := by
  unfold execRemoteTimeout
  repeat' first
    | with_reducible assumption
    | with_reducible apply answer_ok
    | with_reducible apply remoteTimeout_ok

theorem execFanreq_ok (m : Msg) (s : State) (h : s.ok) : okOut (execFanreq m s) := by
  unfold execFanreq
  repeat' first
    | with_reducible assumption
    | with_reducible apply message_ok

theorem execFanprog_ok (m : Msg) (s : State) (h : s.ok) : okOut (execFanprog m s) := by
  unfold execFanprog
  repeat' first
    | with_reducible assumption
    | with_reducible apply message_ok

theorem execFanprogTimer_ok (s : State) (h : s.ok) : okOut (execFanprogTimer s) := by
  unfold execFanprogTimer
  repeat' first
    | with_reducible assumption
    | with_reducible apply foldl_ok
    | with_reducible apply answer_ok
    | with_reducible apply emit_ok
    | dsimp only
    | intro _

theorem execFanres_ok (m : Msg) (s : State) (h : s.ok) : okOut (execFanres m s) := by
  unfold execFanres
  repeat' first
    | with_reducible assumption
    | with_reducible apply message_ok

theorem execShufitem_ok (m : Msg) (s : State) (h : s.ok) : okOut (execShufitem m s) := by
  unfold execShufitem
  repeat' first
    | with_reducible assumption
    | with_reducible apply message_ok

theorem execShufend_ok (m : Msg) (s : State) (h : s.ok) : okOut (execShufend m s) := by
  unfold execShufend
  repeat' first
    | with_reducible assumption
    | with_reducible apply message_ok

theorem execShufpair_ok (m : Msg) (s : State) (h : s.ok) : okOut (execShufpair m s) := by
  unfold execShufpair
  repeat' first
    | with_reducible assumption
    | with_reducible apply message_ok

theorem modSpdm_ok (f : Spdm → Spdm) (s : State) (h : s.ok) : (modSpdm f s).ok := by
  unfold modSpdm
  repeat' first
    | with_reducible assumption
    | with_reducible apply State.modSec_ok

theorem busReply_ok (b : List Byte) (s : State) (h : s.ok) : (busReply b s).ok := by
  unfold busReply
  repeat' first
    | with_reducible assumption
    | with_reducible apply modSpdm_ok

theorem spdmError_ok (code : Nat) (s : State) (h : s.ok) : (spdmError code s).ok := by
  unfold spdmError
  repeat' first
    | with_reducible assumption
    | with_reducible apply busReply_ok

theorem spdmIn_ok (step : Nat) (req : List Byte) (k : State → State) (s : State) (h3 : ∀ s : State, s.ok → (k s).ok) (h : s.ok)
    : (spdmIn step req k s).ok := by
  unfold spdmIn
  repeat' first
    | with_reducible assumption
    | apply h3
    | with_reducible apply spdmError_ok
    | dsimp only
    | split

theorem spdmVersion_ok (req : List Byte) (s : State) (h : s.ok) : (spdmVersion req s).ok := by
  unfold spdmVersion
  repeat' first
    | with_reducible assumption
    | with_reducible apply spdmError_ok
    | with_reducible apply busReply_ok
    | with_reducible apply modSpdm_ok
    | dsimp only
    | split

theorem spdmCapabilities_ok (req : List Byte) (s : State) (h : s.ok) : (spdmCapabilities req s).ok := by
  unfold spdmCapabilities
  repeat' first
    | with_reducible assumption
    | with_reducible apply spdmError_ok
    | with_reducible apply busReply_ok
    | with_reducible apply modSpdm_ok
    | dsimp only
    | split

theorem spdmAlgorithms_ok (req : List Byte) (s : State) (h : s.ok) : (spdmAlgorithms req s).ok := by
  unfold spdmAlgorithms
  repeat' first
    | with_reducible assumption
    | with_reducible apply spdmIn_ok
    | with_reducible apply spdmError_ok
    | with_reducible apply busReply_ok
    | with_reducible apply modSpdm_ok
    | dsimp only
    | split
    | intro _

theorem spdmDigests_ok (req : List Byte) (s : State) (h : s.ok) : (spdmDigests req s).ok := by
  unfold spdmDigests
  repeat' first
    | with_reducible assumption
    | with_reducible apply spdmIn_ok
    | with_reducible apply busReply_ok
    | with_reducible apply modSpdm_ok
    | dsimp only
    | split
    | intro _

theorem spdmCertificate_ok (req : List Byte) (s : State) (h : s.ok) : (spdmCertificate req s).ok := by
  unfold spdmCertificate
  repeat' first
    | with_reducible assumption
    | with_reducible apply spdmIn_ok
    | with_reducible apply spdmError_ok
    | with_reducible apply busReply_ok
    | with_reducible apply modSpdm_ok
    | dsimp only
    | split
    | intro _

theorem spdmChallenge_ok (req : List Byte) (s : State) (h : s.ok) : (spdmChallenge req s).ok := by
  unfold spdmChallenge
  repeat' first
    | with_reducible assumption
    | with_reducible apply spdmIn_ok
    | with_reducible apply spdmError_ok
    | with_reducible apply drawBytes_ok
    | with_reducible apply busReply_ok
    | with_reducible apply modSpdm_ok
    | dsimp only
    | split
    | intro _

theorem spdmMeasurements_ok (req : List Byte) (s : State) (h : s.ok) : (spdmMeasurements req s).ok := by
  unfold spdmMeasurements
  repeat' first
    | with_reducible assumption
    | with_reducible apply spdmIn_ok
    | with_reducible apply spdmError_ok
    | with_reducible apply drawBytes_ok
    | with_reducible apply busReply_ok
    | with_reducible apply modSpdm_ok
    | dsimp only
    | split
    | intro _

theorem onBus_ok (f : State → State) (s : State) (h1 : ∀ s : State, s.ok → (f s).ok) (h : s.ok) : okOut (onBus f s) := by
  unfold onBus
  repeat' first
    | with_reducible assumption
    | with_reducible apply okOut_next
    | apply h1
    | with_reducible apply answer_ok
    | split

theorem execSpdmGetVersion_ok (req : List Byte) (s : State) (h : s.ok) : okOut (execSpdmGetVersion req s) := by
  unfold execSpdmGetVersion
  repeat' first
    | with_reducible assumption
    | with_reducible apply onBus_ok
    | with_reducible apply spdmVersion_ok

theorem execSpdmGetCapabilities_ok (req : List Byte) (s : State) (h : s.ok) : okOut (execSpdmGetCapabilities req s) := by
  unfold execSpdmGetCapabilities
  repeat' first
    | with_reducible assumption
    | with_reducible apply onBus_ok
    | with_reducible apply spdmCapabilities_ok

theorem execSpdmNegotiateAlgorithms_ok (req : List Byte) (s : State) (h : s.ok) : okOut (execSpdmNegotiateAlgorithms req s) := by
  unfold execSpdmNegotiateAlgorithms
  repeat' first
    | with_reducible assumption
    | with_reducible apply onBus_ok
    | with_reducible apply spdmAlgorithms_ok

theorem execSpdmGetDigests_ok (req : List Byte) (s : State) (h : s.ok) : okOut (execSpdmGetDigests req s) := by
  unfold execSpdmGetDigests
  repeat' first
    | with_reducible assumption
    | with_reducible apply onBus_ok
    | with_reducible apply spdmDigests_ok

theorem execSpdmGetCertificate_ok (req : List Byte) (s : State) (h : s.ok) : okOut (execSpdmGetCertificate req s) := by
  unfold execSpdmGetCertificate
  repeat' first
    | with_reducible assumption
    | with_reducible apply onBus_ok
    | with_reducible apply spdmCertificate_ok

theorem execSpdmChallenge_ok (req : List Byte) (s : State) (h : s.ok) : okOut (execSpdmChallenge req s) := by
  unfold execSpdmChallenge
  repeat' first
    | with_reducible assumption
    | with_reducible apply onBus_ok
    | with_reducible apply spdmChallenge_ok

theorem execSpdmGetMeasurements_ok (req : List Byte) (s : State) (h : s.ok) : okOut (execSpdmGetMeasurements req s) := by
  unfold execSpdmGetMeasurements
  repeat' first
    | with_reducible assumption
    | with_reducible apply onBus_ok
    | with_reducible apply spdmMeasurements_ok

theorem execSubsystemHealthStatusPoll_ok (s : State) (h : s.ok) : okOut (execSubsystemHealthStatusPoll s) := by
  unfold execSubsystemHealthStatusPoll
  repeat' first
    | with_reducible assumption
    | with_reducible apply onBus_ok
    | with_reducible apply busReply_ok
    | intro _

theorem tunnel_ok (e : Sqe) (s : State) (h : s.ok) : (tunnel e s).ok := by
  unfold tunnel
  repeat' first
    | with_reducible assumption
    | with_reducible apply foldl_snd_ok
    | with_reducible apply busReply_ok
    | with_reducible apply State.modRas_ok
    | with_reducible apply busRead_ok
    | dsimp only
    | split
    | intro _

theorem execNvmeMiAdminTunnel_ok (e : Sqe) (s : State) (h : s.ok) : okOut (execNvmeMiAdminTunnel e s) := by
  unfold execNvmeMiAdminTunnel
  repeat' first
    | with_reducible assumption
    | with_reducible apply onBus_ok
    | with_reducible apply tunnel_ok

theorem execVectorList_ok (c : Nat) (s : State) (h : s.ok) : okOut (execVectorList c s) := by
  unfold execVectorList
  split
  · exact okOut_fault _
  · split
    · exact okOut_next h
    · dsimp only
      split
      · exact okOut_next (genFault_ok _ _ h)
      · split
        · exact okOut_next (contextFault_ok _ _ _ _ _ h)
        · split
          · exact okOut_next (contextFault_ok _ _ _ _ _ h)
          · refine okOut_next (modClu_ok _ _ (fun x hx => ⟨?_, hx.2⟩) (State.modFree_ok _ (begin__ok _ _ _ _ _ h)))
            split
            · exact (Clu.foldl_ok (fun _ _ h => VEntry.poisonOut_ok _ _ h) _
                (Clu.foldl_fst_ok (fun p v h => vStep_ok _ _ _ _ _ h) _ (State.clu_ok c h))).1
            · exact (Clu.foldl_fst_ok (fun p v h => vStep_ok _ _ _ _ _ h) _ (State.clu_ok c h)).1

theorem drainUnit_ok (c : Nat) (k : ECmd) (d : MDesc) (a3 : Clu) (all : Bool) (o : UnitOps) (addr : Nat) (s : State) (h : s.ok)
    : (drainUnit c k d a3 all o addr s).ok := by
  unfold drainUnit
  repeat' first
    | with_reducible assumption
    | with_reducible apply programFault_ok
    | with_reducible apply countTile_ok
    | with_reducible apply modClu_ok
    | with_reducible apply Clu.tileWrite_ok
    | with_reducible apply Clu.foldl_ok
    | with_reducible apply Clu.tilePatch_ok
    | dsimp only
    | split
    | intro _

theorem timingFault_ok (c : Nat) (k : ECmd) (f : SlotFail) (s : State) (h : s.ok) : (timingFault c k f s).ok := by
  unfold timingFault
  repeat' first
    | with_reducible assumption
    | with_reducible apply modClu_ok
    | with_reducible apply contextError_ok
    | (rename_i x hx; exact Clu.ok_of_eq hx rfl rfl rfl rfl rfl rfl rfl rfl rfl rfl)
    | dsimp only
    | split
    | intro _

theorem residueFault_ok (c : Nat) (a : Nat) (k : ECmd) (s : State) (h : s.ok) : (residueFault c a k s).ok := by
  unfold residueFault
  repeat' first
    | with_reducible assumption
    | with_reducible apply modClu_ok
    | with_reducible apply contextError_ok
    | with_reducible apply failArray_ok
    | (rename_i x hx; exact Clu.ok_of_eq hx rfl rfl rfl rfl rfl rfl rfl rfl rfl rfl)
    | dsimp only
    | split
    | intro _

theorem execMatrixRun.run_ok (c : Nat) (k : ECmd) (d : MDesc) (a3 : Clu) (es : List SEntry) (t : SlotSim) (s : State) (h : s.ok)
    : (execMatrixRun.run c k d a3 es t s).ok := by
  unfold execMatrixRun.run
  repeat' first
    | with_reducible assumption
    | with_reducible apply foldl_ok
    | with_reducible apply countAcc_ok
    | with_reducible apply drainUnit_ok
    | split
    | intro _

theorem execMatrixRun_ok (c : Nat) (residue : Option Nat) (s : State) (h : s.ok) : okOut (execMatrixRun c residue s) := by
  unfold execMatrixRun
  repeat' first
    | with_reducible assumption
    | with_reducible apply okOut_next
    | with_reducible apply okOut_fault
    | with_reducible apply contextFault_ok
    | with_reducible apply begin__ok
    | with_reducible apply timingFault_ok
    | with_reducible apply modClu_ok
    | with_reducible apply residueFault_ok
    | with_reducible apply execMatrixRun.run_ok
    | (rename_i x hx; exact Clu.ok_of_eq hx rfl rfl rfl rfl rfl rfl rfl rfl rfl rfl)
    | dsimp only
    | split
    | intro _

theorem execMatrixRunFinish_ok (c : Nat) (seq : Nat) (s : State) (h : s.ok) : okOut (execMatrixRunFinish c seq s) := by
  unfold execMatrixRunFinish
  repeat' first
    | with_reducible assumption
    | with_reducible apply okOut_next
    | with_reducible apply okOut_fault
    | with_reducible apply finish_ok
    | split

theorem measurePower_ok (v : Nat) (s : State) (h : s.ok) : (measurePower v s).ok := by
  unfold measurePower
  repeat' first
    | with_reducible assumption
    | (with_reducible apply State.modPwr_ok _ (fun h => h))

theorem measure_ok (s : State) (h : s.ok) : (measure s).ok := by
  unfold measure
  repeat' first
    | with_reducible assumption
    | with_reducible apply draw_ok
    | with_reducible apply State.modGen_ok
    | with_reducible apply measurePower_ok
    | with_reducible apply State.modLnk_ok
    | dsimp only
    | split

theorem tick_ok (s : State) (h : s.ok) : (tick s).ok := by
  exact State.modParts_map_ok _ (State.modClus_map_ok _ (tickClu_ok _) (State.modNow_ok _ (measure_ok _ h)))

theorem State.withFetchWord_ok (s : State) (nbits : Nat) (w : Nat) (h : s.ok) : (State.withFetchWord s nbits w).ok := by
  unfold State.withFetchWord
  repeat' first
    | with_reducible assumption
    | with_reducible apply State.modPending_ok
    | split

end Sys2Proof.Machine
end

