-- ==== Sys2Proof/Laws/Logs.lean ====
section
/-! SUPPORT. The pages and structures that the host reads: a structure is at least as long as it is made, so none is empty. -/

namespace Sys2Proof.Machine

theorem length_overlay_le (page n : Nat) (fs : List (Nat × List Byte)) : n ≤ (overlay page n fs).length := by
  suffices h : ∀ b : List Byte, n ≤ b.length →
      n ≤ (fs.foldl (fun (b : List Byte) f => b.take f.1 ++ f.2 ++ b.drop (f.1 + f.2.length)) b).length from
    h _ (by simp)
  induction fs with
  | nil => exact fun _ h => h
  | cons f fs ih =>
    intro b h
    refine ih _ ?_
    simp only [List.length_append, List.length_take, List.length_drop]
    omega

theorem overlay_isEmpty {page n : Nat} (fs : List (Nat × List Byte)) (h : 0 < n) : (overlay page n fs).isEmpty = false := by
  have := length_overlay_le page n fs
  rw [List.isEmpty_eq_false_iff, ← List.length_pos_iff]
  omega

end Sys2Proof.Machine
end

