-- ==== Sys2Proof/WellFormed.lean ====
section
/-! DEFINITION. Well-formed commands: the operands that an agent outside the sled settles lie within the ranges of
the spec's own fields and units. An ill-formed command is no event of the hardware; `exec` is total on it all the
same (log 6). -/

namespace Sys2Proof

namespace Cmd

/-- An NVMe command carries 16-bit identifiers, a 32-bit NSID and at most 64 KiB of parameters (02 R44, 03 R78). -/
def wf (c : Cmd) : Bool :=
  decide (c.sqid < 65536) && decide (c.cid < 65536) && decide (c.nsid < 2 ^ 32) &&
    decide (c.params.length ≤ 65536)

end Cmd

/-- A place on the media lies within Table 12.1's geometry: 128 channels, at most 16 dies on each, 6 planes, 1,821 blocks,
3,072 pages of 4 units. -/
def Loc.wf (l : Loc) : Bool :=
  decide (l.ch < 128) && decide (l.die < 16) && decide (l.plane < 6) && decide (l.block < 1821) &&
    decide (l.page < 3072) && decide (l.unit < 4)

/-- The fields of a message are as wide as Table 13.4 gives them; its flow is one of 144, its payload at most 8,192 bytes with
at most 128 granules to be poisoned. -/
def Msg.wf (m : Msg) : Bool :=
  decide (m.typ < 256) && decide (m.src < 16384) && decide (m.dst < 16384) && decide (m.flow < 144) &&
    decide (m.sgen < 256) && decide (m.seq < 2 ^ 32) && decide (m.ack < 2 ^ 32) && decide (m.inst < 2 ^ 32) &&
    decide (m.jobtag < 2 ^ 32) && decide (m.sclu < 256) && decide (m.opid < 2 ^ 32) &&
    decide (m.payload.length ≤ 8192) && m.poison.all fun g => decide (g < 128)

namespace Instr

/-- Whether the operands of a command lie in their ranges. -/
def wf : Instr → Bool
  | .submissionQueueDoorbell q t es => decide (q < 65536) && decide (t < 65536) && es.all fun e => e.cmd.wf
  | .completionQueueDoorbell q h => decide (q < 65536) && decide (h < 65536)
  | .adminAbort c | .asynchronousEventRequest c | .createIoSubmissionQueue c | .createIoCompletionQueue c
  | .deleteIoSubmissionQueue c | .deleteIoCompletionQueue c | .identify c | .getLogPage c | .getFeatures c
  | .setFeaturesPowerManagement c | .setFeaturesArbitration c | .setFeaturesTimestamp c
  | .setFeaturesVendorEventEnable c | .setFeatures c | .deviceSelfTestShort c | .deviceSelfTestExtended c
  | .deviceSelfTestStop c | .firmwareImageDownload c | .firmwareCommitReplaceActivate c | .firmwareCommitActivate c
  | .sanitizeCryptoErase c | .sanitizeBlockErase c | .formatNvm c | .namespaceCreate c | .namespaceDelete c
  | .namespaceAttach c | .namespaceDetach c | .nvmeMiSend c | .nvmeMiReceive c | .indexCreate c | .indexDrop c
  | .configurationStage c | .configurationCheck c | .configurationCommit c | .configurationDiscard c
  | .modelInstall c | .modelRemove c | .programInstall c | .registerRead c | .registerWrite c | .attestCertificates c
  | .attestQuote c | .attestOwner c | .cisternTest c | .startLedgerClear c => c.wf
  | .nvmeMiAdminTunnel e => e.cmd.wf
  | .read c | .write c | .writeZeroes c | .datasetManagement c | .flush c | .scan c | .embed c | .score c
  | .search c | .nearJoin c | .indexInsert c | .indexDelete c | .indexPublish c | .indexCompact c
  | .jobRun c | .resultFetch c | .resultRelease c | .recallEstimate c => c.wf && c.sqid != 0
  | .flashPageReadDone l _ _ | .flashProgramDone l _ _ _ | .mediaPatrolRead l _ _ | .mapPageConfirmed _ l
  | .fold _ _ l => l.wf
  | .gcMove _ _ a b => a.wf && b.wf
  | .probe m | .probeack m | .ack m | .bind m | .bindack m | .rread m | .rdata m | .rwrite m | .wack m
  | .rsig m | .cancel m | .cancelack m | .waking m | .reject m | .fanreq m | .fanprog m | .fanres m
  | .shufitem m | .shufend m | .shufpair m => m.wf
  | .bar2Read a n => (n == 4 || n == 8) && a.toNat % 4 == 0
  | .bar2Write a _ n => (n == 4 || n == 8) && a.toNat % 4 == 0
  | .partitionResetEnd p _ | .jobBoundary p | .quiescenceWaitTimeout p | .batchStepBoundary p | .jobWatchdog p
  | .stepWatchdog p | .teardownEnd p => decide (p < 8)
  | .stringTestDone i _ _ => decide (i < 9)
  | .thermalSensorRead t | .thermalShutdownRecovery t => t.length == 7
  | .stringMonitorRead r => r.mv.length == 9 && r.dev.length == 9
  | _ => true

end Instr

end Sys2Proof
end

