-- ==== Sys2Proof/Tests/Slice0.lean ====
section
/-! SUPPORT. Tests: the checks of WellFormed on ill-formed terms, a state and operands that meet the hypotheses of each statement, and a few
single steps against values worked out from the spec. -/

namespace Sys2Proof.Tests

set_option Elab.async false

open Sys2Proof Sys2Proof.Machine

/-- What `State.still` asks, as a condition that can be decided. -/
abbrev Still (s : State) : Prop :=
  s.escalate = false ∧ (∀ i ∈ s.idx, i.waiting = []) ∧ (∀ i ∈ s.idx, ∀ e ∈ i.pend, e.done = true) ∧ s.lnk.bindWait = [] ∧
  ∀ x ∈ s.parts, x.idle = false ∨ (∀ q ∈ x.queues, q = []) ∧ x.sel = none

theorem still_of {s : State} (h : Still s) : s.still := ⟨h.1, h.2.1, h.2.2.1, h.2.2.2.1, h.2.2.2.2⟩

/-- What `State.quiet` asks. -/
abbrev Quiet (s : State) : Prop := Still s ∧ s.nvm.flights = [] ∧ ∀ q ∈ s.nvm.sqs, q.unfetched = []

theorem quiet_of {s : State} (h : Quiet s) : s.quiet := ⟨still_of h.1, h.2.1, h.2.2⟩

/-- What `State.takes` asks. -/
abbrev Takes (s : State) (q : Sq) (k : Cq) : Prop :=
  Quiet s ∧ (s.nvm.en = true ∧ s.nvm.rdy = true ∧ s.boot.phase = .ready ∧ s.mgmt.ps ≤ 2 ∧ s.mgmt.entry = none ∧
    s.mgmt.sanitize = none ∧ (∀ n ∈ s.nss, n.gone = none) ∧ ∀ i ∈ s.idx, i.dropping.all (fun n => decide (n < s.nvm.orders)) = true) ∧
  (s.nvm.sqs.filter (fun x => x.id == q.id) = [q] ∧ 1 < q.size ∧ q.prio ≤ 3 ∧ s.nvm.cqs.filter (fun x => x.id == q.cqid) = [k] ∧
    k.full = false ∧ k.backlog = [] ∧ s.nvm.serial = none ∧ s.nvm.aers = [])

theorem takes_of {s : State} {q : Sq} {k : Cq} (h : Takes s q k) : s.takes q k := by
  obtain ⟨a, ⟨b1, b2, b3, b4, b5, b6, b7, b8⟩, c1, c2, c3, c4, c5, c6, c7, c8⟩ := h
  exact ⟨quiet_of a, b1, b2, b3, b4, b5, b6, b7, fun i hi n hn => by simpa [hn] using b8 i hi, c1, c2, c3, c4, c5, c6, by simp [c7], c8⟩

/-- What `State.carries` asks. -/
abbrev Carries (s : State) (q : Sq) (k : Cq) (f : Flight) : Prop :=
  (Still s ∧ (∀ x ∈ s.nvm.sqs, x.unfetched = []) ∧ s.nvm.sqs.filter (fun x => x.id == q.id) = [q] ∧
    s.nvm.cqs.filter (fun x => x.id == q.cqid) = [k] ∧ k.full = false ∧ k.backlog = []) ∧
  s.nvm.flights = [f] ∧ f.sqid = q.id ∧ (f.phase = .executing ∨ f.phase = .job) ∧ f.errRec = none

theorem carries_of {s : State} {q : Sq} {k : Cq} {f : Flight} (h : Carries s q k f) : s.carries q k f := by
  obtain ⟨⟨a, b, c, d, e, g⟩, i, j, l, m⟩ := h
  exact ⟨⟨still_of a, b, c, d, e, g⟩, i, j, l, m⟩

/-- What `Clu.ok` asks. -/
abbrev CluOk (x : Clu) : Prop :=
  Mem.wf 0 x.tile ∧ Mem.wf 0 x.im ∧ Mem.wf 0 x.core.dm ∧ Mem.wf 0 x.ring.mem ∧
  x.core.g.length = 32 ∧ x.core.pois.length = 32 ∧ x.core.ready.length = 32 ∧ x.core.ag.length = 8 ∧
  x.eng.length = 5 ∧ x.objs.length = 128

/-- What `State.coreAt` asks. -/
abbrev CoreAt (s : State) (c : Nat) (w : Word) (x : Clu) : Prop :=
  s.hasClu c = true ∧ s.clus[c]? = some x ∧ CluOk x ∧ x.run = true ∧ x.core.st = .running ∧ x.gen = x.imgen ∧
  x.imWord x.core.pc = w.toNat

theorem coreAt_of {s : State} {c : Nat} {w : Word} {x : Clu} (h : CoreAt s c w x) : s.coreAt c w x :=
  ⟨h.1, h.2.1, h.2.2.1, h.2.2.2.1, h.2.2.2.2.1, h.2.2.2.2.2.1, h.2.2.2.2.2.2⟩

/-- What `State.headAt` asks. -/
abbrev HeadAt (s : State) (c e : Nat) (k : ECmd) (x : Clu) : Prop :=
  s.hasClu c = true ∧ s.clus[c]? = some x ∧ CluOk x ∧ s.active c = true ∧ (x.q e).queue.head? = some k ∧ (x.q e).act = [] ∧
  k.granted = true

theorem headAt_of {s : State} {c e : Nat} {k : ECmd} {x : Clu} (h : HeadAt s c e k x) : s.headAt c e k x :=
  ⟨h.1, h.2.1, h.2.2.1, h.2.2.2.1, h.2.2.2.2.1, h.2.2.2.2.2.1, h.2.2.2.2.2.2⟩

/-- What `State.runs` asks, for one set of arrays. -/
abbrev Runs (s : State) (c e : Nat) (k : ECmd) (x : Clu) (arrays : Nat) : Prop :=
  s.hasClu c = true ∧ s.clus[c]? = some x ∧ CluOk x ∧ s.active c = true ∧ (x.q e).act = [⟨k, false, [], arrays⟩]

theorem runs_of {s : State} {c e : Nat} {k : ECmd} {x : Clu} {arrays : Nat} (h : Runs s c e k x arrays) : s.runs c e k x :=
  ⟨h.1, h.2.1, h.2.2.1, h.2.2.2.1, arrays, h.2.2.2.2⟩

/-- What `State.linked` asks. -/
abbrev Linked (s : State) (m : Msg) (p : Path) : Prop :=
  Quiet s ∧ s.portsOn = true ∧ m.sysid = BitVec.ofNat 64 s.cfg.conf.sysid ∧ m.dst = s.cfg.conf.devnum ∧ s.pathSet m.src ≠ [] ∧
  s.pathFor m.src m.flow = some p ∧ p.port < s.lnk.ports.length ∧ m.ce = false ∧ m.ece = false ∧ (s.peerDev m.src).ece = false

theorem linked_of {s : State} {m : Msg} {p : Path} (h : Linked s m p) : s.linked m p := by
  obtain ⟨a, b, c, d, e, f, g, i⟩ := h
  exact ⟨quiet_of a, b, c, d, e, f, g, i⟩

/-- What `State.hears` asks. -/
abbrev Hears (s : State) (m : Msg) (p : Path) (g n : Nat) : Prop :=
  Linked s m p ∧ s.boot.phase = .ready ∧ (s.peerDev m.src).lost = false ∧
  s.flowOf m.src m.flow = ⟨m.src, m.flow, n, [], (s.flowOf m.src m.flow).path, g⟩ ∧ m.seq = (g + 1) % 2 ^ 32 ∧
  (m.src, m.jobtag, m.sgen) ∉ s.lnk.cancelled

theorem hears_of {s : State} {m : Msg} {p : Path} {g n : Nat} (h : Hears s m p g n) : s.hears m p g n :=
  ⟨linked_of h.1, h.2.1, h.2.2.1, h.2.2.2.1, h.2.2.2.2.1, h.2.2.2.2.2⟩

/-- Whether an outcome is a next state. -/
def isNext : Host.Outcome State Fault Refusal → Bool
  | .next _ => true
  | _ => false

/-- The next state of an outcome that has one. -/
def nextOf : Host.Outcome State Fault Refusal → State
  | .next t => t
  | _ => State.reset

theorem next_of {o : Host.Outcome State Fault Refusal} (h : isNext o = true) : o = .next (nextOf o) := by
  cases o <;> first | rfl | cases h

/-- A command of its dwords 10 to 15. -/
def cm (d10 : Nat) (d11 : Nat := 0) (d12 : Nat := 0) (d13 : Nat := 0) (d14 : Nat := 0) (d15 : Nat := 0) : Cmd :=
  { sqid := 0, cid := 7, flags := 0, nsid := 0, cdw2 := 0, cdw3 := 0, pptr := 0, cdw10 := BitVec.ofNat 32 d10, cdw11 := BitVec.ofNat 32 d11
    cdw12 := BitVec.ofNat 32 d12, cdw13 := BitVec.ofNat 32 d13, cdw14 := BitVec.ofNat 32 d14, cdw15 := BitVec.ofNat 32 d15
    data := [], params := [], bufLen := 0, ok := true }

def q0 : Sq := ⟨0, 16, 3, 3, 0, 0, []⟩
def q1 : Sq := ⟨1, 16, 5, 5, 1, 0, []⟩
def k0 : Cq := ⟨0, 16, 2, 2, 0, true, []⟩
def k1 : Cq := ⟨1, 16, 4, 4, 1, false, []⟩

/-- A sled that is ready, with an admin and an I/O queue pair. -/
def ready : State :=
  { State.reset with
    boot := { State.reset.boot with phase := .ready }
    nvm := { State.reset.nvm with
      link := ⟨true, 128, 8⟩
      en := true
      rdy := true
      sqs := [q0, q1]
      cqs := [k0, k1] } }

theorem admin_of {s : State} {c : Cmd} (h : Takes s q0 k0) (hf : c.flags = 0) : AdminTurn s q0 k0 c := ⟨takes_of h, rfl, hf⟩

theorem io_of {s : State} {c : Cmd} (h : Takes s q1 k1) (hc : c.sqid = 1) : IoTurn s q1 k1 c := ⟨takes_of h, by decide, hc⟩

theorem admin_ready (c : Cmd) (h : c.flags = 0) : AdminTurn ready q0 k0 c := admin_of (by decide +kernel) h

/-! ### A state and operands for the hypotheses of each statement -/

theorem witness_IdleStepPassesMicrosecond :
    (ready.pending = [] ∧ ready.powered = true) ∧ (State.reset.pending = [] ∧ State.reset.powered = false) := by decide +kernel

/-- A sled with a command at the front of its queue. -/
def queued : State := { ready with pending := [.subsystemHealthStatusPoll] }

theorem ok_of {s : State} (h : s.clus.length = 32 ∧ (∀ x ∈ s.clus, CluOk x) ∧ s.parts.length = 8 ∧ (∀ n ∈ s.nss, Mem.wf 0 n.mem) ∧
    Mem.wf 0 s.resv.mem ∧ Mem.wf 0xFF s.boot.flash ∧ (s.mgmt.ps ≤ 4 ∧ s.mgmt.lastOp ≤ 2) ∧ s.mgmt.entry = none ∧ s.pwr.pendingPs = none) :
    s.ok := by
  obtain ⟨a, b, c, d, e, f, ⟨g1, g2⟩, i, j⟩ := h
  exact ⟨a, b, c, d, e, f, ⟨g1, g2, by simp [i]⟩, by simp [Pwr.ok, j]⟩

theorem witness_StepKeepsStateOk : queued.ok ∧ step queued = .next (nextOf (step queued)) :=
  ⟨ok_of (by decide +kernel), next_of (by decide +kernel)⟩

theorem witness_SettleLeavesQuietState : ready.quiet := quiet_of (by decide +kernel)

/-- A namespace. -/
def ns (i size : Nat) (attached : Bool) : Ns := ⟨i, size, attached, i, none, [(5, 7), (4096 * 300, 9)]⟩

def two : State := ready.modNss fun _ => [ns 1 1024 true, ns 2 1024 false, ns 128 8 true]

theorem admin_two (c : Cmd) (h : c.flags = 0) : AdminTurn two q0 k0 c := admin_of (by decide +kernel) h

theorem some_of {α : Type} {o : Option α} {p : α → Prop} [DecidablePred p] (h : o.any (fun x => decide (p x)) = true) :
    ∃ x, o = some x ∧ p x := by
  cases o with
  | none => cases h
  | some x => exact ⟨x, rfl, of_decide_eq_true h⟩

/-- Identify at namespaces 1 and 128, at the NSID bound, at a CNS of none; Get Log Page at the first and last dword of a page and beyond it. -/
theorem witness_IdentifyAndLogPagesReturnTheirData :
    (AdminTurn two q0 k0 (cm 1) ∧ bits (cm 1).cdw10.toNat 7 0 = 1) ∧
    (∀ i ∈ [1, 128], ∃ n, two.nss.find? (fun n => n.id == i) = some n ∧ n.attached = true ∧ 1 ≤ i ∧ i ≤ 128) ∧
    ({ cm 2 with nsid := 0xFFFFFFFD }.nsid < 0xFFFFFFFE ∧ bits (cm 2).cdw10.toNat 7 0 = 2 ∧ bits (cm 0x10).cdw10.toNat 7 0 = 0x10) ∧
    bits (cm 0x50013).cdw10.toNat 7 0 = 0x13 ∧
    (∀ n ∈ [0x04, 0x14, 0xFF], bits (cm n).cdw10.toNat 7 0 ∉ [0x00, 0x01, 0x02, 0x03, 0x10, 0x11, 0x12, 0x13]) ∧
    (∃ b, logPage (bits (cm 6).cdw10.toNat 7 0) two = some b ∧ 0 % 4 = 0 ∧ 0 < b.length ∧ (b.length - 4) % 4 = 0 ∧ b.length - 4 < b.length ∧
      b.length ≤ (cm 6 0 564).cdw12.toNat + (cm 6).cdw13.toNat * 2 ^ 32) ∧
    logPage (bits (cm 0x44).cdw10.toNat 7 0) two = none := by
  refine ⟨⟨admin_two _ rfl, by decide +kernel⟩, ?_, by decide +kernel, by decide +kernel, by decide +kernel, ?_, by decide +kernel⟩
  · intro i hi
    rcases List.mem_cons.1 hi with rfl | hi
    · exact ⟨ns 1 1024 true, by decide +kernel⟩
    · rw [List.mem_singleton.1 hi]; exact ⟨ns 128 8 true, by decide +kernel⟩
  · exact some_of (by decide +kernel)

/-- Features at the ends of their ranges: FID 01h, 0Eh, C0h; vector 1,024 of feature 09h; SEL 0 and 3; with and without SV. -/
theorem witness_FeaturesAreReadAndSet :
    AdminTurn ready q0 k0 (cm 0x01) ∧
    (∀ n ∈ [0x01, 0xC0], n ∈ featIds ∧ n ≠ 0x04 ∧ n ≠ 0x0E ∧ bits (cm n).cdw10.toNat 7 0 = n ∧ bits (cm n).cdw10.toNat 10 8 = 0) ∧
    (bits (cm 0x0E).cdw10.toNat 7 0 = 0x0E ∧ bits (cm 0x0E).cdw10.toNat 10 8 = 0) ∧
    (∀ n ∈ [0x01, 0x02, 0x0B, 0xC0], n ∈ featIds ∧ bits (cm (0x300 + n)).cdw10.toNat 7 0 = n ∧ bits (cm (0x300 + n)).cdw10.toNat 10 8 = 3) ∧
    (∀ n ∈ [0x00, 0x03, 0xFF], bits (cm n).cdw10.toNat 7 0 ∉ featIds) ∧
    (bits (cm 0x09 1024).cdw11.toNat 15 0 ≤ 1024 ∧ 0x09 ∈ featIds ∧ bit (cm 0x09).cdw10.toNat 31 = false) ∧
    (0xC0 ∈ featIds ∧ 0xC0 ∉ [0x01, 0x02, 0x0B] ∧ bits (cm 0x800000C0).cdw10.toNat 7 0 = 0xC0 ∧ bit (cm 0x800000C0).cdw10.toNat 31 = true) := by
  refine ⟨admin_ready _ rfl, ?_⟩
  decide +kernel

/-- A job of partition 0, its run on clusters 2 and 4, and a sled on which it runs. -/
def job : Job := ⟨1, 7, 4, 0x82, { cm 0 with sqid := 1 }, 0, 3, false, 0, 0, .command, []⟩

def run0 : Run :=
  { job := job, stage := 0, nstg := 1, cycles := 500, bound := 5, limit := 900, clusters := [2, 4], gen := 0, input := [], recs := []
    out := [], nrec := 0, recsz := 0, fmt := 0, poison := [], flags := 0, stat := 0, epoch := 0, missing := [], atBar := []
    teardown := none, tdAt := 0, cursor := 0, marks := [], copies := [], regions := [], inst := 0, coll := none, seen := [] }

def withRun (r : Run) (s : State) : State :=
  modClu 4 (fun x => { x with run := true, core := { x.core with st := .running } }) (modPart 0 (fun x => { x with run := some r }) s)

/-- Partition 0 of the sled has cluster 2 alone and is being cleared. -/
def clearing (f : Clu → Clu) : State :=
  modClu 2 f (modPart 0 (fun x => { x with clearing := true })
    { ready with cfg := { ready.cfg with conf := { ready.cfg.conf with clusters := [4, 0, 0, 0, 0, 0, 0, 0] } } })

def flight : Flight := ⟨1, 7, 0x82, { cm 0 with sqid := 1 }, 4, 0, 100, .job, none⟩

def flying (s : State) : State := s.modNvm fun n => { n with flights := [flight] }

def reloading : State := flying (modClu 2 (fun x => { x with reloadWait := true }) ready)

def hotSet : State := { ready with store := { ready.store with hot := [⟨3, true, 0, 0, 0, 10⟩, ⟨4, false, 0, 0, 0, 10⟩] } }

def bseq (cid ord left : Nat) : BSeq := ⟨1, cid, ord, ⟨ord, [], [], [], [], [], 0, false, []⟩, 100, left, 2⟩

def batch : Batch :=
  { model := 3, copy := zeros 512, opc := 0x8A
    members := [⟨job, none, [], [], [], none, 0, 0⟩, ⟨{ job with cid := 8, order := 2, jq := 5 }, none, [], [], [], none, 0, 0⟩]
    active := [bseq 7 0 2000000000, bseq 8 0 1900000000], closed := true, clusters := [2, 4], cycles := 1001, limit := 9, teardown := none }

def batched : State := modPart 0 (fun x => { x with batch := some batch }) ready

def torn : Run := { run0 with teardown := some .jobWatchdog }

def resettingP : State := flying (modPart 0 (fun x => { x with run := some run0, resetting := true }) ready)

/-- A sled whose cluster 4 awaits a frame of flash staging. -/
def staging : State :=
  { withRun run0 ready with
    nss := [ns 1 1024 true]
    cfg := { ready.cfg with conf := { ready.cfg.conf with clusters := [0x14, 0, 0, 0, 0, 0, 0, 0] } }
    clus := (withRun run0 ready).clus.modify 4 fun x => { x with ring := { x.ring with dealt := [0, 5], staged := 1 } } }

theorem witness_JobEventsEndAndContinueJobs_1 :
    (∀ f ∈ [fun x : Clu => x, fun x => { x with failPend := [4, 6] }, fun x => { x with cluFail := true }], let s := clearing f;
      Quiet s ∧ s.parts.length = 8 ∧ s.mgmt.ps < 3 ∧ (s.part 0).run = none ∧ (s.part 0).batch = none ∧ (s.part 0).resetting = false ∧
      (s.part 0).clearing = true ∧ (∀ q ∈ (s.part 0).queues, q = []) ∧ (s.part 0).sel = none ∧ s.clustersOf 0 = [2] ∧ 2 < s.clus.length) ∧
    (∀ c ∈ (clearing id).clustersOf 0, ((clearing id).clu c).cluFail = false ∧ ((clearing id).clu c).failPend = []) ∧
    (((clearing fun x => { x with failPend := [4, 6] }).clu 2).cluFail = false ∧
      ((clearing fun x => { x with failPend := [4, 6] }).clu 2).failPend = [4, 6]) ∧
    (((clearing fun x => { x with cluFail := true }).clu 2).cluFail = true ∧
      ∀ y ∈ (clearing fun x => { x with cluFail := true }).clus, y.spare = true →
        y.die ≠ ((clearing fun x => { x with cluFail := true }).clu 2).die) ∧
    (∃ y ∈ (modClu 4 (fun x => { x with spare := true }) (clearing fun x => { x with cluFail := true })).clus, y.spare = true ∧
      y.die = ((clearing fun x => { x with cluFail := true }).clu 2).die) := by and_intros <;> decide +kernel

theorem witness_JobEventsEndAndContinueJobs_2 :
    (Carries reloading q1 k1 flight ∧ (reloading.part 0).idle = true ∧ job.kind = .command ∧ job.sqid = flight.sqid ∧
      job.cid = flight.cid ∧ job.part = 0 ∧ job.opc ≠ 0xA0 ∧ (∃ c ∈ reloading.clustersOf 0, (reloading.clu c).reloadWait = true) ∧
      ∀ c ∈ reloading.clustersOf 0, c < reloading.clus.length) ∧
    (Quiet hotSet ∧ hotSet.hot? 3 = some ⟨3, true, 0, 0, 0, 10⟩ ∧ hotSet.store.loadQ = [] ∧ hotSet.hot? 9 = none) ∧
    (Quiet batched ∧ (batched.part 0).batch = some batch ∧ batch.members ≠ [] ∧
      (∀ m ∈ batch.members, m.waiting = [] ∧ m.done = [] ∧ m.poison = [] ∧ m.leaving = none ∧ m.job.jq < 16 ∧ m.job.part = 0 ∧
        ∃ x ∈ batch.active, (x.sqid, x.cid) = (m.job.sqid, m.job.cid)) ∧
      (∀ x ∈ afterStep (batchModel batch) batch.active, x.left ≠ 0) ∧ (batched.part 0).charged.length = 16 ∧
      (batched.part 0).run = none ∧ (batched.part 0).resetting = false ∧ batch.clusters ≠ []) := by and_intros <;> decide +kernel

theorem witness_JobEventsEndAndContinueJobs_3 :
    (let s := withRun run0 ready; Quiet s ∧ (s.part 0).run = some run0 ∧ (s.part 0).batch = none ∧ run0.teardown = none ∧
      (s.part 0).resetting = false ∧ run0.clusters ≠ [] ∧ s.jobPart 4 = some 0 ∧ s.mayHang 4 = true ∧ 4 < s.variant.clusters) ∧
    (let s := withRun torn ready; Quiet s ∧ (s.part 0).run = some torn ∧ torn.teardown = some .jobWatchdog ∧ s.mgmt.ps < 3) ∧
    (let s := flying (withRun torn ready); Carries s q1 k1 flight ∧ (s.part 0).run = some torn ∧ (s.part 0).resetting = false ∧
      torn.job.models = [] ∧ torn.clusters.Nodup ∧ (∀ c ∈ torn.clusters, c < s.clus.length ∧ s.drained c = true)) ∧
    (let s := modClu 4 (fun x => x.modQ 0 fun q => { q with act := [⟨⟨0, 0, 0, 0, 0, 0, 0, 0, 0, 0, 0, 0, [], false, true⟩, false, [], 1⟩] })
        (withRun torn ready); Quiet s ∧ ∃ c ∈ torn.clusters, s.drained c = false) ∧
    (Carries resettingP q1 k1 flight ∧ resettingP.nvm.aers = [] ∧ (resettingP.part 0).run = some run0 ∧ (resettingP.part 0).batch = none ∧
      (resettingP.part 0).resetting = true ∧ (∀ x ∈ (resettingP.part 0).queues, x = []) ∧ (resettingP.part 0).sel = none) ∧
    (Quiet staging ∧ staging.hasClu 4 = true ∧ staging.jobPart 4 = some 0 ∧ staging.active 4 = true ∧ (staging.clu 4).objs.length = 128 ∧
      (staging.clu 4).ring.dealt[(staging.clu 4).ring.staged]? = some 5 ∧ (staging.part 0).run = some run0 ∧
      (staging.clu 4).ring.staged < staging.variant.stSlots ∧ ((staging.clu 4).obj 127).value < 0xFFFFFFFF) := by and_intros <;> decide +kernel

/-- A unit of the Reservoir that holds the package of model 3, of three granules of 4 KiB. -/
def hotUnit : PoolUnit := ⟨3, 3, 0, 12288, none, 0, 0, 2⟩

theorem witness_JobEventsEndAndContinueJobs_4 :
    (let s := { hotSet with resv := { ready.resv with units := [hotUnit] } }; Quiet s ∧ s.hot? 3 = some ⟨3, true, 0, 0, 0, 10⟩ ∧
      s.store.loadQ = [] ∧ s.resv.units.find? (fun u => u.cls == 3 && u.key == 3) = some hotUnit ∧ ∀ k ∈ [0, 2], k * 4096 < hotUnit.bytes) ∧
    (batch.closed = true ∧ batch.teardown = none ∧ (∀ c ∈ batch.clusters, (batched.clu c).gen = (batched.clu c).imgen) ∧
      batched.weightHurt batch.clusters batch.model batch.copy = false ∧ (∀ m ∈ batch.members, m.wrote = 0) ∧
      (batch.members.map fun m => (m.job.sqid, m.job.cid)).Nodup) ∧ Status.jobWatchdog ≠ .cidConflict := by and_intros <;> decide +kernel

def loc (ch die plane block page unit : Nat) (slc : Bool) : Loc := ⟨ch, die, plane, block, page, unit, slc⟩
def l0 : Loc := loc 3 1 2 77 5 0 false
def l1 : Loc := loc 127 15 5 1820 767 3 true
def l2 : Loc := loc 8 8 1 1 1 1 false

def sblock (block : Nat) : Superblock :=
  { set := dieSetOf .d1024 l0, block := block, slc := false, progAt := 0, temp := 300, lastAt := 0, lastTemp := 300, age := 0, reads := 7
    step := 0, refresh := false, reloc := false, scrubbed := 0, row := 0, used := [], out := [] }

/-- A sled with blocks on its media: one good, one lost, one in SLC; one block in the write buffer. -/
def filled : State :=
  { ready with
    now := 7777
    media := { ready.media with
      map := [⟨1, 5, false, loc 4 4 2 8 1 1 true⟩, ⟨1, 9, false, l0⟩, ⟨1, 10, true, loc 3 1 2 77 5 1 false⟩]
      sbs := [sblock 77, sblock 3, { sblock 8 with set := 4, slc := true }]
      wear := [(dieSetOf .d1024 l0, 3, 40)]
      wb := [⟨1, 44, 3, true, 1, 1, []⟩] } }

/-- The same, with its QLC superblocks marked for relocation and the grant of their erase group. -/
def erasable : State :=
  { filled with
    media := { filled.media with sbs := filled.media.sbs.map fun b => { b with reloc := !b.slc } }
    pwr := { filled.pwr with grants := [⟨.eraseGroup 0, 160, 3⟩] } }

theorem witness_MediaEventsKeepTheMapTrue_1 :
    (Quiet filled ∧ filled.mediaOn = true ∧ filled.hasPlace l0 = true ∧ l0.unit = 0 ∧ 0 ≤ 7 ∧ 7 ≤ 7) ∧
    (filled.media.map.find? (fun x => x.loc == l0 && !x.bad) = some ⟨1, 9, false, l0⟩ ∧
      filled.media.failed.contains (l0.ch, l0.die) = false ∧ filled.media.rebuilding = []) ∧
    (filled.hasPlace l1 = true ∧ filled.cis.test = none ∧ filled.media.wb.any (fun u => u.nsid == 1 && u.lba == 44) = true ∧
      filled.programmable l1 = true ∧ l1.slc = decide (filled.slcHeld < filled.slcTarget) ∧ 3 ≤ filled.freeSbs (dieSetOf filled.variant l1)) ∧
    (filled.media.wb.any (fun u => u.nsid == 1 && u.lba == 45) = false ∧
      (filled.modMedia fun m => { m with failed := [(3, 1)] }).programmable l0 = false) ∧
    (63 < filled.variant.dieSets ∧ (∃ e ∈ filled.media.map, e.bad = false ∧ filled.inSb (dieSetOf .d1024 l0) 77 e.loc = true) ∧
      (∀ g ∈ filled.pwr.grants, g.unit ≠ eraseGroupOf 63) ∧ Quiet erasable ∧ erasable.mediaOn = true ∧
      erasable.media.sbs.find? (fun x => x.set == dieSetOf .d1024 l0 && x.block == 3) = some { sblock 3 with reloc := true } ∧
      erasable.erasing (dieSetOf .d1024 l0) 3 = true ∧ erasable.media.rebuilding = [] ∧
      erasable.media.wear.find? (fun x => x.1 == dieSetOf .d1024 l0 && x.2.1 == 3) = some (dieSetOf .d1024 l0, 3, 40)) := by
  and_intros <;> decide +kernel

theorem witness_MediaEventsKeepTheMapTrue_2 :
    (filled.hasDie 127 15 = true ∧ (127, 15) ∉ filled.media.failed ∧ (127, 15) ∉ filled.media.rebuilding) ∧
    (let s := filled.modMedia fun m => { m with failed := [(3, 1)], rebuilding := [(3, 1)] };
      Quiet s ∧ s.mediaOn = true ∧ s.hasDie 3 1 = true ∧ (3, 1) ∈ s.media.failed ∧ (3, 1) ∈ s.media.rebuilding ∧ s.spareLeft ≠ 0 ∧
        ∀ e ∈ s.media.map, e.nsid = 1 → e.lba = 5 → e.bad = true ∨ s.countsOn 3 1 e.loc = false) ∧
    (filled.programmable l2 = true ∧ l2.slc = false ∧ filled.entry? 1 9 = some ⟨1, 9, false, l0⟩ ∧
      filled.entry? 1 5 = some ⟨1, 5, false, loc 4 4 2 8 1 1 true⟩ ∧ filled.entry? 1 99 = none ∧
      filled.foldMoves ⟨1, 5, false, loc 4 4 2 8 1 1 true⟩ l2 = true ∧ filled.foldMoves ⟨1, 9, false, l0⟩ l2 = false ∧
      filled.gcMoves l0 l2 = false ∧ erasable.gcMoves l0 l2 = true ∧ erasable.entry? 1 9 = some ⟨1, 9, false, l0⟩ ∧
      filled.sbOf l0 = some (sblock 77) ∧ filled.media.victims = [] ∧ 12 ≤ filled.freeSbs (sblock 77).set) ∧
    (filled.media.scrubEn = true ∧ (filled.modMedia fun m => { m with scrubEn := false }).media.scrubEn = false ∧
      (filled.modMedia fun m => { m with failed := [(3, 1)] }).media.failed.contains (3, 1) = true) ∧
    (let s := filled.modMedia fun m => { m with dirty := [4, 5], directory := [(4, l0)] };
      Quiet s ∧ s.mediaOn = true ∧ 4 ∈ s.media.dirty ∧ 9 ∉ s.media.dirty ∧ s.programmable (loc 8 8 1 1 1 0 false) = true) ∧
    (filled.boot.phase = .ready ∧ filled.nvm.tsSet = false ∧ (filled.modNvm fun n => { n with tsSet := true }).nvm.tsSet = true) ∧
    (filled.hasPlace (loc 128 0 0 1 0 0 false) = false ∧ filled.hasDie 0 16 = false) := by
  and_intros <;> decide +kernel

def errRec (k : Nat) : ErrRec :=
  { seqStart := 0, seqCount := 1, time := 7, tstamp := 0, cls := 0, nested := false, coalesced := false, persisted := false
    promise := false, cmdValid := false, injected := false, slot := k, parent := 255, kind := k, action := 1
    inst := if k = 0xF then 0xFFFF else 3, pseq := (0, 0), sqid := 0, cid := 0, part := 255, count := 1, addr := 0, detail := 0 }

/-- A sled with corrections noted in the Reservoir and one spare row in use. -/
def worn : State :=
  { ready with
    now := 17000
    ras := { ready.ras with ring := [errRec 4, errRec 0xF], head := 40, injArm := true, injMem := 8, injInst := 3, injType := 1 }
    resv := { ready.resv with corr := [(3, 1, 9), (3, 2, 8)], spareRows := [(3, 2)], poison := [4, 5], mem := [(321, 5)] } }

def retired (v : Variant) : State :=
  { worn with
    variant := v
    resv := { worn.resv with chRet := [(3, 7)], lanes := [(3, 8)] } }

theorem witness_MemoryAndProcessorFaultsAreHandled_1 :
    (Quiet worn ∧ worn.operating = true ∧ 31 < worn.variant.clusters ∧ 31 < worn.clus.length ∧ 11 < worn.variant.stackCount) ∧
    (3, 1, 7) ∉ worn.resv.corr ∧ (worn.ras.hbmScrub = true ∧ 3 ∉ worn.resv.stkLost) ∧
    ((3, 1, 9) ∈ worn.resv.corr ∧ (3, 1) ∉ worn.resv.spareRows ∧ bit worn.ras.promise 4 = false) ∧
    ((3, 2, 8) ∈ worn.resv.corr ∧ (3, 2) ∈ worn.resv.spareRows) ∧
    (Quiet { worn with ras := { worn.ras with hbmScrub := false } }) ∧
    (3 < 4 ∧ (3, 31) ∉ worn.resv.chRet) ∧
    (let s := retired .d1024; Quiet s ∧ s.operating = true ∧ (3, 7) ∈ s.resv.chRet ∧ (3 + 6) % 12 ∉ s.resv.rebuild ∧
      (3 + 6) % 12 ∉ s.resv.stkLost ∧ s.variant = .d1024) ∧
    (let s := withRun run0 (retired .d512); Quiet s ∧ s.operating = true ∧ 4 < s.variant.clusters ∧ 3 < s.variant.stackCount ∧
      (3, 7) ∈ s.resv.chRet ∧ (3 + 6) % 12 ∉ s.resv.rebuild ∧ (3 + 6) % 12 ∉ s.resv.stkLost ∧ s.variant = .d512 ∧
      s.jobPart 4 = some 0 ∧ (s.part 0).run = some run0 ∧ (s.part 0).batch = none ∧ run0.teardown = none ∧
      (s.part 0).resetting = false ∧ run0.clusters ≠ []) ∧
    (4 ≤ 4 ∧ (3, 8) ∉ (retired .d1024).resv.chRet ∧ (3, 8) ∈ (retired .d1024).resv.lanes) := by and_intros <;> decide +kernel

theorem witness_MemoryAndProcessorFaultsAreHandled_2 :
    (Quiet worn ∧ worn.operating = true ∧ worn.ras.sramScrub = true ∧ (∀ m ∈ [1, 7], 1 ≤ m ∧ m ≤ 7 ∧ 31 < worn.variant.clusters)) ∧
    (worn.jobPart 3 = none ∧ worn.ras.repeats.contains (5, 3, 100) = false ∧
      (let s := { worn with ras := { worn.ras with repeats := [(5, 3, 100)] } };
        Quiet s ∧ s.jobPart 3 = none ∧ s.ras.repeats.contains (5, 3, 100) = true ∧ (s.clu 3).cluFail = false ∧ (s.clu 3).lost = false)) ∧
    (let s := withRun run0 { worn with ras := { worn.ras with repeats := [(5, 4, 100)] } };
      Quiet s ∧ s.operating = true ∧ s.jobPart 4 = some 0 ∧ (s.part 0).run = some run0 ∧ (s.part 0).resetting = false ∧
      s.ras.repeats.contains (5, 4, 100) = true) ∧
    (∃ n < Variant.dieLinks worn.variant, worn.answers = true ∧ n ∉ worn.ras.ucieHalf ∧ bit worn.ras.promise 7 = false ∧
      n + 1 = Variant.dieLinks worn.variant) ∧
    (worn.nvm.link.up = true ∧ (let s := { worn with now := 1007000 };
        Quiet s ∧ ∀ e ∈ s.ras.ring, e.kind = 0xF → e.cls = 0 → e.inst = 0xFFFF → 1000 ≤ s.ms - e.time) ∧
      worn.ras.ring.any (fun e => e.cls == 0 && e.kind == 0xF && e.inst == 0xFFFF && decide (worn.ms - e.time < 1000)) = true) ∧
    (15 < 16 ∧ worn.mediaOn = true ∧ (∀ h ∈ worn.ras.fmcHangs, h.1 = 15 → h.2 + 3600000000 ≤ worn.now) ∧
      ∃ h ∈ { worn.ras with fmcHangs := [(15, 5)] }.fmcHangs, h.1 = 15 ∧ worn.now < h.2 + 3600000000) ∧
    (worn.boot.op = none ∧ worn.ras.hdepth = 0 ∧ (let s := { worn with ras := { worn.ras with hdepth := 1 } };
        Quiet s ∧ s.answers = true ∧ s.ras.hdepth ≠ 0) ∧
      (let s := worn.modBoot fun b => { b with op := some ⟨3, 0, []⟩ }; Quiet s ∧ s.answers = true ∧ s.boot.op ≠ none)) ∧
    (let u := flying worn; Still u ∧ (∀ q ∈ u.nvm.sqs, q.unfetched = []) ∧ u.boot.phase = .ready ∧ u.nvm.flights = [flight]) := by
  and_intros <;> decide +kernel

/-- Links of two dies that run at half width already, or do not; a link error after a second without one. -/
theorem witness_MemoryAndProcessorFaultsAreHandled_3 :
    ∀ l ∈ [[], [0], [14]], let s := { worn with ras := { worn.ras with ucieHalf := l } }
      Quiet s ∧ s.answers = true ∧ bit s.ras.promise 7 = false ∧ ∀ n ∈ [0, 14], n < Variant.dieLinks s.variant ∧
        ((n ∈ s.ras.ucieHalf ∧ n ∈ s.ras.ucieHalf) ∨ (n ∉ s.ras.ucieHalf ∧ n ∈ s.ras.ucieHalf ++ [n])) := by decide +kernel

def port (st : Nat) : Port := { Port.reset with st := st, width := 40, peer := some 9 }

/-- A sled with two links to device 9, of which it has one flow. -/
def meshed (ports : List Port) (us : List Unacked) (modes : List Nat := [1, 1, 0, 0]) : State :=
  { ready with
    now := 500
    cfg := { ready.cfg with conf := { ready.cfg.conf with devnum := 5, sysid := 0x77, pmode := modes } }
    nvm := { ready.nvm with feats := [(0xC0, 0xFF)] }
    lnk := { ready.lnk with
      ports := ports
      peers := [⟨9, false, 700, false, []⟩]
      flows := [⟨9, 128, 44, us, some (.direct 0), 21⟩] } }

def up : State := meshed [port 2, port 2, port 0, port 0] []

/-- A message from device 9, the next of its flow. -/
def msg (typ : Nat) : Msg :=
  { State.msg up typ 5 128 with src := 9, seq := 22, ack := 0, sysid := 0x77, jobtag := 66, opid := 17, sgen := 3, inst := 1234 }

def unacked (seq tries typ : Nat) : Unacked := ⟨{ State.msg up typ 9 128 with seq := seq, opid := seq, payload := [9] }, 3, tries⟩

def remOp (id kind left : Nat) (pieces : List (Nat × Nat × Nat) := []) : RemOp := ⟨id, kind, 0, 2, 5, 0, 9, 0, 3000, [], left, pieces, []⟩

theorem witness_LinksTrainFailOverAndAcknowledge_1 :
    (Quiet up ∧ 3 < up.variant.ports ∧ 3 < up.lnk.ports.length ∧ up.portsOn = true ∧ (up.port 2).st = 0 ∧ (up.port 0).st ≠ 0) ∧
    (up.pmode 0 = 1 ∧ 3 ∉ (up.port 0).lanes ∧ (up.port 0).idleSpare 3 = false ∧ (up.port 0).sparesLeft ≠ 0 ∧ up.nvm.aers = [] ∧
      bit (up.feat 0xC0) 5 = true ∧ up.nvm.masked = [] ∧ (up.port 0).idleSpare 41 = true) ∧
    (let x := { port 2 with spares := 2, lanes := [3, 4] }; let s := meshed [x, port 2, port 0, port 0] []; Quiet s ∧ 4 ∈ x.lanes ∧ 9 ∉ x.lanes ∧
      x.idleSpare 9 = false ∧ x.sparesLeft = 0 ∧ (sortDedup (9 :: x.lanes)).length ≤ 26 ∧ 16 < x.width ∧ x.width ≤ 40) ∧
    (let x := { port 2 with spares := 2, lanes := List.range 26 }; let s := { meshed [x, port 2, port 0, port 0] [] with lnk := { up.lnk with
        ports := [x, port 2, port 0, port 0], flows := [], peers := [] } }; Quiet s ∧ 30 ∉ x.lanes ∧ x.idleSpare 30 = false ∧
      x.sparesLeft = 0 ∧ 26 < (sortDedup (30 :: x.lanes)).length ∧ s.lnk.flows = [] ∧ s.lnk.peers = []) ∧
    (let x := { port 2 with ifup := 6 }; let s := { meshed [] [] [2, 1, 0, 0] with lnk := { up.lnk with
        ports := [x, port 2, port 0, port 0], flows := [], peers := [] } }; Quiet s ∧ s.pmode 0 = 2 ∧ 39 < 40 ∧ 8 ∉ x.lanes ∧
      bit x.ifup (8 / 8) = true ∧ s.lnk.flows = [] ∧ s.lnk.peers = []) := by and_intros <;> decide +kernel

theorem witness_LinksTrainFailOverAndAcknowledge_2 :
    (∀ e ∈ [true, false], let x := { port 1 with elec := e }; let s := meshed [x, port 2, port 0, port 0] []; Quiet s ∧ s.portsOn = true ∧
      s.pmode 0 = 1 ∧ x.st = 1 ∧ x.lanes.length ≤ 26 ∧ x.elec = e) ∧
    (let x := { port 1 with lanes := List.range 27 }; Quiet (meshed [x, port 2, port 0, port 0] []) ∧ 26 < x.lanes.length) ∧
    (∀ h ∈ [(⟨9, 0x78, 1, 1⟩ : Hello), ⟨5, 0x77, 1, 1⟩, ⟨9, 0x77, 1, 2⟩, ⟨9, 0x77, 1, 1⟩],
      h.sysid ≠ BitVec.ofNat 64 up.cfg.conf.sysid ∨ h.sysid = BitVec.ofNat 64 up.cfg.conf.sysid ∧
      (h.devnum = up.cfg.conf.devnum ∨ h.mode ≠ 1 ∨ h.devnum ≠ up.cfg.conf.devnum ∧ h.mode = 1)) ∧
    ((up.port 0).st ≠ 1 ∧ 4 < 5) ∧
    (let s := meshed [port 2, port 2, port 0, port 0] [unacked 40 0 0x10]; let m := { msg 2 with ack := 39 }; Linked s m (.direct 0) ∧
      (∀ u ∈ (s.flowOf m.src m.flow).unacked, covers m.ack u.msg.seq = false ∧ u.msg.typ ≠ 0x16) ∧ (s.flowOf m.src m.flow).dev = m.src ∧
      (s.flowOf m.src m.flow).flow = m.flow) ∧
    (let u := unacked 40 0 0x16; let m := { msg 4 with ack := 41 }
     let s := { meshed [] [] with lnk := { (meshed [port 2, port 2, port 0, port 0] [u]).lnk with ops := [remOp 40 2 1, remOp 3 0 1] } };
      Linked s m (.direct 0) ∧ (s.flowOf m.src m.flow).unacked = [u] ∧ covers m.ack u.msg.seq = true ∧ u.msg.typ = 0x16 ∧
      s.lnk.ops.filter (fun y => y.opid == u.msg.opid) = [remOp 40 2 1] ∧ (remOp 40 2 1).kind = 2 ∧ (remOp 40 2 1).dev = m.src) ∧
    (∀ n ∈ [2, 3], let u := unacked 40 n 0x10; let s := meshed [port 2, port 2, port 0, port 0] [u]; Quiet s ∧
      (s.flowOf 9 128).unacked = [u] ∧ (s.flowOf 9 128).path = some (.direct 0) ∧ u.tries = n ∧ s.lnk.flows = [s.flowOf 9 128] ∧
      (s.lnk.peers.map (·.dev)) = [9] ∧ (s.peerDev 9).lost = false ∧ .direct 0 ∈ s.goodPaths 9 ∧
      ((s.goodPaths 9).filter (· != .direct 0))[128 % ((s.goodPaths 9).filter (· != .direct 0)).length]? = some (.direct 1)) ∧
    (let s := meshed [port 2, port 0, port 0, port 0] [unacked 40 3 0x10]; Quiet s ∧ .direct 0 ∈ s.goodPaths 9 ∧
      (s.goodPaths 9).filter (· != .direct 0) = [] ∧ s.lnk.ops = [] ∧ s.lnk.fans = [] ∧ s.lnk.shuffles = []) ∧
    ((up.flowOf 9 128).unacked = [] ∧ ∃ e ∈ up.lnk.peers, e.dev = 9) := by and_intros <;> decide +kernel

/-- A run on clusters 2 and 4 with two regions, under a job tag and with or without partial results. -/
def runOf (tag : Nat) (partok : Bool) : Run :=
  { run0 with
    job := { job with cmd := { job.cmd with cdw15 := BitVec.ofNat 32 tag, cdw10 := if partok then 0x400 else 0 } }
    regions := [(0, 0), (4096, 8192)] }

def running (partok : Bool) : State := withRun (runOf 66 partok) up

/-- The job of the run has an instance. -/
def bound : State :=
  { running false with
    resv := { up.resv with mem := [(4100, 7)], poison := [65, 200] }
    lnk := { up.lnk with insts := [(0, 66, 1234)] } }

def asking (o : RemOp) (partok : Bool) : State := { running partok with lnk := { up.lnk with ops := [remOp 3 1 9, o] } }

def whole (m : Msg) : Msg := { m with addr := BitVec.ofNat 64 (m.payload.length * 2 ^ 32) }

def parms : List Byte := zeros 16 ++ [0, 0x8F] ++ zeros 62

def fanMsg : Msg := whole { msg 0x20 with inst := parms.length, payload := parms ++ [1, 2, 3], jobtag := 1 }

def fan : Fan := ⟨0, 17, [(8, 100), (9, 200)], [(4, [1])], []⟩

def fanning (partok : Bool) : State := { running partok with lnk := { up.lnk with fans := [fan] } }

def result (st : Nat) : Msg := whole { msg 0x22 with inst := st, payload := [4, 5, 6] }

def index : Index :=
  { nsid := 1, id := 0, product := false, codeBits := 64, deg := 16, alpha16 := 0, buildcq := 0, first := 0, nframes := 10, maxItems := 9
    retain := 1, part := 0, centroids := [], codebooks := [], plots := [], dir := [], pend := [], epoch := 1, images := [], bound := []
    work := .none, waiting := [], next := none, stale := 0, rejDup := 0, rejPois := 0, rejFull := 0, rejPend := 0, reclaimed := 0
    sweeps := 0, dropping := none }

def grouped : State :=
  { running false with
    cfg := { up.cfg with conf := { up.cfg.conf with groups := [none, some ⟨1, (joinStage parms).objid, 0, 0, 5, 2 ^ 5 + 2 ^ 9⟩] } }
    nss := [ns 1 1024 true]
    idx := [{ index with id := (joinStage parms).objid }] }

def shuffle : Shuffle :=
  { tag := 17, nsid := 1, parms := parms, bits := 64, fdev := 7, members := [5, 9, 8], items := [], ended := [], pairs := [], owners := []
    stat := 4, hurt := [] }

theorem witness_MessagesActOnTheirPeers_1 :
    (Quiet up ∧ up.portsOn = true ∧ up.pathSet (msg 2).src ≠ [] ∧ { msg 2 with dst := 6 }.dst ≠ up.cfg.conf.devnum) ∧
    (let m := { msg 0x12 with seq := 25 }; m.sysid = BitVec.ofNat 64 up.cfg.conf.sysid ∧ m.dst = up.cfg.conf.devnum ∧ m.ce = false ∧
      m.ece = false ∧ up.pathFor m.src m.flow = some (.direct 0) ∧
      up.peerDev m.src = ⟨m.src, false, (up.peerDev m.src).rate, false, (up.peerDev m.src).failed⟩ ∧
      up.flowOf m.src m.flow = ⟨m.src, m.flow, 44, [], (up.flowOf m.src m.flow).path, 21⟩ ∧ m.seq ≠ (21 + 1) % 2 ^ 32) ∧
    (Hears { up with mgmt := { up.mgmt with ps := 3 } } (msg 0x12) (.direct 0) 21 44 ∧ { up with mgmt := { up.mgmt with ps := 3 } }.mgmt.ps = 3) ∧
    (Hears up (msg 0x12) (.direct 0) 21 44 ∧ up.mgmt.ps < 3 ∧ up.instance? (msg 0x12).inst = none) ∧
    (Hears bound (msg 0x12) (.direct 0) 21 44 ∧ bound.instance? (msg 0x12).inst = some (0, runOf 66 false)) ∧
    (inRegions (runOf 66 false) 4096 8192 = true ∧ inRegions (runOf 66 false) 4096 8193 = false ∧ leNat (leBytes 4 8192) ≤ 8192) ∧
    (255 / 128 ∉ (runOf 66 false).clusters ∧ 256 / 128 ∈ (runOf 66 false).clusters ∧ (bound.clu (256 / 128)).ctxgen = 0 ∧
      ((bound.clu (256 / 128)).obj (256 % 128)).value + 65535 ≤ 0xFFFFFFFF ∧ (msg 0x16).src ≠ 0x3FFF) ∧
    ((msg 0x10).flow = 128 ∧ bound.lnk.cancelled = [] ∧ bound.lnk.insts.find? (fun x => x.2.1 == (msg 0x10).jobtag) = some (0, 66, 1234) ∧
      (bound.part 0).run = some (runOf 66 false) ∧ (∀ x ∈ up.lnk.insts, x.2.1 ≠ (msg 0x10).jobtag)) ∧
    ({ msg 0x18 with opid := 0 }.payload = [] ∧ ∀ x ∈ bound.parts, ∀ r ∈ x.run, r.job.kind ≠ .fan 9 0) := by and_intros <;> decide +kernel

theorem witness_MessagesActOnTheirPeers_2 :
    (let b : Binding := ⟨0, 9, false, 0, [], []⟩; let s := { running false with lnk := { up.lnk with binds := [b] } };
      Hears s (msg 0x11) (.direct 0) 21 44 ∧ s.lnk.binds.filter (fun x => x.dev == 9 && !x.bound) = [b] ∧
      (s.part b.part).run = some (runOf 66 false) ∧ (runOf 66 false).job.cmd.cdw15.toNat = (msg 0x11).jobtag ∧
      ∀ o ∈ s.lnk.ops, o.waiting = []) ∧
    (let o := remOp 17 0 1 [(4096, 128, 64)]; let s := asking o false; let m := { msg 0x13 with addr := 4096 }; Hears s m (.direct 0) 21 44 ∧
      s.lnk.ops.filter (fun x => x.opid == m.opid) = [o] ∧ o.dev = m.src ∧ o.eng = 5 ∧ o.waiting = [] ∧ s.tearing o.part = false ∧
      o.clu < s.clus.length ∧ o.left = 1 ∧ m.poison = [] ∧ ((s.clu o.clu).q 5).act = []) ∧
    (∀ n ∈ [1, 2], let o := remOp 17 1 n; let s := asking o false; Hears s (msg 0x15) (.direct 0) 21 44 ∧
      s.lnk.ops.filter (fun x => x.opid == 17) = [o] ∧ o.kind = 1 ∧ o.left = n ∧ s.lnk.fans = [] ∧ ∀ x ∈ s.lnk.ops, x.waiting = []) ∧
    (∀ pk ∈ [true, false], let o := remOp 17 0 1; let s := asking o pk; Hears s { msg 0x1B with addr := 2 } (.direct 0) 21 44 ∧
      (s.part o.part).run = some (runOf 66 pk) ∧ (s.part o.part).batch = none ∧ (runOf 66 pk).teardown = none ∧
      (s.part o.part).resetting = false ∧ (runOf 66 pk).clusters ≠ [] ∧ o.part < s.parts.length ∧ s.lnk.fans = [] ∧
      partokOf (runOf 66 pk).job.cmd = pk ∧ (2 : BitVec 64).toNat % 256 ≠ 1 ∧ s.jobPart o.clu = some o.part) ∧
    (up.lnk.fans = [] ∧ (∀ o ∈ up.lnk.ops, o.opid ≠ 17) ∧ up.working = []) ∧
    (let s := modPart 1 (fun x => { x with run := some { run0 with job := { job with kind := .fan 9 17 } } }) up;
      Hears s (msg 0x21) (.direct 0) 21 44 ∧ s.working = [(9, 17)]) := by and_intros <;> decide +kernel

theorem witness_MessagesActOnTheirPeers_3 :
    (∀ pk ∈ [true, false], Hears (fanning pk) (result 0) (.direct 0) 21 44) ∧
    (∀ pk ∈ [true, false], Hears (fanning pk) (result 0x784) (.direct 0) 21 44) ∧
    (∀ st ∈ [0, 0x784], let m := result st; m.inst = st ∧ fan.tag = m.opid ∧ fan.waiting.any (fun w => w.1 == m.src) = true ∧
      m.addr.toNat = m.payload.length * 2 ^ 32) ∧
    (∀ pk ∈ [true, false], let s := fanning pk; s.lnk.parcels = [] ∧ s.shuffle? fan.tag s.cfg.conf.devnum = none ∧ (s.part fan.part).run = some (runOf 66 pk) ∧
      (s.part fan.part).batch = none ∧ (s.part fan.part).resetting = false ∧ fan.part < s.parts.length) ∧
    (let d := (joinStage parms).objid; fanMsg.flow = 128 ∧ fanMsg.addr.toNat = fanMsg.payload.length * 2 ^ 32 ∧
      (joinStage (fanMsg.payload.take fanMsg.inst)).sopc ≠ 0x93 ∧ d = (joinStage (fanMsg.payload.take fanMsg.inst)).objid ∧
      (Hears up fanMsg (.direct 0) 21 44 ∧ up.groupOf fanMsg.jobtag 0 d = none) ∧
      (Hears grouped fanMsg (.direct 0) 21 44 ∧ grouped.groupOf fanMsg.jobtag 0 d = some ⟨1, d, 0, 0, 5, 2 ^ 5 + 2 ^ 9⟩ ∧
        (grouped.ns? fanMsg.jobtag).isSome = true ∧ (grouped.index? fanMsg.jobtag d).isSome = true ∧ (grouped.part 0).idle = false ∧
        (grouped.part 0).resetting = false ∧ { grouped with idx := [] }.index? fanMsg.jobtag d = none)) ∧
    (∀ f ∈ [7, 5], let s := { up with lnk := { up.lnk with shuffles := [{ shuffle with fdev := f }] } }; let m := { msg 0x24 with inst := f };
      Hears s m (.direct 0) 21 44 ∧ shuffle.tag = m.opid ∧ (∃ d ∈ shuffle.members, d ≠ m.src ∧ d ∉ shuffle.ended) ∧ s.lnk.fans = []) := by
  and_intros <;> decide +kernel

/-- A write of a poisoned granule; an item that arrives poisoned; a SHUFEND that names a device; a SHUFPAIR to its device, with more to
follow and the last, with the IDs of two poisoned items after a pair. -/
theorem witness_MessagesActOnTheirPeers_4 :
    (let m := { msg 0x14 with addr := 4096, payload := zeros 128, poison := [1] };
      Hears bound m (.direct 0) 21 44 ∧ bound.instance? m.inst = some (0, runOf 66 false) ∧ m.poison ≠ [] ∧
        inRegions (runOf 66 false) m.addr.toNat m.payload.length = true) ∧
    (let s := { up with lnk := { up.lnk with shuffles := [shuffle] } }; let m := { msg 0x24 with inst := 7, addr := 12, poison := [0] };
      let e := { msg 0x26 with inst := 7, addr := 9 };
      Hears s m (.direct 0) 21 44 ∧ shuffle.tag = m.opid ∧ shuffle.fdev = m.inst ∧ m.poison ≠ [] ∧
        Hears s e (.direct 0) 21 44 ∧ shuffle.fdev = e.inst ∧ e.addr.toNat = 8 + 1 ∧ (∃ d ∈ shuffle.members, d ≠ 8 ∧ d ∉ shuffle.ended) ∧
        e.inst ≠ s.cfg.conf.devnum) ∧
    (∀ a ∈ [4, 5], let s := { up with lnk := { up.lnk with shuffles := [{ shuffle with fdev := 5 }] } };
      let m := { msg 0x25 with inst := 5, jobtag := 1, addr := BitVec.ofNat 64 a, payload := zeros 24 ++ leBytes 8 3 ++ leBytes 8 4 };
      Hears s m (.direct 0) 21 44 ∧ m.inst = s.cfg.conf.devnum ∧ s.lnk.fans = [] ∧ (m.payload.length - 24 * m.jobtag) / 8 = 2 ∧
        (m.addr.toNat % 2 = 0 ↔ a = 4)) := by and_intros <;> decide +kernel

/-- A sled that has come to a step of its SPDM dialogue. -/
def spdmAt (step : Nat) : State := { ready with sec := { ready.sec with spdm := ⟨0x13, step, [1, 2], [3], [4], [5]⟩ } }

def ask (v : Nat) (l : List Byte) : List Byte := BitVec.ofNat 8 v :: 0x84 :: l

theorem witness_SpdmAnswersInItsTurn :
    (Quiet State.reset ∧ State.reset.answers = false) ∧ (∀ n ∈ [0, 1, 2, 3], Quiet (spdmAt n) ∧ (spdmAt n).answers = true) ∧
    (∀ k ∈ [1, 2, 3], (spdmAt 0).sec.spdm.step < k) ∧
    (2 ≤ (spdmAt 2).sec.spdm.step ∧ 4 ≤ (ask 0x12 [0, 0]).length ∧ field (ask 0x12 [0, 0]) 0 1 ≠ (spdmAt 2).sec.spdm.ver) ∧
    (field (ask 0x10 [0, 0]) 0 1 = 0x10 ∧ field (ask 0x12 [0, 0]) 0 1 = 0x12 ∧ field (ask 0x11 [0, 0]) 0 1 ≠ 0x12 ∧
      field (ask 0x11 [0, 0]) 0 1 ≠ 0x13) ∧
    (∀ r ∈ [ask 0x13 (zeros 6 ++ leBytes 4 (2 ^ 11) ++ leBytes 4 (2 ^ 5)), ask 0x13 (zeros 14)], 4 ≤ r.length ∧
      field r 0 1 = (spdmAt 2).sec.spdm.ver) ∧
    (bit (field (ask 0x13 (zeros 6 ++ leBytes 4 (2 ^ 11) ++ leBytes 4 (2 ^ 5))) 8 4) 11 = true ∧
      bit (field (ask 0x13 (zeros 6 ++ leBytes 4 (2 ^ 11) ++ leBytes 4 (2 ^ 5))) 12 4) 5 = true ∧
      bit (field (ask 0x13 (zeros 14)) 8 4) 11 = false) ∧
    (field (ask 0x13 [0, 0, 0, 0, 4, 0]) 2 1 % 16 = 0 ∧ field (ask 0x13 [1, 0, 0, 0, 4, 0]) 2 1 % 16 ≠ 0) ∧
    (∀ o ∈ [0, 1, 6, 7, 0xFE, 0xFF], field (ask 0x13 [1, BitVec.ofNat 8 o]) 3 1 = o ∧ bit (field (ask 0x13 [1, BitVec.ofNat 8 o]) 2 1) 0 = true ∧
      bit (field (ask 0x13 [0, BitVec.ofNat 8 o]) 2 1) 0 = false) := by and_intros <;> decide +kernel

/-! #### A namespace with a collection, a model store, a result set and an index -/

/-- A number worked out before a function takes it: the kernel then meets no nest of steps that wait. -/
def force (n : Nat) (f : Nat → Nat) : Nat := match n with | 0 => f 0 | k + 1 => f (k + 1)

@[simp] theorem force_eq (n : Nat) (f : Nat → Nat) : force n f = f n := by cases n <;> rfl

/-- The register of the CRC after some bytes. -/
def crcReg : List Byte → Nat → Nat
  | [], c => c
  | b :: l, c => force (c ^^^ b.toNat) fun c => force (crcBit c) fun c => force (crcBit c) fun c => force (crcBit c) fun c =>
      force (crcBit c) fun c => force (crcBit c) fun c => force (crcBit c) fun c => force (crcBit c) fun c => force (crcBit c) (crcReg l)

theorem crcReg_eq (l : List Byte) (c : Nat) : l.foldl (fun c b =>
    let c := c ^^^ b.toNat
    crcBit (crcBit (crcBit (crcBit (crcBit (crcBit (crcBit (crcBit c)))))))) c = crcReg l c := by
  induction l generalizing c with
  | nil => rfl
  | cons b l ih => simp only [List.foldl_cons, crcReg, force_eq, ih]

theorem crc_zeros (n : Nat) : crcReg (zeros n) 0 = 0 := by
  induction n with
  | zero => rfl
  | succ n ih => exact ih

theorem readFrom_nil (n a : Nat) : Mem.readFrom 0 n a [] = zeros n := by
  induction n generalizing a with
  | zero => rfl
  | succ n ih => simpa [Mem.readFrom, zeros, List.replicate_succ] using ih (a + 1)

/-- A read beyond the last cell of a memory is a shorter read and zero bytes. -/
theorem readFrom_beyond {m : Mem} {n a : Nat} (k : Nat) (hw : Mem.wfFrom 0 a m = true) (h : ∀ c ∈ m, c.1 < a + n) :
    Mem.readFrom 0 (n + k) a m = Mem.readFrom 0 n a m ++ zeros k := by
  induction n generalizing a m with
  | zero =>
    cases m with
    | nil => rw [Nat.zero_add, readFrom_nil]; rfl
    | cons c m =>
      have := h c (by simp)
      simp [Mem.wfFrom] at hw
      omega
  | succ n ih =>
    rw [Nat.succ_add]
    cases m with
    | nil => simp only [readFrom_nil]; simp [zeros]; omega
    | cons c m =>
      simp only [Mem.wfFrom, Bool.and_eq_true, decide_eq_true_eq] at hw
      by_cases hc : c.1 = a
      · subst hc
        simp only [Mem.readFrom, if_pos, List.cons_append]
        rw [ih hw.2 fun d hd => by have := h d (by simp [hd]); omega]
      · simp only [Mem.readFrom, if_neg hc, List.cons_append]
        rw [ih (by simp only [Mem.wfFrom, hw, Bool.and_true, decide_eq_true_eq]; omega) fun d hd => by have := h d hd; omega]

/-- A frame whose CHECK is FFFFFFFFh, and whose bytes up to the last that is not 0 bring the register of the CRC to 0. -/
theorem checkOk_of (f : Frame) (n : Nat) (hn : n ≤ 65472) (hw : Mem.wfFrom 0 0x40 (f.cells.dropWhile fun c => decide (c.1 < 0x40)) = true)
    (hb : ∀ c ∈ f.cells.dropWhile fun c => decide (c.1 < 0x40), c.1 < 0x40 + n) (hc : f.num 0x3C 4 = 0xFFFFFFFF)
    (hr : crcReg (f.bytes 0 0x3C ++ zeros 4 ++ f.bytes 0x40 n) 0xFFFFFFFF = 0) : f.checkOk = true := by
  have e : f.bytes 0x40 65472 = f.bytes 0x40 n ++ zeros (65472 - n) := by
    have := readFrom_beyond (65472 - n) hw hb
    rwa [Nat.add_sub_cancel' hn] at this
  simp only [Frame.checkOk, hc, e, ← List.append_assoc, beq_iff_eq]
  rw [crc32c, List.foldl_append, crcReg_eq, crcReg_eq, hr, crc_zeros]
  rfl

/-- The catalogue frame and the descriptor frame of a collection; the last four bytes of each bring the register of the CRC to 0. -/
def catBytes : List Byte :=
  leBytes 4 0x4D52464B ++ [3, 1] ++ zeros 54 ++ leBytes 4 0xFFFFFFFF ++ leBytes 4 1 ++ zeros 60 ++ leBytes 4 5 ++ zeros 4 ++ leBytes 8 1 ++
  zeros 16 ++ leBytes 4 2388967499

def descBytes : List Byte :=
  leBytes 4 0x4D52464B ++ [2, 1, 0, 0] ++ leBytes 4 5 ++ leBytes 4 1 ++ leBytes 8 1 ++ zeros 36 ++ leBytes 4 0xFFFFFFFF ++
  leBytes 8 2 ++ leBytes 8 2 ++ leBytes 2 1 ++ leBytes 2 16 ++ zeros 172 ++ [0x18, 0] ++ leBytes 2 64 ++ leBytes 2 8 ++ zeros 16 ++
  leBytes 4 1971325751

def collMem : Mem := Mem.cells 0 0 catBytes ++ Mem.cells 0 0x10000 descBytes

def coll5 : Coll := ⟨5, 1, 2, 2, 16, [⟨0x18, 0, 64, 8⟩]⟩

theorem catFrame_ok : (frameAt collMem [] 0).checkOk = true :=
  checkOk_of _ 100 (by decide) (by decide +kernel) (by decide +kernel) (by decide +kernel) (by decide +kernel)

theorem descFrame_ok : (frameAt collMem [] 1).checkOk = true :=
  checkOk_of _ 218 (by decide) (by decide +kernel) (by decide +kernel) (by decide +kernel) (by decide +kernel)

theorem catalogue_collMem : catalogue collMem [] = [(5, 1)] := by
  simp only [catalogue, catFrame_ok]
  decide +kernel

theorem candidate_collMem : candidate collMem [] 65536 [1] (5, 1) = some coll5 := by
  simp only [candidate, headOk, descFrame_ok]
  decide +kernel

theorem collections_of {mem : Mem} (h : catalogue mem [] = [(5, 1)]) (h' : candidate mem [] 65536 [1] (5, 1) = some coll5) :
    collections mem [] 65536 = [coll5] := by
  simp only [collections, h, List.map_cons, List.map_nil, List.filterMap_cons, List.filterMap_nil, h']
  decide +kernel

theorem colls_of {s : State} (h : s.nsMem 1 = collMem) (hl : s.lost 1 = []) (hn : s.nsFrames 1 = 65536)
    (hi : (s.idxOf 1).all (fun i => !overlap 2 2 i.first i.nframes) = true) : s.colls 1 = [coll5] := by
  have e : collections (s.nsMem 1) (s.lost 1) (s.nsFrames 1) = [coll5] := by
    rw [h, hl, hn]
    exact collections_of catalogue_collMem candidate_collMem
  rw [State.colls, e, List.filter_cons_of_pos (by simpa [coll5] using hi)]
  rfl

theorem coll_of {s : State} (h : s.colls 1 = [coll5]) : s.coll? 1 5 = some coll5 := by
  rw [State.coll?, h]
  rfl

/-- A parameter structure of one stage. -/
def stage (sopc len src handle objid : Nat) (body : List Byte) : List Byte :=
  leBytes 2 257 ++ zeros 2 ++ leBytes 4 (16 + len) ++ zeros 8 ++ [BitVec.ofNat 8 sopc, 0] ++ leBytes 2 len ++ [BitVec.ofNat 8 src, 0] ++
  leBytes 2 handle ++ leBytes 4 objid ++ zeros 4 ++ body

/-- A query command of one stage, of partition 0 and queue 0, whose output is one block of the buffer or absent. -/
def query (p : List Byte) (inlen outlen : Nat) : Cmd :=
  { cm (p.length / 4 * 65536) inlen outlen with sqid := 1, nsid := 1, params := p }

def scanCmd : Cmd := query (stage 0x82 64 1 0 5 (zeros 16 ++ leBytes 8 1 ++ zeros 24)) 0 1
def embedCmd : Cmd := query (stage 0x87 32 2 6 0 (leBytes 4 4 ++ zeros 12)) 0 1
def scoreCmd : Cmd := query (stage 0x8A 32 2 6 0 (leBytes 4 3 ++ zeros 12)) 0 1
def searchCmd : Cmd := query (stage 0x8F 48 3 0 11 (zeros 4 ++ leBytes 4 1 ++ leBytes 2 1 ++ leBytes 2 1 ++ leBytes 2 1 ++ leBytes 2 16 ++ zeros 16)) 8 1
def joinCmd : Cmd := query (stage 0x93 48 1 0 5 (zeros 32)) 0 1
def insertCmd : Cmd := query (stage 0x95 32 3 0 11 (leBytes 4 1 ++ leBytes 2 0xFFFF ++ zeros 10)) 16 0
def jobCmd : Cmd := query (stage 0xA7 32 2 6 0 (leBytes 4 9 ++ zeros 12)) 0 1
def recallCmd : Cmd := query (stage 0xB2 48 0 0 11 (zeros 4 ++ leBytes 4 1 ++ leBytes 2 1 ++ leBytes 2 1 ++ leBytes 2 1 ++ leBytes 2 16 ++ zeros 16)) 0 1

def createCmd : Cmd :=
  { cm 64 with
    nsid := 1
    data := [1, 0] ++ leBytes 2 64 ++ leBytes 4 12 ++ leBytes 8 40 ++ leBytes 8 24586 ++ leBytes 8 1 ++ leBytes 4 1 ++ [16, 16] ++ leBytes 2 16 ++
      [1, 0, 0, 0] ++ leBytes 4 5 ++ leBytes 2 0 ++ leBytes 2 1 ++ leBytes 4 1 ++ zeros 8 }

def resultSet : ResultSet :=
  { handle := 6, nsid := 1, part := 0, first := 0, total := 8192, bytes := zeros 64, fmt := 2, nrec := 0, recs := [], until_ := 60000000
    users := [], released := false }

/-- A sled with the collection 5, the index 11, two models, a program and the result set 6, on which a job runs. -/
def stocked : State :=
  { withRun run0 ready with
    nss := [⟨1, 1048576, true, 1, none, collMem⟩]
    idx := [{ index with id := 11, first := 20, centroids := [zeros 8, zeros 8] }]
    res := ⟨[resultSet], 7⟩
    store := { ready.store with
      objs := [⟨3, true, zeros 5 ++ [1, 0, 1] ++ zeros 56, false⟩, ⟨4, true, zeros 8 ++ leBytes 2 64 ++ zeros 54, false⟩, ⟨9, false, zeros 64, false⟩] } }

theorem stocked_mem : stocked.nsMem 1 = collMem := by decide +kernel

theorem stocked_colls : stocked.colls 1 = [coll5] := colls_of stocked_mem (by decide +kernel) (by decide +kernel) (by decide +kernel)

theorem stocked_coll : stocked.coll? 1 5 = some coll5 := coll_of stocked_colls

theorem embed_ok : checkQuery 0x87 embedCmd stocked = none := by decide +kernel
theorem score_ok : checkQuery 0x8A scoreCmd stocked = none := by decide +kernel
theorem search_ok : checkQuery 0x8F searchCmd stocked = none := by decide +kernel
theorem insert_ok : checkQuery 0x95 insertCmd stocked = none := by decide +kernel
theorem jobRun_ok : checkQuery 0xA7 jobCmd stocked = none := by decide +kernel
theorem recall_ok : checkQuery 0xB2 recallCmd stocked = none := by decide +kernel

/-- A command whose one stage reads collection 5 passes its checks when its dwords, its structure and its stage do. -/
theorem checkQuery_of {opc : Nat} {c : Cmd} {s : State} {d : StageD} (hq : hasParams opc = true) (hs : stagesOf c = [d]) (hdl : dlOf c = false)
    (hd : checkDwords opc c s = none) (hk : checkParams opc c s = none) (hp : s.present (partOf c) = true)
    (hj : (s.cfg.conf.queues.getD (16 * partOf c + jqOf c) (false, 0)).1 = true) (hd1 : d.src = 1)
    (hc : s.coll? c.nsid d.objid = some coll5) (hw : firstBad (stageDwords s c d) = none) (ho : checkStageObj s c (some coll5.fields) none d = none)
    (ha : checkLists c.params [d] (some coll5.fields) = none)
    (hr : s.media.readOnly = false) : checkQuery opc c s = none := by
  have e : chainSchema s c [d] = some coll5.fields := by simp [chainSchema, hd1, hc]
  have e' : checkObjects opc c s = none := by
    simp only [checkObjects, hq, if_true, hs, hdl, hp, hj, e, checkStageObjs, ho, ha, List.flatMap_cons, List.flatMap_nil, List.append_nil, hw]
    simp [firstBad, hd1]
  simp only [checkQuery, hd, hq, if_true, hk, e', hr, Bool.and_false, if_false, Bool.false_eq_true]

theorem scan_objects {s : State} (hc : s.coll? 1 5 = some coll5) : checkStageObj s scanCmd (some coll5.fields) none ⟨16, 0x82, 1, 0, 5⟩ = none := by
  have hn : scanCmd.nsid = 1 := rfl
  have h1 : (StageD.num ⟨16, 0x82, 1, 0, 5⟩ scanCmd.params 0x18 4) = 0 := by decide +kernel
  have h2 : (StageD.num ⟨16, 0x82, 1, 0, 5⟩ scanCmd.params 0x28 8) = 0 := by decide +kernel
  have h3 : (StageD.num ⟨16, 0x82, 1, 0, 5⟩ scanCmd.params 0x20 8) = 1 := by decide +kernel
  simp [checkStageObj, hn, h1, h2, h3, hc, firstBad, coll5]

theorem scan_ok : checkQuery 0x82 scanCmd stocked = none :=
  checkQuery_of (d := ⟨16, 0x82, 1, 0, 5⟩) (by decide) (by decide +kernel) (by decide +kernel) (by decide +kernel) (by decide +kernel)
    (by decide +kernel) (by decide +kernel) rfl stocked_coll (by decide +kernel) (scan_objects stocked_coll) (by decide +kernel) (by decide +kernel)

theorem join_objects {s : State} (hc : s.coll? 1 5 = some coll5) : checkStageObj s joinCmd (some coll5.fields) none ⟨16, 0x93, 1, 0, 5⟩ = none := by
  have hn : joinCmd.nsid = 1 := rfl
  have h1 : (StageD.num ⟨16, 0x93, 1, 0, 5⟩ joinCmd.params 0x1B 1) = 0 := by decide +kernel
  have h2 : (StageD.num ⟨16, 0x93, 1, 0, 5⟩ joinCmd.params 0x14 4) = 0 := by decide +kernel
  have h3 : (StageD.num ⟨16, 0x93, 1, 0, 5⟩ joinCmd.params 0x10 2) = 0 := by decide +kernel
  have h4 : (StageD.num ⟨16, 0x93, 1, 0, 5⟩ joinCmd.params 0x12 2) = 0 := by decide +kernel
  have h5 : (StageD.num ⟨16, 0x93, 1, 0, 5⟩ joinCmd.params 0x1A 1) = 0 := by decide +kernel
  simp [checkStageObj, hn, h1, h2, h3, h4, h5, hc, firstBad, coll5, FieldD.isCode]

theorem join_dwords {s : State} : firstBad (stageDwords s joinCmd ⟨16, 0x93, 1, 0, 5⟩) = none := by
  have h1 : (StageD.num ⟨16, 0x93, 1, 0, 5⟩ joinCmd.params 0x1B 1) = 0 := by decide +kernel
  have h6 : inlenOf joinCmd = 0 := by decide +kernel
  simp [stageDwords, h1, h6, firstBad]

theorem join_ok : checkQuery 0x93 joinCmd stocked = none :=
  checkQuery_of (d := ⟨16, 0x93, 1, 0, 5⟩) (by decide) (by decide +kernel) (by decide +kernel) (by decide +kernel) (by decide +kernel)
    (by decide +kernel) (by decide +kernel) rfl stocked_coll join_dwords (join_objects stocked_coll) (by decide +kernel) (by decide +kernel)

theorem icCheck_of {c : Cmd} {s : State} {k : Coll} (h10 : c.cdw10 = 64) (hz : c.cdw11 = 0 ∧ c.cdw12 = 0 ∧ c.cdw13 = 0 ∧ c.cdw14 = 0 ∧ c.cdw15 = 0)
    (hc : s.colls c.nsid = [k])
    (hf : firstBad (icFields c s) = none) (hr : icReq c ≤ icFrames c)
    (hcat : catalogue (s.nsMem c.nsid) (s.lost c.nsid) = [(5, 1)]) (he : icFirst c + icFrames c ≤ s.nsFrames c.nsid ∧ 2 ≤ icFirst c)
    (hi : (s.idxOf c.nsid).all (fun i => !overlap (icFirst c) (icFrames c) i.first i.nframes) = true)
    (ho : overlap (icFirst c) (icFrames c) k.first k.nframes = false) : icCheck c s = none := by
  have e : icExtentOk c s = true := by
    simp only [icExtentOk, hcat, hi, hc, List.all_cons, List.all_nil, ho]
    simp only [Bool.and_true, Bool.not_false, Bool.and_eq_true, Bool.not_eq_true', decide_eq_true_eq, decide_eq_false_iff_not]
    omega
  obtain ⟨z1, z2, z3, z4, z5⟩ := hz
  simp only [icCheck, h10, z1, z2, z3, z4, z5, hf, e]
  simp [firstBad, Nat.not_lt.2 hr]

theorem create_fields {s : State} (hc : s.coll? createCmd.nsid (icNum createCmd 0x2C 4) = some coll5)
    (hi : (s.idxOf createCmd.nsid).any (fun i => i.id == icId createCmd) = false) (hl : (s.idxOf createCmd.nsid).length < 64)
    (hs : s.idx.length < 256) (hp : s.present (icNum createCmd 0x2A 1) = true) : firstBad (icFields createCmd s) = none := by
  simp only [icFields, hc, hi, hl, hs, hp]
  decide +kernel

theorem create_ok : icCheck createCmd stocked = none := by
  have hm : stocked.nsMem createCmd.nsid = collMem := stocked_mem
  have hl : stocked.lost createCmd.nsid = [] := by decide +kernel
  exact icCheck_of (k := coll5) (by decide) (by decide) stocked_colls
    (create_fields stocked_coll (by decide +kernel) (by decide +kernel) (by decide +kernel) (by decide +kernel)) (by decide +kernel)
    (by rw [hm, hl]; exact catalogue_collMem) (by decide +kernel) (by decide +kernel) (by decide +kernel)

theorem witness_QueryCommandsEnterJobQueues :
    (Takes stocked q1 k1 ∧ ∀ c ∈ [scanCmd, embedCmd, scoreCmd, searchCmd, joinCmd, insertCmd, jobCmd, recallCmd], c.sqid = q1.id ∧
      (stocked.part (partOf c)).resetting = false ∧ (stocked.part (partOf c)).idle = false) ∧
    (checkQuery 0x82 scanCmd stocked = none ∧ checkQuery 0x87 embedCmd stocked = none ∧ checkQuery 0x8A scoreCmd stocked = none ∧
      checkQuery 0x8F searchCmd stocked = none ∧ checkQuery 0x93 joinCmd stocked = none ∧ checkQuery 0x95 insertCmd stocked = none ∧
      checkQuery 0xA7 jobCmd stocked = none ∧ checkQuery 0xB2 recallCmd stocked = none) ∧
    (checkQuery 0x82 { scanCmd with cdw2 := 1 } stocked = some (.dword 2) ∧ checkQuery 0x8F { searchCmd with cdw15 := 1 } stocked = some (.dword 15)) :=
  ⟨by and_intros <;> decide +kernel, ⟨scan_ok, embed_ok, score_ok, search_ok, join_ok, insert_ok, jobRun_ok, recall_ok⟩, by decide +kernel, by decide +kernel⟩

def fetchCmd (handle off : Nat) : Cmd := { cm 0 0 1 handle off with sqid := 1, nsid := 1 }

theorem witness_ResultSetsAreFetchedAndReleased :
    Takes stocked q1 k1 ∧ (fetchCmd 6 0).sqid = q1.id ∧
    (checkQuery 0xAA (fetchCmd 6 0) stocked = none ∧ checkQuery 0xAA (fetchCmd 9 0) stocked = none ∧ stocked.resultSet? 1 6 = some resultSet ∧
      stocked.resultSet? 1 9 = none ∧ 0 < { resultSet with first := 4096 }.first) ∧
    ((fetchCmd 6 0).ok = true ∧ resultSet.first ≤ 0 ∧ ∀ x ∈ stocked.res.sets, x.released = false ∧ x.users = []) ∧
    (let c := { cm 0 0 0 6 with sqid := 1, nsid := 1 }; checkQuery 0xAC c stocked = none ∧ bits c.cdw13.toNat 15 0 = 6) := by
  and_intros <;> decide +kernel

def ofIndex (i x : Nat) : Cmd := { cm 0 0 0 i x with sqid := 1, nsid := 1 }

def pend (taken : Nat) : Pend := ⟨false, 3, 0, [], [], 1, 5, 0, true, taken⟩

/-- The sled, with an entry in the pending log of its index. -/
def logged : State := stocked.modIdx (·.map fun i => { i with pend := [pend 0] })

def index11 : Index := { index with id := 11, first := 20, centroids := [zeros 8, zeros 8] }

theorem witness_IndexCommandsChangeIndexes_1 :
    Takes stocked q1 k1 ∧ (let c := { ofIndex 11 0 with cdw11 := 16, data := zeros 16 }; checkQuery 0x99 c stocked = none ∧ deleteIds c = [0, 0]) ∧
    (stocked.index? 1 11 = some index11 ∧ checkQuery 0x9C (ofIndex 11 0) stocked = none ∧
      (takenBy stocked.nvm.orders (markTaken stocked.nvm.orders [] index11.pend)).1 = []) ∧
    (Takes logged q1 k1 ∧ checkQuery 0x9C (ofIndex 11 0) logged = none ∧ logged.index? 1 11 = some { index11 with pend := [pend 0] } ∧
      (takenBy logged.nvm.orders (markTaken logged.nvm.orders [] [pend 0])).1 ≠ [] ∧ index11.work = .none ∧
      (logged.part index11.part).resetting = false ∧ (logged.part index11.part).idle = false ∧
      ∀ i ∈ logged.idx, i.nsid = 1 → i.id = 11 → i = { index11 with pend := [pend 0] }) ∧
    (∀ n ∈ [1, 2], checkQuery 0xA0 (ofIndex 11 n) stocked = none ∧ (ofIndex 11 n).cdw14.toNat = n) ∧ index11.nplots = 2 ∧
    ((stocked.part (partOf (ofIndex 11 1))).resetting = false ∧ (stocked.part (partOf (ofIndex 11 1))).idle = false) := by
  and_intros <;> decide +kernel

theorem witness_IndexCommandsChangeIndexes_2 :
    (AdminTurn stocked q0 k0 createCmd ∧ (stocked.ns? createCmd.nsid).isSome ∧ stocked.media.readOnly = false ∧
      (stocked.part (icNum createCmd 0x2A 1)).resetting = false ∧ (stocked.part (icNum createCmd 0x2A 1)).idle = false) ∧
    icCheck createCmd stocked = none ∧
    (let c := { cm 11 with nsid := 1 }; AdminTurn stocked q0 k0 c ∧ (stocked.ns? c.nsid).isSome ∧
      stocked.idx.filter (fun i => i.nsid == c.nsid && i.id == c.cdw10.toNat) = [index11] ∧ (∀ i ∈ stocked.idx, i.dropping = none)) ∧
    (let c := { cm 12 with nsid := 1 }; AdminTurn stocked q0 k0 c ∧
      ∀ i ∈ stocked.idx, i.dropping = none ∧ ¬(i.nsid = c.nsid ∧ i.id = c.cdw10.toNat)) ∧
    (∀ p ∈ [(1, 1), (0, 1)], let c := { cm 11 with nsid := 1, cdw2 := BitVec.ofNat 32 p.1, cdw3 := BitVec.ofNat 32 p.2 }; AdminTurn stocked q0 k0 c ∧
      (c.cdw2 ≠ 0 ∨ c.cdw2 = 0 ∧ c.cdw3 ≠ 0)) :=
  ⟨⟨admin_of (by decide +kernel) rfl, by and_intros <;> decide +kernel⟩, create_ok,
    ⟨admin_of (by decide +kernel) rfl, by and_intros <;> decide +kernel⟩, ⟨admin_of (by decide +kernel) rfl, by decide +kernel⟩,
    fun p h => ⟨admin_of (s := stocked) (by decide +kernel : Takes stocked q0 k0) rfl, by revert p; decide⟩⟩

/-- A command in flight on the index, whose new epoch may be made. -/
def indexing (work : IdxWork) (next : Option (List Plot × List DirE)) : State :=
  { flying ready with idx := [{ index with id := 11, work := work, next := next }] }

/-- An index whose version log has no frame, and a change that needs one; the same changes without an image to keep. -/
theorem witness_NewEpochCompletesItsCommand_2 :
    ∀ w ∈ [IdxWork.publish 1 7 0 false, .compact 1 7 1 2 3],
      let ix := { index with id := 11, work := w, next := some ([], []), maxItems := 0, nframes := 0, bound := [(1, (1, 9))]
                             plots := [⟨[⟨true, false, 5, 1, 0, 1, false, [], [], []⟩], none, 0, [0], [], [0], []⟩] }
      let s := { flying ready with idx := [ix] }
      Carries s q1 k1 flight ∧ s.idx.filter (fun i => i.nsid == 1 && i.id == 11) = [ix] ∧ ix.roomFor [] = false ∧ flight.phase = .job ∧
        (indexing w (some ([], []))).idx.all (fun i => i.roomFor []) = true := by decide +kernel

theorem witness_NewEpochCompletesItsCommand :
    (∀ w ∈ [IdxWork.publish 1 7 0 false, .compact 1 7 1 2 3], Carries (indexing w (some ([], []))) q1 k1 flight ∧
      (indexing w (some ([], []))).idx.filter (fun i => i.nsid == 1 && i.id == 11) =
        [{ index with id := 11, work := w, next := some ([], []) }]) ∧
    (let f := { flight with sqid := 0, opc := 0xED }; let s := { indexing (.training 0 7) (some ([], [])) with nvm := { ready.nvm with flights := [f] } };
      Carries s q0 k0 f ∧ s.idx.filter (fun i => i.nsid == 1 && i.id == 11) =
        [{ index with id := 11, work := .training q0.id f.cid, next := some ([], []) }]) ∧
    (Carries (indexing (.publish 1 7 0 false) none) q1 k1 flight ∧ flight.phase = .job) := by and_intros <;> decide +kernel

theorem witness_CidConflictLeavesEarlierCommand :
    (Carries (flying ready) q1 k1 flight ∧ (flying ready).fetching = true ∧ flight.opc ≠ 0xF0 ∧ flight.opc ≠ 0x01 ∧ 1 < q1.size ∧ q1.prio ≤ 3 ∧
      q1.id ≠ 0 ∧ { cm 0 with sqid := 1 }.sqid = q1.id ∧ (cm 0).cid = flight.cid) ∧
    (let f := { flight with opc := 0x01, phase := .executing }
     let s := { ready with nvm := { ready.nvm with flights := [f] }, media := { ready.media with wb := [⟨1, 44, 3, false, 1, 7, []⟩] }
                           cis := { ready.cis with allow := 0 } };
      Carries s q1 k1 f ∧ s.fetching = true ∧ (∃ w ∈ s.media.wb, w.posted = false ∧ w.sqid = f.sqid ∧ w.cid = f.cid) ∧
      s.cis.allow * 2 ^ 30 < s.held + 4096) := by and_intros <;> decide +kernel

/-- A sled with a namespace of 1,024 blocks, of which block 1,000 is lost and frame 20 on is an index's. -/
def blocks : State :=
  { ready with
    nss := [ns 1 1024 true]
    idx := [{ index with id := 11, first := 60, nframes := 2 }]
    cis := { ready.cis with allow := 1 }
    media := { ready.media with map := [⟨1, 1000, true, l0⟩], wb := [⟨1, 44, 3, true, 1, 1, []⟩] } }

def rw (a n : Nat) (prp : Bool := true) : Cmd :=
  { cm a 0 (n - 1) with sqid := 1, nsid := 1, flags := if prp then 0 else 0x40, bufLen := 4096 * n }

theorem witness_BlockCommandsReadAndChangeBlocks_1 :
    Takes blocks q1 k1 ∧ (rw 0 1).sqid = q1.id ∧ blocks.ns? 1 = some (ns 1 1024 true) ∧
    (∀ c ∈ [rw 0 512, rw 512 488 false], bits c.flags.toNat 1 0 = 0 ∧ (psdtOf c = 0 ∨ psdtOf c = 1 ∧ (c.cdw12.toNat % 65536 + 1) * 4096 ≤ c.bufLen) ∧
      c.cdw12.toNat % 65536 + 1 ≤ 512 ∧ c.cdw10.toNat + (c.cdw12.toNat % 65536 + 1) ≤ 1024) ∧
    ((∀ l ∈ blocks.lost 1, ¬(512 ≤ l ∧ l < 512 + 488)) ∧ ∃ l ∈ blocks.lost 1, 1000 ≤ l ∧ l < 1000 + 24) ∧
    (blocks.media.readOnly = false ∧ blocks.hitsExtent 1 0 512 = false ∧ blocks.hitsExtent 1 959 2 = true) ∧
    (let held := blocks.held - 4096 * (blocks.media.wb.filter fun w => w.posted && w.nsid == 1 && decide (0 ≤ w.lba ∧ w.lba < 0 + 512)).length +
        512 * 4096; held ≤ blocks.cis.allow * 2 ^ 30 ∧ 0 < held) ∧
    (let s := { blocks with cis := ready.cis }; Takes s q1 k1 ∧ s.cis.allow = 0) ∧
    (let s := { blocks with media := { blocks.media with readOnly := true } }; Takes s q1 k1 ∧ s.ns? 1 = some (ns 1 1024 true)) ∧
    (1024 < 1024 + 1 ∧ blocks.ns? 2 = none ∧ (blocks.ns? 1).isSome) := by and_intros <;> decide +kernel

theorem witness_BlockCommandsReadAndChangeBlocks_2 :
    (∀ d ∈ [0, 4], let c := { rw 0 1 with cdw10 := 0, cdw11 := BitVec.ofNat 32 d, data := zeros 4 ++ leBytes 4 24 ++ leBytes 8 1000 };
      dsmRanges c = [(1000, 24)] ∧ (∀ r ∈ dsmRanges c, r.1 + r.2 ≤ 1024) ∧ bit c.cdw11.toNat 2 = (d == 4) ∧
      blocks.hitsExtent 1 1000 24 = false ∧ psdtOf c = 0) := by decide +kernel

/-- A sled that changes to a power state. -/
def entering (ps : Nat) : State :=
  { ready with
    mgmt := { ready.mgmt with entry := some (ps, 0, 7) }
    nvm := { ready.nvm with flights := [{ flight with sqid := 0, opc := 0x09, phase := .executing }] } }

theorem witness_PowerStateChangesFollowSetFeatures :
    (∀ n ∈ [0, 2, 3, 4, 5, 31], AdminTurn ready q0 k0 (cm 0 n) ∧ bits (cm 0 n).cdw11.toNat 4 0 = n ∧ bit (cm 0 n).cdw10.toNat 31 = false) ∧
    (∀ ps ∈ [0, 3, 4], Carries (entering ps) q0 k0 { flight with sqid := 0, opc := 0x09, phase := .executing } ∧
      (entering ps).mgmt.entry = some (ps, 0, flight.cid) ∧ (entering ps).mgmt.exiting = false ∧
      (∀ p < 8, ((entering ps).part p).run = none ∧ ((entering ps).part p).batch = none ∧ ((entering ps).part p).resetting = false ∧
        ((entering ps).part p).sel = none ∧ ∀ l ∈ ((entering ps).part p).queues, l = []) ∧
      (entering ps).lnk.peers = [] ∧ (entering ps).lnk.flows = []) ∧
    (let s := { ready with mgmt := { ready.mgmt with ps := 3, exiting := true } };
      Quiet s ∧ s.mgmt.exiting = true ∧ s.awake = true ∧ s.mgmt.ps = 3 ∧ s.lnk.held = []) := by
  refine ⟨fun n h => ⟨admin_ready _ rfl, ?_⟩, by decide +kernel, by decide +kernel⟩
  revert n; decide +kernel

/-- Queue 1 and queue 1,024; queues of 2 and of 4,096 entries. -/
theorem witness_IoQueuesAreCreatedAndDeleted :
    (∀ c, c.flags = 0 → AdminTurn ready q0 k0 c) ∧ (AdminTurn { ready with nvm := { ready.nvm with sqs := [q0] } } q0 k0 (cm 1)) ∧
    (∀ c ∈ [cm (2 + 1 * 65536) 3, cm (1024 + 4095 * 65536) (1 + 1024 * 65536)], 2 ≤ c.cdw10.toNat % 65536 ∧ c.cdw10.toNat % 65536 ≤ 1024 ∧
      (∀ x ∈ ready.nvm.cqs, x.id ≠ c.cdw10.toNat % 65536) ∧ (∀ x ∈ ready.nvm.sqs, x.id ≠ c.cdw10.toNat % 65536) ∧
      2 ≤ c.cdw10.toNat / 65536 + 1 ∧ c.cdw10.toNat / 65536 + 1 ≤ 4096 ∧ bit c.cdw11.toNat 0 = true ∧ c.cdw11.toNat / 65536 ≤ 1024) ∧
    (let c := cm (2 + 1 * 65536) (7 + 65536); bit c.cdw11.toNat 0 = true ∧ c.cdw11.toNat / 65536 ≠ 0 ∧
      ∃ x ∈ ready.nvm.cqs, x.id = c.cdw11.toNat / 65536) ∧
    ((cm 0).cdw10.toNat % 65536 = 0 ∧ 1024 < (cm 1025).cdw10.toNat % 65536) ∧
    ((cm 2).cdw10.toNat / 65536 + 1 < 2 ∧ 4096 < (cm (2 + 4096 * 65536)).cdw10.toNat / 65536 + 1) ∧
    ((cm 1).cdw10.toNat % 65536 ≠ 0 ∧ (∃ x ∈ ready.nvm.cqs, x.id = 1) ∧ (∃ x ∈ ready.nvm.sqs, x.cqid = 1) ∧ (∃ x ∈ ready.nvm.sqs, x.id = 1) ∧
      ∀ x ∈ [q0], x.cqid ≠ 1) := by
  refine ⟨admin_ready, admin_of (by decide +kernel) rfl, ?_⟩
  and_intros <;> decide +kernel

theorem witness_AbortAndEventRequestsAnswer :
    (AdminTurn ready q0 k0 (cm 0) ∧ ∀ e ∈ ready.nvm.events, e.page ∈ ready.nvm.masked) ∧
    (let s := { ready with nvm := { ready.nvm with events := [⟨7, 1, 0xC1⟩, ⟨2, 0, 2⟩], masked := [0xC1] } };
      AdminTurn s q0 k0 (cm 0) ∧ s.nvm.events.find? (fun e => !s.nvm.masked.contains e.page) = some ⟨2, 0, 2⟩) ∧
    (let s := { ready with nvm := { ready.nvm with events := [⟨2, 0, 4⟩] } };
      AdminTurn s q0 k0 (cm 0) ∧ s.nvm.events.find? (fun e => !s.nvm.masked.contains e.page) = some ⟨2, 0, 4⟩) :=
  ⟨⟨admin_ready _ rfl, by decide +kernel⟩, ⟨admin_of (by decide +kernel) rfl, by decide +kernel⟩, admin_of (by decide +kernel) rfl, by decide +kernel⟩

/-- Every slice of the segments 1 to 9. -/
def allSlices : List Nat := (List.range 10).flatMap fun j => (List.range (ready.segUnits j)).map fun v => j * 4096 + v

theorem mem_allSlices {j v : Nat} (hj : j ≤ 9) (hv : v < ready.segUnits j) : j * 4096 + v ∈ allSlices := by
  simp only [allSlices, List.mem_flatMap, List.mem_range, List.mem_map]
  exact ⟨j, by omega, v, hv, rfl⟩

theorem lastSegment_le (code : Nat) : lastSegment code ≤ 9 := by unfold lastSegment; split <;> decide

/-- A self-test that runs. -/
def tested (t : SelfTest) : State := { ready with mgmt := { ready.mgmt with test := some t } }

theorem witness_SelfTestsRunAndEnd :
    (AdminTurn ready q0 k0 (cm 0) ∧ ready.mgmt.test = none) ∧
    (AdminTurn (tested ⟨2, [], false, 0⟩) q0 k0 (cm 0) ∧ (tested ⟨2, [], false, 0⟩).mgmt.test = some ⟨2, [], false, 0⟩) ∧
    (1 ≤ lastSegment 1 ∧ 0 < (tested ⟨1, [], false, 0⟩).segUnits 1 ∧ (∀ v < ready.variant.clusters, ready.clusterIdle v = true) ∧
      ∃ j v, 1 ≤ j ∧ j ≤ lastSegment 1 ∧ v < (tested ⟨1, [], false, 0⟩).segUnits j ∧ j * 4096 + v ∉ [] ++ [1 * 4096 + 0]) ∧
    (∀ code ∈ [1, 2], ∃ unit < ready.segUnits (lastSegment code), 1 ≤ lastSegment code ∧
      (∀ j v, 1 ≤ j → j ≤ lastSegment code → v < ready.segUnits j → j * 4096 + v ∈ allSlices ++ [lastSegment code * 4096 + unit]) ∧
      ∀ j < lastSegment code, 1 ≤ j → ∀ v < ready.segUnits j, j * 4096 + v ∈ allSlices) := by
  refine ⟨⟨admin_ready _ rfl, rfl⟩, ⟨admin_of (by decide +kernel) rfl, rfl⟩, ⟨by decide, by decide +kernel, by decide +kernel, 2, 0,
    by decide, by decide, by decide +kernel, by decide⟩, fun code h => ⟨0, ?_, ?_, fun j v _ hj hv => ?_, fun j hj _ v hv => ?_⟩⟩
  · revert code; decide +kernel
  · revert code; decide
  · exact List.mem_append_left _ (mem_allSlices (Nat.le_trans hj (lastSegment_le code)) hv)
  · exact mem_allSlices (Nat.le_trans (Nat.le_of_lt hj) (lastSegment_le code)) hv

/-- Slices that no test can take: before segment 1, beyond a segment, out of turn, and with no test. -/
theorem witness_SelfTestsRunAndEnd_2 :
    (∀ p ∈ [(0, 0), (1, 4096), (2, 0)], (tested ⟨2, [], false, 0⟩).sliceRuns p.1 p.2 = false) ∧ ready.sliceRuns 1 0 = false ∧
    ready.media.hist.length = 9 ∧ 31 < ready.clus.length := by and_intros <;> decide +kernel

/-- A sled that holds pieces of a firmware image. -/
def loaded (fw : List (Nat × List Byte)) : State := { ready with mgmt := { ready.mgmt with fw := fw } }

theorem witness_FirmwareIsDownloadedAndCommitted :
    (AdminTurn ready q0 k0 (cm 0) ∧ ready.stagedImage = none) ∧
    (AdminTurn (loaded [(0, zeros 1024)]) q0 k0 (cm 0) ∧ (loaded [(0, zeros 1024)]).stagedImage = some (zeros 1024) ∧
      firmwareCheck (slice (zeros 1024)) (loaded [(0, zeros 1024)]).sec = some 1) ∧
    (∀ c ∈ [cm 1023 1024, cm 1023 (2 ^ 24 - 1024)], ((c.cdw10.toNat + 1) * 4) % 4096 = 0 ∧ (c.cdw11.toNat * 4) % 4096 = 0 ∧
      c.cdw11.toNat * 4 + (c.cdw10.toNat + 1) * 4 ≤ 2 ^ 26 ∧
      ∀ p ∈ (loaded [(0, zeros 1024)]).mgmt.fw, c.cdw11.toNat * 4 + (c.cdw10.toNat + 1) * 4 ≤ p.1 ∨ p.1 + p.2.length ≤ c.cdw11.toNat * 4) ∧
    (∃ p ∈ (loaded [(0, zeros 1024)]).mgmt.fw, p.1 < (cm 1023).cdw11.toNat * 4 + ((cm 1023).cdw10.toNat + 1) * 4 ∧
      (cm 1023).cdw11.toNat * 4 < p.1 + p.2.length) ∧
    (((cm 0).cdw10.toNat + 1) * 4 % 4096 ≠ 0 ∧ (cm 0 1).cdw11.toNat * 4 % 4096 ≠ 0 ∧
      2 ^ 26 < (cm 1023 (2 ^ 24)).cdw11.toNat * 4 + ((cm 1023).cdw10.toNat + 1) * 4) ∧
    (1 < bits (cm 2).cdw10.toNat 2 0 ∧ bits (cm 0x11).cdw10.toNat 2 0 ≤ 1 ∧ bits (cm 0x11).cdw10.toNat 5 3 = 2 ∧
      ∀ a ∈ [0, 1, 3, 7], bits (cm (8 * a + 1)).cdw10.toNat 2 0 ≤ 1 ∧ bits (cm (8 * a)).cdw10.toNat 5 3 = a) := by
  refine ⟨⟨admin_ready _ rfl, by decide +kernel⟩, ⟨admin_of (by decide +kernel) rfl, by decide +kernel, by decide +kernel⟩, ?_⟩
  and_intros <;> decide +kernel

theorem witness_SanitizeAndFormatDestroy :
    (∀ n ∈ [1, 2, 128], let c := { cm 0x400 with nsid := n }; AdminTurn two q0 k0 c ∧ c.nsid ≠ 0xFFFFFFFF ∧
      ∃ m, two.nss.filter (fun x => x.id == c.nsid) = [m]) ∧
    (∀ ses ∈ [0, 1, 2], ∀ r ∈ [0, 2 ^ 14], let c := cm (512 * ses + r); bits c.cdw10.toNat 11 9 = ses ∧ bits c.cdw10.toNat 8 0 = 0 ∧
      bits c.cdw10.toNat 13 12 = 0) ∧
    (let c := { cm 1 with nsid := 1 }; AdminTurn two q0 k0 c ∧ (∃ n ∈ two.nss, n.id = c.nsid) ∧ c.nsid ≠ 0xFFFFFFFF ∧ bits c.cdw10.toNat 3 0 ≠ 0) ∧
    (∃ a, { ready.mgmt with sanitize := some 4 }.sanitize = some a) := by
  refine ⟨fun n h => ⟨admin_two _ rfl, ?_, ?_⟩, by decide +kernel, ⟨admin_two _ rfl, by decide +kernel⟩, 4, rfl⟩
  · revert n; decide
  · simp only [List.mem_cons, List.not_mem_nil, or_false] at h
    rcases h with rfl | rfl | rfl <;> exact ⟨_, rfl⟩

def nsData (size cap : Nat) : Cmd := { cm 0 with data := leBytes 8 size ++ leBytes 8 cap ++ zeros 48 }

theorem witness_NamespacesAreCreatedAndEnded :
    (∀ n ∈ [1, two.variant.exportedBlocks - 2056, two.variant.exportedBlocks - 2055],
      let d := (nsData n n).data; field d 26 1 = 0 ∧ field d 29 1 = 0 ∧ field d 0 8 ≠ 0 ∧ field d 8 8 = field d 0 8) ∧
    (sumOf (two.nss.map (·.size)) + (two.variant.exportedBlocks - 2056) ≤ two.variant.exportedBlocks ∧
      two.variant.exportedBlocks < sumOf (two.nss.map (·.size)) + (two.variant.exportedBlocks - 2055)) ∧
    ((∀ n ∈ two.nss, n.id ≠ 2 + 1) ∧ ∀ j < 2, ∃ n ∈ two.nss, n.id = j + 1) ∧ field (nsData 8 9).data 8 8 ≠ field (nsData 8 9).data 0 8 ∧
    (∀ n ∈ [1, 2], let c := { cm 0 with nsid := n, data := [1, 0, 1, 0] }; AdminTurn two q0 k0 c ∧ c.nsid ≠ 0xFFFFFFFF ∧
      two.nss.filter (fun x => x.id == c.nsid) = [ns n 1024 (n == 1)] ∧ field c.data 0 2 = 1 ∧ field c.data 2 2 = 1) ∧
    (let c := { cm 0 with nsid := 2, data := [2, 0, 1, 0] }; AdminTurn two q0 k0 c ∧ ¬(field c.data 0 2 = 1 ∧ field c.data 2 2 = 1)) := by
  refine ⟨by decide +kernel, by decide +kernel, by decide +kernel, by decide +kernel, fun n h => ⟨admin_two _ rfl, ?_⟩,
    admin_two _ rfl, by decide +kernel⟩
  revert n; decide +kernel

/-- The pages that the bus reads and those beside them; a register of the RAS block. -/
theorem witness_ManagementBusReportsHealth :
    (ready.answers = true ∧ AdminTurn ready q0 k0 (cm 0 1)) ∧
    (∀ n ∈ [0xC2, 0xC3], bits (cm n).cdw10.toNat 7 0 ∈ [0xC2, 0xC3] ∧ ((cm n).cdw12.toNat + (cm n).cdw13.toNat * 2 ^ 32) % 4 = 0 ∧
      ∃ b, logPage (bits (cm n).cdw10.toNat 7 0) ready = some b ∧ (cm n).cdw12.toNat + (cm n).cdw13.toNat * 2 ^ 32 < b.length) ∧
    (∀ n ∈ [0x02, 0xC1, 0xC4], bits (cm n).cdw10.toNat 7 0 ∉ [0xC2, 0xC3]) ∧
    (let c := cm 0x80000 1; blockOf c.cdw10.toNat = some (.ras, 0) ∧ regCheck c ready = none ∧ bits c.cdw11.toNat 10 0 = 1) ∧
    (bits (cm 0 1).cdw11.toNat 7 0 = 1 ∧ bits (cm 0 2).cdw11.toNat 7 0 ≠ 1) := by
  refine ⟨⟨by decide +kernel, admin_ready _ rfl⟩, fun n h => ?_, by decide +kernel, by decide +kernel, by decide +kernel⟩
  simp only [List.mem_cons, List.not_mem_nil, or_false] at h
  rcases h with rfl | rfl <;> exact ⟨by decide +kernel, by decide +kernel, some_of (by decide +kernel)⟩

theorem witness_RegisterCommandsAccessRegisters :
    (∀ c, c.flags = 0 → AdminTurn ready q0 k0 c) ∧
    (({ cm 0 with cdw2 := 1, cdw3 := 1 }.cdw2 ≠ 0) ∧ { cm 0 with cdw3 := 1 }.cdw2 = 0 ∧ { cm 0 with cdw3 := 1 }.cdw3 ≠ 0) ∧
    (regCheck (cm 0x0C 1) ready = none ∧ bits (cm 0x0C 1).cdw11.toNat 10 0 = 1 ∧ (cm 0x0C 1).cdw10 = 0x0C) ∧
    ((cm 0x0E 1).cdw10.toNat % 4 ≠ 0 ∧ 0x4000000 ≤ (cm 0x4000000 1).cdw10.toNat) ∧
    (∀ n ∈ [0, 1025, 2047], (cm 0x3FFFFFC n).cdw10.toNat % 4 = 0 ∧ (cm 0x3FFFFFC n).cdw10.toNat < 0x4000000 ∧
      (bits (cm 0x3FFFFFC n).cdw11.toNat 10 0 = 0 ∨ 1024 < bits (cm 0x3FFFFFC n).cdw11.toNat 10 0)) := by
  refine ⟨admin_ready, by decide, by decide +kernel, by decide +kernel, by decide +kernel⟩

theorem certChain_pos : 0 < certChain.length := by
  simp [certChain, zeros] <;> omega

/-- Buffers of nothing, at the lengths of a quote and an owner record, and of 64 KiB; the device's certificates are the maker's. -/
theorem witness_AttestGivesCertificatesQuoteAndOwner :
    (∀ n ∈ [0, 271, 272, 639, 640, 65536], ∀ k ∈ [0, 15], let c := cm k n; AdminTurn ready q0 k0 c ∧ c.cdw10.toNat < 16 ∧ c.cdw11.toNat ≤ 65536 ∧
      c.cdw11.toNat = n ∧ c.cdw12 = 0 ∧ c.cdw13 = 0 ∧ c.cdw14 = 0 ∧ c.cdw15 = 0) ∧
    (cm 1 0).cdw11.toNat < certChain.length ∧
    (certChain.length ≤ 65536 → certChain.length ≤ (cm 1 65536).cdw11.toNat) := by
  refine ⟨fun n hn k hk => ⟨admin_ready _ rfl, ?_⟩, certChain_pos, fun h => h⟩
  revert n k; decide +kernel

def item (it index v : Nat) : List Byte := leBytes 2 it ++ leBytes 2 index ++ leBytes 4 8 ++ leBytes 8 v

def staged (img : Conf) : State := { ready with cfg := { ready.cfg with image := some img, stageId := 5, lastId := 0xFFFFFFFF } }

/-- A configuration whose cluster 2 is of partitions 0 and 1. -/
def badConf : Conf := { ready.cfg.conf with clusters := [4, 4, 0, 0, 0, 0, 0, 0] }

theorem admin_staged (img : Conf) (c : Cmd) (h : c.flags = 0) : AdminTurn (staged img) q0 k0 c :=
  admin_of (s := staged img) (by decide +kernel : Takes ready q0 k0) h

theorem witness_ConfigurationIsStagedCheckedAndDiscarded :
    ((∀ c, c.flags = 0 → AdminTurn ready q0 k0 c) ∧ ready.cfg.image = none ∧
      ∀ img c, c.flags = 0 → AdminTurn (staged img) q0 k0 c ∧ (staged img).cfg.image = some img) ∧
    (∀ n ∈ [8, 65536], ∀ w ∈ [0, 1], let c := cm n w; c.cdw12 = 0 ∧ c.cdw13 = 0 ∧ c.cdw14 = 0 ∧ c.cdw15 = 0 ∧ c.cdw11.toNat < 2 ∧
      8 ≤ c.cdw10.toNat ∧ c.cdw10.toNat ≤ 65536 ∧ c.cdw10.toNat % 8 = 0) ∧
    ((applyItems 2 0 (item 1 0 3) ready.cfg.conf).toOption.isSome = true ∧ (applyItems 1 0 (zeros 8) ready.cfg.conf).toOption = none) ∧
    (checkImage (staged ready.cfg.conf) ready.cfg.conf = [] ∧ checkImage (staged badConf) badConf ≠ []) ∧
    ((cm 0).cdw10 = 0 ∧ (cm 0).cdw11 = 0 ∧ (cm 0).cdw12 = 0 ∧ (cm 0).cdw13 = 0 ∧ (cm 0).cdw14 = 0 ∧ (cm 0).cdw15 = 0) ∧
    ((cm 5 65535).cdw11.toNat < 65536 ∧ (cm 5).cdw10.toNat = (staged badConf).cfg.stageId ∧ (cm 4).cdw10.toNat ≠ (staged badConf).cfg.stageId ∧
      ∀ p < 8, ((staged ready.cfg.conf).part p).sel = none) := by
  refine ⟨⟨admin_ready, rfl, fun img c h => ⟨admin_staged img c h, rfl⟩⟩, ?_⟩
  and_intros <;> decide +kernel

theorem witness_DiscardEndsStagingImage :
    AdminTurn (staged badConf) q0 k0 (cm 0) ∧ (cm 0).cdw10 = 0 ∧ (cm 0).cdw11 = 0 ∧ (cm 0).cdw12 = 0 ∧ (cm 0).cdw13 = 0 ∧ (cm 0).cdw14 = 0 ∧
    (cm 0).cdw15 = 0 := ⟨admin_staged _ _ rfl, by decide⟩

/-- A commit under way, its partition 0 with a job or without. -/
def committing (img : Conf) (ph : CommitPhase) (busy : Bool) : State :=
  { ready with
    cfg := { ready.cfg with image := some img, stageId := 5, commit := some ⟨0, 7, ph, [0], 9⟩ }
    parts := if busy then ready.parts.modify 0 fun x => { x with run := some run0 } else ready.parts
    nvm := { ready.nvm with flights := [{ flight with sqid := 0, opc := 0xC8, phase := .executing }] } }

theorem witness_CommitsTakeEffectAtFrameMarker :
    (∀ img ∈ [badConf, ready.cfg.conf], ∀ ph ∈ [CommitPhase.draining, .recording], ∀ busy ∈ [true, false],
      let s := committing img ph busy; Carries s q0 k0 { flight with sqid := 0, opc := 0xC8, phase := .executing } ∧
      s.cfg.commit = some ⟨0, 7, ph, [0], 9⟩ ∧ s.cfg.image = some img ∧ s.drainEnded ⟨0, 7, ph, [0], 9⟩ = !busy ∧
      (checkImage s img = [] ↔ img = ready.cfg.conf)) ∧
    (let r := committing ready.cfg.conf .durable false; let s := { r with cad := { r.cad with src := 2, pidx := 15 } };
      Carries s q0 k0 { flight with sqid := 0, opc := 0xC8, phase := .executing } ∧ s.cfg.commit = some ⟨0, 7, .durable, [0], 9⟩ ∧
      s.powered = true ∧ s.cad.src = 2 ∧ 15 ≤ s.cad.pidx ∧ s.nvm.aers = [] ∧ (∀ x ∈ s.parts, ∀ l ∈ x.queues, l = []) ∧ s.pwr.pendingPs = none) := by
  and_intros <;> decide +kernel

def imageBytes : List Byte :=
  leBytes 4 0x474D494B ++ [1, 1] ++ zeros 746 ++ leBytes 4 0x4D47534B ++ zeros 12

def withObj (o : Stored) : State := { ready with store := { ready.store with objs := [o] } }

def installCmd (f len n : Nat) : Cmd := cm 9 0 n f len

theorem witness_StoreHoldsModelsAndPrograms :
    ((∀ c, c.flags = 0 → AdminTurn ready q0 k0 c) ∧ ∀ o c, c.flags = 0 → AdminTurn (withObj o) q0 k0 c) ∧
    (∀ f ∈ [1, 5], ∀ n ∈ [1, 512], let c := installCmd f n n; c.cdw15 = 0 ∧ c.cdw10.toNat ≠ 0 ∧ 1 ≤ c.cdw12.toNat ∧ c.cdw12.toNat ≤ 512 ∧
      c.cdw13.toNat = f ∧ c.cdw14 ≠ 0 ∧ c.cdw11.toNat * 4096 + c.cdw12.toNat * 4096 ≤ c.cdw14.toNat * 4096) ∧
    ((∀ o, ready.stored? 9 = some o → o.model = true) ∧ ready.media.readOnly = false ∧
      (ready.store.staged.filter fun x => x.id != 9).length < 4 ∧ (∀ f ∈ [0, 6], (installCmd f 1 1).cdw13.toNat ∈ [0, 2, 4, 6]) ∧
      ready.store.staged.find? (fun x => x.id == 9) = none) ∧
    (let c := { cm 9 768 with data := imageBytes }; c.cdw11.toNat = 768 ∧ c.cdw12 = 0 ∧ c.cdw13 = 0 ∧ c.cdw14 = 0 ∧ c.cdw10.toNat ≠ 0 ∧
      (∀ o, ready.stored? 9 = some o → o.model = false) ∧ storeFull ready 9 768 = false ∧ programForm (slice c.data 0 768) = true ∧
      signatureOk ready.sec (slice c.data 0 768) = true ∧
      signatureOk { ready.sec with owner := some (zeros 57), signreq := true } (slice c.data 0 768) = false) ∧
    (let o : Stored := ⟨9, true, zeros 8, false⟩; (withObj o).stored? (cm 9).cdw10.toNat = some o ∧ (withObj o).hot? 9 = none ∧
      (withObj o).stored? (cm 8).cdw10.toNat = none ∧ (cm 9).cdw11 = 0 ∧ (cm 9).cdw12 = 0 ∧ (cm 9).cdw13 = 0 ∧ (cm 9).cdw14 = 0) := by
  refine ⟨⟨admin_ready, fun o c h => admin_of (s := withObj o) (by decide +kernel : Takes ready q0 k0) h⟩, ?_⟩
  and_intros <;> first | decide +kernel | (intro o h; cases h)

/-- A test of the Cistern that runs. -/
def cisTested : State := { ready with cis := { ready.cis with test := some ⟨some 1, [], [], [], true, false⟩ } }

theorem witness_LedgerClearAndCisternTestRun :
    ((∀ c, c.flags = 0 → AdminTurn ready q0 k0 c) ∧ AdminTurn cisTested q0 k0 (cm 511)) ∧
    ((cm 1).cdw10.toNat < 2 ∧ 2 ≤ (cm 2).cdw10.toNat ∧ 512 ≤ (cm 512).cdw10.toNat ∧ (cm 511).cdw10.toNat < 512 ∧ cisTested.cis.test ≠ none) ∧
    (∀ n ∈ [0, 1, 255, 511], (cm n).cdw10.toNat < 512 ∧ ∃ rest,
      (if (cm n).cdw10.toNat = 0 then List.range 9 else (List.range 9).filter fun i => bit (cm n).cdw10.toNat i) = 0 :: rest) ∧
    (ready.cis.test = none ∧ (∃ x, ready.cis.strings[0]? = some x ∧ x.st = 0) ∧ ready.held ≤ allowWithout 0 ready) := by
  refine ⟨⟨admin_ready, admin_of (by decide +kernel) rfl⟩, by decide +kernel, fun n h => ?_, by decide +kernel, some_of (by decide +kernel),
    by decide +kernel⟩
  simp only [List.mem_cons, List.not_mem_nil, or_false] at h
  rcases h with rfl | rfl | rfl | rfl <;> exact ⟨by decide, _, rfl⟩

/-- Cluster 4, in a job of partition 0, its core at pc 64 before instruction words, with values in registers. -/
def core4 (ws : List Nat) (g : List (Nat × Nat) := []) : Clu :=
  { Clu.reset 4 with
    run := true, gen := 5, imgen := 5, imlen := 4096, imkind := 1
    im := Mem.write 0 [] 64 (ws.flatMap (leBytes 4))
    core := { Core.reset with
      pc := 64, st := .running
      g := g.foldl (fun l p => l.set p.1 (BitVec.ofNat 64 p.2)) Core.reset.g } }

def at4 (x : Clu) : State := let s := withRun run0 ready; { s with clus := s.clus.set 4 x }

/-- The core of cluster 4 is at a word. -/
abbrev Here (w : Nat) (x : Clu) : Prop := CoreAt (at4 x) 4 (BitVec.ofNat 32 w) x

theorem here_coreAt {w : Nat} {x : Clu} (h : Here w x) : (at4 x).coreAt 4 (BitVec.ofNat 32 w) x := coreAt_of h

/-- An instruction of its opcode, two registers and an immediate. -/
def ins (op rd rs imm : Nat) : Nat := op * 2 ^ 26 + rd * 2 ^ 21 + rs * 2 ^ 16 + imm

/-- Immediates at their extremes, register 0 among the destinations. -/
theorem witness_ImmediatesWriteRegisters :
    (∀ op ∈ [1, 2, 3, 4, 5, 6, 7], ∀ rd ∈ [0, 31], ∀ imm ∈ [0, 0xFFFF],
      Here (ins op rd 2 imm) (core4 [ins op rd 2 imm] [(2, 9)]) ∧ bits (BitVec.ofNat 32 (ins op rd 2 imm)).toNat 31 26 = op) ∧
    (∀ op ∈ [8, 9], ∀ w1 ∈ [0x80000000, 7], Here (ins op 3 0 0) (core4 [ins op 3 0 0, w1]) ∧
      (core4 [ins op 3 0 0, w1]).imWord ((core4 [ins op 3 0 0, w1]).core.pc + 4) = (BitVec.ofNat 32 w1).toNat ∧
      bits (BitVec.ofNat 32 (ins op 3 0 0)).toNat 31 26 = op) := by decide +kernel

theorem witness_AluComputesRegisters :
    (∀ fn ∈ List.range 17, let w := ins 0 1 2 (3 * 2 ^ 11 + fn); Here w (core4 [w] [(2, 2 ^ 64 - 1), (3, 70)]) ∧
      bits (BitVec.ofNat 32 w).toNat 31 26 = 0 ∧ bits (BitVec.ofNat 32 w).toNat 10 0 = fn) ∧
    (∀ fn ∈ [17, 2047], let w := ins 0 1 2 fn; Here w (core4 [w]) ∧ bits (BitVec.ofNat 32 w).toNat 31 26 = 0 ∧
      16 < bits (BitVec.ofNat 32 w).toNat 10 0) := by decide +kernel

theorem witness_RegisterZeroReadsZero :
    Core.reset.g.length = 32 ∧ Core.reset.pois.length = 32 ∧ (∀ r ∈ [1, 31], 1 ≤ r ∧ r < 32) ∧ 0 ≠ 1 := by decide

/-- Loads and stores at the last bytes of data memory, just beyond them, and unaligned. -/
theorem witness_LoadsAndStoresMoveBytes :
    (∀ p ∈ [(0x10, 8), (0x11, 4), (0x12, 2), (0x13, 1), (0x14, 8), (0x15, 4), (0x16, 2), (0x17, 1)],
      let w := ins p.1 1 2 0xFFFF; bits (BitVec.ofNat 32 w).toNat 31 26 = p.1 ∧
      (let x := core4 [w] [(1, 77), (2, 65537 - p.2)]; let a := (x.core.reg 2 + BitVec.ofInt 64 (signedN 16 0xFFFF)).toNat;
        Here w x ∧ a + p.2 ≤ 65536 ∧ a % p.2 = 0) ∧
      (let x := core4 [w] [(2, 65537)]; let a := (x.core.reg 2 + BitVec.ofInt 64 (signedN 16 0xFFFF)).toNat; Here w x ∧ 65536 < a + p.2)) ∧
    (let w := ins 0x11 1 2 2; Here w (core4 [w]) ∧ ((core4 [w]).core.reg 2 + BitVec.ofInt 64 (signedN 16 2)).toNat % 4 ≠ 0) := by decide +kernel

/-- Each comparison met and not met; a target within the image, one beyond it, and one that is no multiple of four. -/
theorem witness_BranchesAndJumpsSetPc :
    (∀ op ∈ [0x18, 0x19, 0x1A, 0x1B, 0x1C, 0x1D], ∀ b ∈ [4, 5, 6], ∀ imm ∈ [3, 0x7FFF],
      let w := ins op 1 2 imm; Here w (core4 [w] [(1, 5), (2, b)]) ∧ bits (BitVec.ofNat 32 w).toNat 31 26 = op) ∧
    ((BitVec.ofNat 64 64 + 4 * BitVec.ofInt 64 (signedN 16 3)).toNat < 4096 ∧ 4096 ≤ (BitVec.ofNat 64 64 + 4 * BitVec.ofInt 64 (signedN 16 0x7FFF)).toNat ∧
      (BitVec.ofNat 64 64 + 4 * BitVec.ofInt 64 (signedN 16 3)).toNat % 4 = 0) ∧
    (∀ imm ∈ [2 ^ 21 - 16, 2 ^ 21 - 17], let w := ins 0x1E 1 0 0 + imm; Here w (core4 [w]) ∧ bits (BitVec.ofNat 32 w).toNat 31 26 = 0x1E) ∧
    ((BitVec.ofNat 64 64 + 4 * BitVec.ofInt 64 (signedN 21 (2 ^ 21 - 16))).toNat = 0 ∧
      4096 ≤ (BitVec.ofNat 64 64 + 4 * BitVec.ofInt 64 (signedN 21 (2 ^ 21 - 17))).toNat) ∧
    (∀ r ∈ [4092, 4096, 8, 10], let w := ins 0x1F 1 2 0; Here w (core4 [w] [(2, r)]) ∧ bits (BitVec.ofNat 32 w).toNat 31 26 = 0x1F ∧
      ((core4 [w] [(2, r)]).core.reg 2 + 4 * BitVec.ofInt 64 (signedN 16 0)).toNat = r) := by decide +kernel

/-- A loop of none and of one and more rounds, its body two words; within another; a counter in use; a body beyond the image. -/
theorem witness_HardwareLoopsRepeatBodies :
    (∀ n ∈ [0, 1, 2 ^ 32], let w := 0x20 * 2 ^ 26 + 1 * 2 ^ 24 + 2 * 2 ^ 19 + 2; let x := core4 [w] [(2, n)]; Here w x ∧
      bits (BitVec.ofNat 32 w).toNat 31 26 = 0x20 ∧ bits (BitVec.ofNat 32 w).toNat 18 16 = 0 ∧ bits (BitVec.ofNat 32 w).toNat 25 24 = 1 ∧
      (x.core.reg 2).toNat = n ∧ (∀ l ∈ x.core.loops, l.lc ≠ 1) ∧ x.core.pc + 4 * 2 < x.imlen ∧
      bodyEnds x 2 (x.core.pc + 4) (4 * 2) = true ∧ x.core.loops.head? = none) ∧
    (∀ n ∈ [0, 1, 4095], let w := 0x21 * 2 ^ 26 + 1 * 2 ^ 24 + n * 2 ^ 12 + 2; let x := core4 [w];
      let y := { x with core := { x.core with loops := [⟨0, 60, 72, 0, 2⟩] } }; Here w y ∧ bits (BitVec.ofNat 32 w).toNat 31 26 = 0x21 ∧
      bits (BitVec.ofNat 32 w).toNat 23 12 = n ∧ bits (BitVec.ofNat 32 w).toNat 11 0 = 2 ∧ bits (BitVec.ofNat 32 w).toNat 25 24 = 1 ∧
      (∀ l ∈ y.core.loops, l.lc ≠ 1) ∧ bodyEnds y 2 (y.core.pc + 4) (4 * 2) = true ∧
      ∀ l ∈ y.core.loops, l.start ≤ y.core.pc + 4 ∧ y.core.pc + 4 * 2 ≤ l.last) ∧
    (let w := 0x21 * 2 ^ 26 + 2 * 2 ^ 12 + 2; let x := core4 [w]; let y := { x with core := { x.core with loops := [⟨0, 60, 72, 0, 2⟩] } };
      Here w y ∧ ∃ l ∈ y.core.loops, l.lc = bits (BitVec.ofNat 32 w).toNat 25 24) ∧
    (let w := 0x21 * 2 ^ 26 + 2 * 2 ^ 12 + 1008; Here w (core4 [w]) ∧ (core4 [w]).imlen ≤ (core4 [w]).core.pc + 4 * 1008) ∧
    (let w := 0x22 * 2 ^ 26 + 3 * 2 ^ 21; Here w (core4 [w]) ∧ bits (BitVec.ofNat 32 w).toNat 31 26 = 0x22 ∧ bits (BitVec.ofNat 32 w).toNat 20 2 = 0 ∧
      (core4 [w]).core.loops.find? (fun l => l.lc == bits (BitVec.ofNat 32 w).toNat 1 0) = none) ∧
    (let l : HwLoop := ⟨0, 60, 72, 0, 2⟩; l.last + 4 = 76 ∧ l.idx + 1 < l.n ∧ { l with n := 1 }.n ≤ l.idx + 1 ∧ l.last + 4 ≠ 80) := by
  and_intros <;> decide +kernel

theorem witness_DescriptorsAreLoadedStoredAndSet :
    (∀ op ∈ [0x24, 0x25], ∀ r ∈ [65472, 65536, 32], let w := op * 2 ^ 26 + 7 * 2 ^ 23 + 2 * 2 ^ 18; Here w (core4 [w] [(2, r)]) ∧
      bits (BitVec.ofNat 32 w).toNat 31 26 = op ∧ bits (BitVec.ofNat 32 w).toNat 17 16 = 0 ∧
      ((core4 [w] [(2, r)]).core.reg (bits (BitVec.ofNat 32 w).toNat 22 18) + BitVec.ofInt 64 (signedN 16 0)).toNat = r) ∧
    (65472 + 64 ≤ 65536 ∧ 65472 % 64 = 0 ∧ 65536 < 65536 + 64 ∧ 32 % 64 ≠ 0) ∧
    (∀ fld ∈ [0, 1, 2, 7, 8, 13, 14, 15], let w := 0x26 * 2 ^ 26 + 2 * 2 ^ 18 + fld * 2 ^ 14; Here w (core4 [w] [(2, 0)]) ∧
      bits (BitVec.ofNat 32 w).toNat 31 26 = 0x26 ∧ bits (BitVec.ofNat 32 w).toNat 17 14 = fld ∧ bits (BitVec.ofNat 32 w).toNat 13 0 = 0) := by
  decide +kernel

/-- Cluster 4 waits for a sync object to reach a value. -/
def waiting4 (take : Bool) : Clu :=
  let x := core4 [0]; { x with objs := x.objs.set 5 { SyncObj.reset with value := 9 }, core := { x.core with st := .waiting take 5 9 false } }

theorem witness_SyncInstructionsWaitTakeAndSet :
    (∀ op ∈ [0x28, 0x29], ∀ n ∈ [9, 10], let w := op * 2 ^ 26 + 5 * 2 ^ 19 + 2 * 2 ^ 14;
      let x := { core4 [w] [(2, n)] with objs := (Clu.reset 4).objs.set 5 { SyncObj.reset with value := 9 } }; Here w x ∧
      bits (BitVec.ofNat 32 w).toNat 31 26 = op ∧ bits (BitVec.ofNat 32 w).toNat 12 0 = 0 ∧ (x.obj (bits (BitVec.ofNat 32 w).toNat 25 19)).value = 9 ∧
      (x.core.reg (bits (BitVec.ofNat 32 w).toNat 18 14)).toNat % 2 ^ 32 = n) ∧
    (let w := 0x2B * 2 ^ 26 + 127 * 2 ^ 19; Here w (core4 [w]) ∧ bits (BitVec.ofNat 32 w).toNat 31 26 = 0x2B ∧ bits (BitVec.ofNat 32 w).toNat 13 0 = 0) ∧
    (∀ take ∈ [true, false], let s := at4 (waiting4 take); s.hasClu 4 = true ∧ s.clus[4]? = some (waiting4 take) ∧ s.jobPart 4 = some 0 ∧
      s.tearing 0 = false ∧ (waiting4 take).run = true ∧ (waiting4 take).core.st = .waiting take 5 9 false ∧ 9 ≤ ((waiting4 take).obj 5).value) ∧
    (Here 0 (core4 [0]) ∧ ∀ e < 5, ((core4 [0]).q e).queue = []) := by and_intros <;> decide +kernel

/-- A signal of an amount to an object, by its kind. -/
def sig (kind o : Nat) : Nat := 0x2A * 2 ^ 26 + kind * 2 ^ 24 + o * 2 ^ 12 + 2 * 2 ^ 7

theorem witness_SignalsAddToSyncObjects :
    (∀ n ∈ [0, 1, 65535, 65536], ∀ kind ∈ [1, 2], ∀ o ∈ [4 * 128 + 127, 2 * 128], let w := sig kind o; Here w (core4 [w] [(2, n)]) ∧
      bits (BitVec.ofNat 32 w).toNat 31 26 = 0x2A ∧ bits (BitVec.ofNat 32 w).toNat 1 0 = 0 ∧ bits (BitVec.ofNat 32 w).toNat 23 12 = o ∧
      bits (BitVec.ofNat 32 w).toNat 25 24 = kind ∧ ((core4 [w] [(2, n)]).core.reg (bits (BitVec.ofNat 32 w).toNat 11 7)).toNat % 2 ^ 32 = n ∧
      ((core4 [w] [(2, n)]).obj (o % 128)).value + n ≤ 0xFFFFFFFF) ∧
    ((4 * 128 + 127) / 128 = 4 ∧ 2 * 128 / 128 ≠ 4 ∧ (at4 (core4 [0])).jobPart 4 = some 0 ∧ (at4 (core4 [0])).hasClu 2 = true ∧
      bit ((at4 (core4 [0])).cfg.conf.clusters.getD 0 0) 2 = true) ∧
    (∀ gen ∈ [0, 1], let s := { at4 (core4 [0]) with sigs := [⟨4 * 128 + 127, 65535, gen, 2, 0⟩, ⟨2 * 128, 1, 0, 4, 0⟩] };
      s.hasClu ((4 * 128 + 127) / 128) = true ∧ s.clus[(4 * 128 + 127) / 128]? = some (core4 [0]) ∧
      ((core4 [0]).obj ((4 * 128 + 127) % 128)).value + 65535 ≤ 0xFFFFFFFF) ∧
    (core4 [0]).ctxgen = 0 := by and_intros <;> decide +kernel

/-- The second word of an issue. -/
def ordw (wkind skind sobj scnt : Nat) : Nat := wkind * 2 ^ 30 + 3 * 2 ^ 23 + skind * 2 ^ 21 + sobj * 2 ^ 9 + scnt * 2 ^ 5

def ecmd : ECmd := ⟨0, 0, 0, 0, 0, 0, 0, 0, 4, 0, 0, 128, zeros 64, false, true⟩

theorem witness_IssuesQueueEngineCommands :
    (∀ e < 5, ∀ b ∈ [ordw 0 0 0 0, ordw 1 1 (4 * 128) 15, ordw 2 2 (2 * 128) 1, ordw 3 0 0 0, ordw 0 1 (4 * 128) 0, ordw 0 1 0 1],
      let a := (0x30 + e) * 2 ^ 26 + 5 * 2 ^ 20; Here a (core4 [a, b]) ∧
      (core4 [a, b]).imWord ((core4 [a, b]).core.pc + 4) = (BitVec.ofNat 32 b).toNat ∧ bits (BitVec.ofNat 32 a).toNat 31 26 = 0x30 + e ∧
      bits (BitVec.ofNat 32 a).toNat 1 0 = 0 ∧ ((core4 [a, b]).q e).queue.length < 512) ∧
    (∀ b ∈ [ordw 0 0 0 0, ordw 1 1 (4 * 128) 15, ordw 2 2 (2 * 128) 1], bits b 31 30 ≠ 3 ∧
      (bits b 22 21 = 0 ∨ bits b 8 5 ≠ 0 ∧ (bits b 22 21 = 1 → bits b 20 9 / 128 = 4))) ∧
    (bits (ordw 3 0 0 0) 31 30 = 3 ∧ ∀ b ∈ [ordw 0 1 (4 * 128) 0, ordw 0 1 0 1], bits b 31 30 ≠ 3 ∧ bits b 22 21 ≠ 0 ∧
      (bits b 8 5 = 0 ∨ bits b 22 21 = 1 ∧ bits b 20 9 / 128 ≠ 4)) ∧
    (let a := 0x34 * 2 ^ 26; let x := (core4 [a, 0]).modQ 4 fun q => { q with queue := List.replicate 512 ecmd };
      Here a x ∧ 512 ≤ (x.q 4).queue.length) := by and_intros <;> decide +kernel

/-- The core of cluster 4 at a barrier. -/
def barred (mode : Nat) : Clu := let x := core4 [0]; { x with core := { x.core with st := .barrier mode 6 } }

theorem witness_BarriersStopAndResumeCore :
    (∀ mode ∈ [0, 1, 2, 3], ∀ halt ∈ [true, false], let w := 0x38 * 2 ^ 26 + mode * 2 ^ 24 + 2 * 2 ^ 19; let x := { core4 [w] [(2, 6)] with haltReq := halt };
      Here w x ∧ bits (BitVec.ofNat 32 w).toNat 31 26 = 0x38 ∧ bits (BitVec.ofNat 32 w).toNat 18 0 = 0 ∧ bits (BitVec.ofNat 32 w).toNat 25 24 = mode) ∧
    Quiet (at4 (core4 [0])) ∧
    (∀ mode ∈ [0, 2], let s := at4 (barred mode); let y := barred mode; s.hasClu 4 = true ∧ s.clus[4]? = some y ∧ Quiet s ∧ s.jobPart 4 = some 0 ∧
      (s.part 0).run = some run0 ∧ s.active 4 = true ∧ y.core.st = .barrier mode 6 ∧ y.halted = false ∧ y.idle = true ∧ s.remoteOf 4 = [] ∧
      4 ∉ run0.atBar ∧ s.fanDone 0 = true ∧ ∃ d ∈ run0.clusters, d ≠ 4 ∧ d ∉ run0.atBar ∧ (s.clu d).core.st ≠ .ended) := by
  and_intros <;> decide +kernel

theorem witness_RecordAndTrapInstructions :
    (∀ p ∈ [(0x39, 25), (0x3A, 20), (0x3B, 20), (0x2B, 13), (0x28, 12), (0x29, 12)], ∀ low ∈ [0, 1], let w := ins p.1 0 0 low;
      Here w (core4 [w]) ∧ bits (BitVec.ofNat 32 w).toNat 31 26 = p.1 ∧ bits (BitVec.ofNat 32 w).toNat p.2 0 = low) ∧
    (let w := ins 0x3A 1 0 0; (core4 [w]).imkind = 1 ∧ Here w { core4 [w] with imkind := 2 } ∧ { core4 [w] with imkind := 2 }.imkind ≠ 1) ∧
    (let w := ins 0x3C 0 0 0xFFFF; Here w (core4 [w]) ∧ bits (BitVec.ofNat 32 w).toNat 31 26 = 0x3C ∧ bits (BitVec.ofNat 32 w).toNat 25 16 = 0) ∧
    (0 : Word) ≠ 1 := by and_intros <;> decide +kernel

theorem witness_ContextFaultTearsContextDown :
    let s := at4 (core4 [0]); s.jobPart 4 = some 0 ∧ (s.part 0).run = some run0 ∧ (s.part 0).batch = none ∧ run0.teardown = none ∧
    (s.part 0).resetting = false ∧ run0.clusters ≠ [] ∧ s.lnk.ops = [] ∧ s.lnk.binds = [] ∧ s.lnk.fans = [] ∧ 0 < 8 ∧ s.parts.length = 8 := by
  decide +kernel

theorem ok_some {α ε : Type} {o : Except ε α} {p : α → Prop} [DecidablePred p] (h : o.toOption.any (fun x => decide (p x)) = true) :
    ∃ x, o = .ok x ∧ p x := by
  cases o with
  | error e => cases h
  | ok x => exact ⟨x, rfl, of_decide_eq_true h⟩

theorem error_of {α : Type} {o : Except Nat α} {n : Nat} (h : (match o with | .error e => e == n | .ok _ => false) = true) : o = .error n := by
  cases o with
  | error e => exact congrArg _ (of_decide_eq_true h)
  | ok x => cases h

/-- A descriptor of a space, an element size in granules, a base and levels. -/
def agd (space elem base : Nat) (lv : List (Nat × Nat)) : List Byte :=
  leBytes 8 base ++ leBytes 1 space ++ leBytes 1 lv.length ++ leBytes 2 elem ++ zeros 4 ++
    lv.flatMap (fun l => leBytes 2 (l.1 - 1) ++ leBytes 6 l.2) ++ zeros (48 - 8 * lv.length)

/-- Cluster 4 with some memory, and with a command at the head of an engine's queue or at work. -/
def base4 : Clu := { core4 [0] with tile := [(16, 2), (0x1000, 16), (0x1008, 3)] }

def engClu (e : Nat) (k : ECmd) (x : Clu := base4) : Clu := x.modQ e fun q => { q with queue := [k, { ecmd with seq := 5 }] }

def actClu (e arrays : Nat) (k : ECmd) : Clu := base4.modQ e fun q => { q with act := [⟨k, false, [], arrays⟩] }

/-- A sled whose cluster 4 is in a job that holds the 64 KiB at 10000h. -/
def eng4 (x : Clu) : State := modRun 0 (fun r => { r with regions := [(0x10000, 0x10000)] }) (at4 x)

/-- A command at the head of a queue of cluster 4, and one at work. -/
abbrev Head (e : Nat) (k : ECmd) (x : Clu := base4) : Prop := HeadAt (eng4 (engClu e k x)) 4 e k (engClu e k x)
abbrev Work (e arrays : Nat) (k : ECmd) : Prop := Runs (eng4 (actClu e arrays k)) 4 e k (actClu e arrays k) arrays

def copyCmd (space base : Nat) : ECmd := { ecmd with desc := agd space 2 base [(2, 256), (2, 512)], opb := 0x2000 }

def gatherCmd : ECmd := { copyCmd 0 0x10000 with eop := 1, desc := agd 0 2 0x10000 [(3, 0)], opb := BitVec.ofNat 64 (0x2000 + 0x4000 * 2 ^ 32) }

def copyrelCmd : ECmd := { copyCmd 1 0 with eop := 2 }

/-- A store of three records of 16 bytes, of one that tells its length, and of a part list. -/
def appendCmd : ECmd := { ecmd with eop := 1, opa := 3, opb := BitVec.ofNat 64 (0x1000 + 16 * 2 ^ 32) }
def vappendCmd : ECmd := { ecmd with eop := 2, opa := 1, opb := 0x1000 }
def plistCmd (a n : Nat) : ECmd := { ecmd with eop := 3, opa := BitVec.ofNat 64 n, opb := BitVec.ofNat 64 a }

theorem witness_TransfersStartFromQueues_1 :
    (∀ k ∈ [copyCmd 0 0x10000, gatherCmd, copyrelCmd, copyCmd 0 0x20000, { copyCmd 0 0x10000 with eop := 3 }], Head 0 k) ∧
    (∀ k ∈ [copyCmd 0 0x10000, copyCmd 0 0x20000, appendCmd, vappendCmd, { appendCmd with opb := 1 }, { vappendCmd with opb := 1 },
      plistCmd 0 0, plistCmd (2 ^ 24 - 64) 8, plistCmd (2 ^ 24 - 64) 9, plistCmd 8 0], Head 4 k) := by decide +kernel

theorem witness_TransfersStartFromQueues_2 :
    (∀ p ∈ [(copyCmd 0 0x10000, 0), (gatherCmd, 1), (copyrelCmd, 2)], p.1.eop = p.2 ∧
      ∃ r, xferElems (eng4 (engClu 0 p.1)) 4 0 p.1 = .ok r ∧ r.1.space ≠ 2) ∧
    (xferElems (eng4 (engClu 0 (copyCmd 0 0x20000))) 4 0 (copyCmd 0 0x20000) = .error 6 ∧ 2 < { copyCmd 0 0x10000 with eop := 3 }.eop) ∧
    (∃ r, xferElems (eng4 (engClu 4 (copyCmd 0 0x10000))) 4 4 (copyCmd 0 0x10000) = .ok r ∧ r.1.space ≠ 2) ∧
    xferElems (eng4 (engClu 4 (copyCmd 0 0x20000))) 4 4 (copyCmd 0 0x20000) = .error 6 ∧
    ((∃ l, appended (engClu 4 appendCmd) appendCmd = .ok l ∧ l.length = 3) ∧ (∃ l, appended (engClu 4 vappendCmd) vappendCmd = .ok l ∧ l.length = 1) ∧
      appended (engClu 4 { appendCmd with opb := 1 }) { appendCmd with opb := 1 } = .error 8 ∧
      appended (engClu 4 { vappendCmd with opb := 1 }) { vappendCmd with opb := 1 } = .error 8) ∧
    (∀ p ∈ [(0, 0), (2 ^ 24 - 64, 8), (2 ^ 24 - 64, 9), (8, 0)], (plistCmd p.1 p.2).opa.toNat % 2 ^ 32 = p.2 ∧ (plistCmd p.1 p.2).opb.toNat % 2 ^ 24 = p.1) := by
  refine ⟨fun p h => ?_, ⟨error_of (by decide +kernel), by decide⟩, ok_some (by decide +kernel), error_of (by decide +kernel),
    ⟨ok_some (by decide +kernel), ok_some (by decide +kernel), error_of (by decide +kernel), error_of (by decide +kernel)⟩, by decide +kernel⟩
  simp only [List.mem_cons, List.not_mem_nil, or_false] at h
  rcases h with rfl | rfl | rfl <;> exact ⟨rfl, ok_some (by decide +kernel)⟩

theorem witness_TransferElementsFollowLevels :
    (∀ l ∈ [((1 : Nat), (-64 : Int)), (3, 0), (65536, 128)], 1 ≤ l.1) ∧ 5 < [((1 : Nat), (-64 : Int)), (3, 0), (65536, 128)].foldl (fun n l => n * l.1) 1 := by
  decide

/-- A command that signals an object of its own cluster. -/
def signals (k : ECmd) : ECmd := { k with skind := 1, sobj := 4 * 128 + 9, scnt := 15 }

theorem witness_CompletedTransfersMoveTheirData :
    (∀ k ∈ [copyCmd 0 0x10000, gatherCmd, signals (copyCmd 0 0x10000)], Work 0 0 k ∧ k.sticky = false ∧ k.skind ≤ 1 ∧ k.eop ≤ 1 ∧
      (k.skind = 1 → k.sobj / 128 = 4 ∧ ((actClu 0 0 k).obj (k.sobj % 128)).value + k.scnt ≤ 0xFFFFFFFF) ∧
      (eng4 (actClu 0 0 k)).resv.undelivered = [] ∧
      ∃ r, xferElems (eng4 (actClu 0 0 k)) 4 0 k = .ok r ∧ r.1.space ≠ 2 ∧ ∀ p ∈ r.2, (sourceRead (eng4 (actClu 0 0 k)) 4 r.1.space p.1.toNat (r.1.elem * 64)).2 = []) ∧
    (let k := copyCmd 0 0x10000; Work 4 0 k ∧ (actClu 4 0 k).tpois = [] ∧ ∃ r, xferElems (eng4 (actClu 4 0 k)) 4 4 k = .ok r ∧ r.1.space = 0) ∧
    (Work 4 0 appendCmd ∧ appendCmd.eop = 1 ∧ (eng4 (actClu 4 0 appendCmd)).jobPart 4 = some 0 ∧ (actClu 4 0 appendCmd).tpois = [] ∧
      (∃ r, ((eng4 (actClu 4 0 appendCmd)).part 0).run = some r ∧ r.regions ≠ []) ∧ ∃ l, appended (actClu 4 0 appendCmd) appendCmd = .ok l ∧ l ≠ []) := by
  refine ⟨fun k h => ?_, ⟨by decide +kernel, rfl, ok_some (by decide +kernel)⟩, by decide +kernel, rfl, by decide +kernel, rfl, some_of (by decide +kernel),
    ok_some (by decide +kernel)⟩
  simp only [List.mem_cons, List.not_mem_nil, or_false] at h
  rcases h with rfl | rfl | rfl <;>
    exact ⟨by decide +kernel, rfl, by decide, by decide, by decide +kernel, rfl, ok_some (by decide +kernel)⟩

/-- Cluster 4 with commands that wait for an object: of the first engine for more than it has, of the last for all of it. -/
def wants (cnt : Nat) : ECmd := { ecmd with granted := false, wkind := 2, wobj := 7, wcnt := cnt }

def grantClu : Clu :=
  let x := (base4.modQ 0 fun q => { q with queue := [wants 11] }).modQ 4 fun q => { q with queue := [wants 10, ecmd] }
  { x with objs := x.objs.set 7 { SyncObj.reset with value := 10 } }

theorem witness_EnginesFinishSignalAndAreGranted :
    (∀ k ∈ [ecmd, signals ecmd], k.skind ≤ 1 ∧ (∀ p ∈ [(1, 4), (2, 0), (3, 0)], Work p.1 p.2 k ∧
      (k.skind = 1 → k.sobj / 128 = 4 ∧ ((actClu p.1 p.2 k).obj (k.sobj % 128)).value + k.scnt ≤ 0xFFFFFFFF)) ∧ 3 ≠ k.seq) ∧
    (let s := at4 grantClu; s.hasClu 4 = true ∧ s.clus[4]? = some grantClu ∧ CluOk grantClu ∧ grantClu.run = true ∧ s.jobPart 4 = some 0 ∧
      s.tearing 0 = false ∧ grantClu.core.st = .running ∧ (grantClu.q 4).queue = [wants 10, ecmd] ∧ (wants 10).granted = false ∧
      (wants 10).wcnt ≤ (grantClu.obj 7).value ∧
      engineFree 4 grantClu (wants 10) = true ∧
      ∀ i < 4, ∀ y, (grantClu.q i).queue.head? = some y → y.granted = true ∨ (grantClu.obj y.wobj).value < y.wcnt ∨
        engineFree i grantClu y = false) ∧
    (let x := grantClu.modQ 2 fun q => { q with queue := [wants 5], act := [⟨ecmd, false, [], 0⟩] };
      engineFree 2 x (wants 5) = false ∧ (wants 5).wcnt ≤ (x.obj 7).value ∧ engineFree 4 x (wants 10) = true ∧
        (x.q 4).queue = [wants 10, ecmd]) := by
  and_intros <;> decide +kernel

/-- A command of the Hamming engine. -/
def hcmd (op a n b : Nat) : ECmd := { ecmd with eop := op, opa := BitVec.ofNat 64 (a + n * 2 ^ 32), opb := BitVec.ofNat 64 b }

/-- Cluster 4 with two queries of 32 words loaded and a table of 32 rows. -/
def hamClu : Clu := { base4 with ham := { base4.ham with words := 32, qs := [zeros 256, 1 :: zeros 255], qPois := [false, false], m := 32 } }

theorem witness_HammingEngineComputesDistances_1 :
    (∀ w ∈ [1, 32], ∀ n ∈ [0, 15], let k := hcmd 0 0x1000 (n + 256 * w) 0; Head 3 k hamClu ∧ k.sticky = false ∧ k.opa.toNat % 2 ^ 24 = 0x1000 ∧
      k.opa.toNat / 2 ^ 40 % 64 = w ∧ k.opa.toNat / 2 ^ 32 % 16 = n ∧ 0x1000 % 64 = 0 ∧ 0x1000 + (n + 1) * w * 8 ≤ 2 ^ 24) ∧
    (∀ m ∈ [8, 32], let k := hcmd 2 (2 ^ 24 - 8192) m 0; Head 3 k hamClu ∧ k.opa.toNat / 2 ^ 32 % 256 = m ∧ m % 4 = 0 ∧ 2 ^ 24 - 8192 + 256 * m ≤ 2 ^ 24) ∧
    (∀ n ∈ [0, 4], let k := hcmd 1 (2 ^ 24 - 1024) n 0x2000; Head 3 k hamClu ∧ k.opa.toNat / 2 ^ 32 = n ∧ k.opa.toNat % 2 ^ 24 % 64 = 0 ∧
      2 ^ 24 - 1024 + n * ((engClu 3 k hamClu).ham.words * 8) ≤ 2 ^ 24 ∧ k.opb.toNat % 2 ^ 24 % 64 = 0 ∧ 0x2000 + n * 32 ≤ 2 ^ 24 ∧
      (engClu 3 k hamClu).ham.qs.length ≤ 16) := by and_intros <;> decide +kernel

theorem witness_HammingEngineComputesDistances_2 :
    (let k := hcmd 1 (2 ^ 24 - 1024) 5 0x2000; Head 3 k hamClu ∧ 2 ^ 24 < 2 ^ 24 - 1024 + 5 * ((engClu 3 k hamClu).ham.words * 8)) ∧
    (let k := hcmd 3 (2 ^ 24 - 64) 2 0x2000; Head 3 k hamClu ∧ (engClu 3 k hamClu).ham.m = 32 ∧ 2 ^ 24 - 64 + 2 * 32 ≤ 2 ^ 24 ∧ 0x2000 + 2 * 2 ≤ 2 ^ 24) ∧
    (let k := hcmd 4 0x1000 8 (0x2000 + 2 * 2 ^ 32); Head 3 k hamClu ∧ k.opb.toNat / 2 ^ 32 % 65536 = 2 ∧ k.opb.toNat % 2 ^ 24 = 0x2000 ∧
      (List.range 8).filter (fun i => decide (leNat ((engClu 3 k hamClu).tileRead (0x1000 + 2 * i) 2) ≤ 2)) = [1, 2, 3, 5, 6, 7] ∧
      0x2000 + 64 + 4 * 6 ≤ 2 ^ 24) ∧
    (let k := hcmd 5 0 0 0; Head 3 k hamClu ∧ 4 < k.eop) := by and_intros <;> decide +kernel

/-- An entry of a vector list: opcode, places, granules, addresses. -/
def vent (vop places ngran s0 s1 d : Nat) : List Byte := leBytes 1 vop ++ leBytes 1 places ++ leBytes 2 ngran ++ leBytes 4 s0 ++ leBytes 4 s1 ++ leBytes 4 d

/-- Cluster 4 with entries of a vector list at 400h. -/
def vecClu (l : List (List Byte)) : Clu := { base4 with im := Mem.write 0 [] 0x400 l.flatten }

def vcmd (a n r : Nat) : ECmd := { ecmd with opa := BitVec.ofNat 64 (a + n * 2 ^ 20 + r * 2 ^ 40) }

def add32 : List Byte := vent 1 0x33 2 0x1000 0x1000 0x2000

/-- A list with a permute that reads a poisoned granule, and the same list over whole granules. -/
theorem witness_VectorListsRunTheirEntries_2 :
    (∀ p ∈ [([], false), ([0x40], true)], let z := { vecClu [add32, vent 0xE 0x33 1 0x1000 0x1040 0x3000] with tpois := p.1 }
      let k := vcmd 0x400 2 0; let x := engClu 2 k z;
      Head 2 k z ∧ x.gen = x.imgen ∧ (∀ i < 2, (vEntry x 0x400 0 i).bad = none) ∧ (vEntry x 0x400 0 1).wholeHurt x = p.2) := by decide +kernel

/-- One entry, two of them, one that is bad after one that is good, none, and a list that reaches beyond the image. -/
theorem witness_VectorListsRunTheirEntries :
    (∀ p ∈ [(1, 0), (2, 64)], let k := vcmd 0x400 p.1 p.2; let x := engClu 2 k (vecClu [add32, add32]); Head 2 k (vecClu [add32, add32]) ∧ x.gen = x.imgen ∧
      k.opa.toNat % 2 ^ 18 = 0x400 ∧ k.opa.toNat / 2 ^ 20 % 4096 = p.1 ∧ k.opa.toNat / 2 ^ 40 % 2 ^ 24 = p.2 ∧ 0x400 + 16 * p.1 ≤ x.imlen ∧
      (∀ i < p.1, (vEntry x 0x400 p.2 i).bad = none) ∧ (vEntry x 0x400 p.2 0).vop = 1 ∧ (vEntry x 0x400 p.2 0).src = 3 ∧ (vEntry x 0x400 p.2 0).dst = 3) ∧
    (let k := vcmd 0x400 2 0; let x := engClu 2 k (vecClu [add32, vent 1 0x33 2 0x1000 0x1000 0x2001]); Head 2 k (vecClu [add32, vent 1 0x33 2 0x1000 0x1000 0x2001]) ∧
      (vEntry x 0x400 0 0).bad = none ∧ (vEntry x 0x400 0 1).bad = some 8) ∧
    (∀ k ∈ [vcmd 0x400 0 0, vcmd 4080 2 0, { vcmd 0x400 1 0 with eop := 1 }], Head 2 k ∧
      (k.eop ≠ 0 ∨ k.opa.toNat / 2 ^ 20 % 4096 = 0 ∨ base4.imlen < k.opa.toNat % 2 ^ 18 + 16 * (k.opa.toNat / 2 ^ 20 % 4096))) := by
  and_intros <;> decide +kernel

/-- An entry of a matrix schedule, and a descriptor of 2 by 3 elements with k 5 on array 2. -/
def sent (cyc slot arr kind addr : Nat) : List Byte := leBytes 8 (addr + kind * 2 ^ 28 + arr * 2 ^ 31 + slot * 2 ^ 35 + cyc * 2 ^ 40)

def mdesc (mode fa fb sched slen aopt : Nat) : List Byte :=
  leBytes 2 4 ++ leBytes 1 mode ++ leBytes 1 fa ++ leBytes 1 fb ++ [0xC, 0, 0] ++ leBytes 2 2 ++ leBytes 2 3 ++ leBytes 2 5 ++ zeros 10 ++
    leBytes 4 0x3000 ++ leBytes 4 0x4000 ++ leBytes 4 sched ++ leBytes 4 slen ++ leBytes 4 100 ++ leBytes 1 aopt ++ [0, 9, 0] ++ zeros 10 ++
    leBytes 2 8 ++ zeros 4

def load2 : List (List Byte) := [sent 0 31 2 2 0x1000, sent 1 0 2 0 0x1200, sent 2 1 2 0 0x1240, sent 20 0 2 1 0, sent 21 1 2 1 0]

/-- Cluster 4 with a schedule at 800h, and a matrix command on it. -/
def matClu (l : List (List Byte)) : Clu := { base4 with im := Mem.write 0 [] 0x800 l.flatten }

def mcmd (mode fa fb n aopt : Nat) : ECmd := { ecmd with desc := mdesc mode fa fb 0x800 n aopt }

/-- What a matrix command finds as its schedule runs. -/
abbrev simOf (x : Clu) (k : ECmd) : SlotSim :=
  ((List.range (mDesc k.desc).slen).map (sEntry x (mDesc k.desc))).foldl (slotStep x (mDesc k.desc) k.seq) ⟨x.slots, [], keepsFail (mDesc k.desc) x.slots, 0⟩

abbrev schedOf (x : Clu) (k : ECmd) : List SEntry := (List.range (mDesc k.desc).slen).map (sEntry x (mDesc k.desc))

theorem witness_MatrixCommandsRunTheirSchedules_1 :
    (∀ k ∈ [mcmd 0 0 0xC 6 0, { mcmd 0 0 0 6 0 with eop := 1 }], Head 1 k ∧ (k.eop ≠ 0 ∨ (mDesc k.desc).formatsOk = false)) ∧
    (let k := mcmd 0 0 0 (2 ^ 15 + 1) 0; Head 1 k ∧ (mDesc k.desc).formatsOk = true ∧ 2 ^ 15 < (mDesc k.desc).slen) ∧
    (let k := mcmd 0 0 0 1 0; let l := [sent 0 31 2 2 0x1000]; Head 1 k (matClu l) ∧ (mDesc k.desc).formatsOk = true ∧
      schedOk (engClu 1 k (matClu l)) (mDesc k.desc) (schedOf (engClu 1 k (matClu l)) k) = false) := by and_intros <;> decide +kernel

def drain2 (at_ : Nat) : List (List Byte) := load2 ++ [sent 60 31 2 3 at_, sent 100 0 2 7 0]

/-- One drain of the schedule; a drain beyond tile memory; a slot that is read before it is filled; and no drain. -/
theorem witness_MatrixCommandsRunTheirSchedules_2 :
    (∀ p ∈ [(0, 0), (16, 1)], let k := mcmd p.1 0 p.2 7 (3 * p.2); let x := engClu 1 k (matClu (drain2 0x2000)); Head 1 k (matClu (drain2 0x2000)) ∧ k.eop = 0 ∧
      (mDesc k.desc).formatsOk = true ∧ (mDesc k.desc).slen ≤ 2 ^ 15 ∧ schedOk x (mDesc k.desc) (schedOf x k) = true ∧
      rangesOk (mDesc k.desc) (schedOf x k) = true ∧ (simOf x k).fail = none ∧ bit (mDesc k.desc).amask 2 = true ∧
      (∃ e, (schedOf x k).filter (fun e => e.kind == 3) = [e]) ∧ (mDesc k.desc).fc = 0xC ∧ (mDesc k.desc).bit = false ∧
      ((mDesc k.desc).kind == .int) = true) := by
  intro p h
  simp only [List.mem_cons, List.not_mem_nil, or_false] at h
  rcases h with rfl | rfl <;> and_intros <;> first | decide +kernel | exact ⟨_, rfl⟩

theorem witness_MatrixCommandsRunTheirSchedules_3 :
    (let k := mcmd 0 0 0 7 0; let x := engClu 1 k (matClu (drain2 0xFFFFC0)); Head 1 k (matClu (drain2 0xFFFFC0)) ∧ schedOk x (mDesc k.desc) (schedOf x k) = true ∧
      rangesOk (mDesc k.desc) (schedOf x k) = false) ∧
    (let k := mcmd 0 0 0 6 0; let l := (drain2 0x2000).eraseIdx 2; let x := engClu 1 k (matClu l); Head 1 k (matClu l) ∧
      schedOk x (mDesc k.desc) (schedOf x k) = true ∧ rangesOk (mDesc k.desc) (schedOf x k) = true ∧ (simOf x k).fail.isSome = true) ∧
    (let k := mcmd 0 0 0 6 0; let l := (drain2 0x2000).eraseIdx 5; let x := engClu 1 k (matClu l); Head 1 k (matClu l) ∧
      schedOk x (mDesc k.desc) (schedOf x k) = true ∧ rangesOk (mDesc k.desc) (schedOf x k) = true ∧ (simOf x k).fail = none ∧
      ∀ e ∈ schedOf x k, e.kind ≠ 3) := by and_intros <;> decide +kernel

/-- Rows of A of the numbers -1 to -5 and a stationary tile of twos, whose column sums are 10. -/
def ops2 : UnitOps :=
  { u := (2, 0), vecs := List.replicate 2 ([255, 254, 253, 252, 251], false), vecsB := [], tile := List.replicate 1024 2, tPois := false }

theorem witness_IntegerProductsAreExactThenClamped :
    let d := mDesc (mdesc 0 0 0 0x800 7 1)
    let x := { base4 with tile := [(0x4404, 10)] }
    isCb d.fb = false ∧ d.zpa = true ∧ d.k = 5 ∧ intOf d.fa (codeA d ops2 1 4) = -5 ∧
    signedN 32 (leNat (x.tileRead (d.sumAt + 4 * areaIx ops2.u 1) 4)) = ((List.range d.k).map fun k => intOf d.fb (codeB d ops2 k 1)).sum := by
  decide +kernel

/-- A sled in a phase of its start or its end. -/
def inPhase (p : BootPhase) (s : State := ready) : State := { s with boot := { s.boot with phase := p } }

/-- A sled whose controller is enabled and not yet ready, or not enabled. -/
def enabling : State := { inPhase .replay with nvm := { ready.nvm with rdy := false } }
def notEnabled : State := { ready with nvm := { ready.nvm with en := false, rdy := false } }

def sqe : Sqe := ⟨0, cm 0⟩

/-- Doorbells to the tail itself, one on, and round the queue; at queues that are not there; each phase of PERST#. -/
theorem witness_HostPortEventsAreTaken :
    (Quiet enabling ∧ enabling.onBus = true ∧ enabling.nvm.en = true ∧ enabling.nvm.rdy = false ∧
      enabling.nvm.sqs.filter (fun x => x.id == q1.id) = [q1] ∧ q1.tail < q1.size) ∧
    (∀ p ∈ [(5, 0), (6, 1), (4, 15)], p.1 < q1.size ∧ (List.replicate p.2 sqe).length = (p.1 + q1.size - q1.tail) % q1.size) ∧
    (∀ p ∈ [(q0, k0), (q1, k1)], Takes ready p.1 p.2 ∧ ready.onBus = true ∧ p.1.tail < p.1.size) ∧
    (∀ h ∈ [0, 4], ready.nvm.cqs.filter (fun x => x.id == k1.id) = [k1] ∧ k1.backlog = [] ∧ h < k1.size ∧ ready.nvm.en = true ∧
      (h + k1.size - { k1 with head := 0 }.head) % k1.size ≤ (k1.tail + k1.size - { k1 with head := 0 }.head) % k1.size) ∧
    (ready.boot.phase ≠ .trickle ∧ ready.nvm.aers = [] ∧ ready.nvm.masked.contains 1 = false ∧ ready.nvm.events.contains ⟨0, 0, 1⟩ = false ∧
      (∀ x ∈ ready.nvm.sqs, x.id ≠ 9) ∧ ∀ x ∈ ready.nvm.cqs, x.id ≠ 9) ∧
    (Quiet notEnabled ∧ notEnabled.onBus = true ∧ notEnabled.nvm.en = false) ∧
    (ready.escalate = false ∧ ready.lnk.bindWait = [] ∧ (0 : Word) ≠ 0x4E564D65) ∧
    (∀ p ∈ [BootPhase.replay, .trickle, .fill, .copy, .held], Quiet (inPhase p) ∧ (inPhase p).boot.phase = p ∧ (inPhase p).nvm.link.up = true) := by
  and_intros <;> decide +kernel

/-- What hardware finds at steps 2 and 3, each report of the five. -/
def reports : List FillReport := [⟨false, true, true, true, true, []⟩, ⟨true, false, true, true, true, []⟩, ⟨true, true, true, true, true, [(31, 15)]⟩, ⟨true, true, true, false, false, []⟩]

def entry0 : StartEntry := ⟨7, 1, 0, 0, 5, 180, 0, [], 0⟩

def starting (p : BootPhase) (marker : Bool) (fails : Nat) : State :=
  { ready with
    boot := { ready.boot with phase := p, marker := marker, fails := fails, entries := [entry0] }
    gen := { ready.gen with perst := false } }

theorem witness_StartsRunTheirSteps :
    (Quiet State.reset ∧ State.reset.boot.phase = .off ∧ 4200 ≤ 4200 ∧ 4199 < 4200) ∧
    (∀ m ∈ [true, false], ∀ n ∈ [0, 2, 3], Quiet (starting .fill m n) ∧ (starting .fill m n).boot.phase = .fill ∧
      (starting .fill m n).boot.marker = m ∧ (starting .fill m n).boot.fails = n) ∧
    ((∃ r ∈ reports, r.fillOk = false) ∧ (∃ r ∈ reports, r.fillOk = true ∧ r.checkersOk = false) ∧
      ∃ r ∈ reports, r.fillOk = true ∧ r.checkersOk = true ∧ r.ledgerOk = true) ∧
    (Quiet (starting .copy true 1) ∧ (starting .copy true 1).boot.phase = .copy ∧ (starting .copy true 1).entryOpen = true) ∧
    (let s := starting .replay false 1; Quiet s ∧ s.boot.phase = .replay ∧ s.awake = true ∧ s.mgmt.sanitize = none ∧ s.boot.entries = [entry0] ∧
      entry0.outcome = 0 ∧ s.gen.perst = false) ∧
    (let s := { starting .replay false 1 with pwr := { ready.pwr with surges := [⟨2, .stack 0, 150, 0⟩] } }; Quiet s ∧ s.awake = false) := by
  and_intros <;> decide +kernel

/-- A sled of which a sensor is above its critical temperature, after a power loss or at 48 V. -/
def heated : State :=
  { ready with pwr := { ready.pwr with crit := [false, false, false, false, false, false, true], input := 4800, temps := [0, 0, 0, 0, 0, 200, 0], sensed := true } }

theorem witness_PowerEventsEndRuns :
    (∀ p ∈ [BootPhase.ready, .replay, .trickle, .fill, .copy, .held, .off, .hot, .dump true, .dump false],
      Quiet (inPhase p heated) ∧ (inPhase p heated).boot.phase = p ∧ (inPhase p heated).pwr.crit.getD 6 false = true) ∧
    (coolEnough [0, 0, 0, 0, 0, 200, 0] = true ∧ coolEnough [] = false) ∧ (heated.powered = true ∧ heated.pwr.inRange = true) := by
  and_intros <;> decide +kernel

theorem opened_of {s : State} (h : Quiet s ∧ s.onBus = true ∧ s.boot.phase ≠ .trickle ∧ s.mgmt.ps < 3) : s.opened :=
  ⟨quiet_of h.1, h.2.1, h.2.2.1, h.2.2.2⟩

/-- The sled with debug access of a level, a program and a model stored, cluster 4 of the program and cluster 2 of the model. -/
def debugged (d : Nat) : State :=
  { withRun run0 ready with
    sec := { ready.sec with debug := d }
    store := { ready.store with objs := [⟨9, false, zeros 800, false⟩, ⟨8, true, zeros 800, false⟩] }
    clus := ((withRun run0 ready).clus.modify 4 fun x => { x with improg := 9 }).modify 2 fun x => { x with improg := 8 }
    boot := { ready.boot with paddr := 0x400000, raddr := 0x400, pbuf := List.replicate 512 0x55 } }

theorem opened_debugged (d : Nat) : (debugged d).opened := opened_of (s := debugged d) 
    (by decide +kernel : Quiet (debugged 0) ∧ (debugged 0).onBus = true ∧ (debugged 0).boot.phase ≠ .trickle ∧ (debugged 0).mgmt.ps < 3)

theorem witness_RegistersReadAndWrite_1 :
    (∀ d, (debugged d).opened) ∧
    (∃ x, blockOf 0x10008 = some (.cad, 8) ∧ (debugged 2).reaches .cad = true ∧ pairVal (debugged 2) .cad 8 = some x ∧ (0x10008 : Word).toNat % 4 = 0) ∧
    (let s := { debugged 1 with gen := { ready.gen with pairs := [(0x10, 3), (0x1000C, 55)] } };
      s.gen.pairs.find? (fun p => p.1 == (0x10008 : Word).toNat + 4) = some (0x10008 + 4, 55)) ∧
    (∀ c ∈ [0, 31], (debugged 0).hasClu c = true ∧ ((debugged 0).clus[c]?).isSome = true) ∧
    (((debugged 2).clu 4).improg = 9 ∧ ((debugged 2).clu 2).improg = 8 ∧ ((debugged 2).clu 0).improg = 0 ∧
      ((debugged 2).clu 0).imkind ≠ 255 ∧ ({ (debugged 2).clu 0 with imkind := 255 }.imkind = 255 ∧ (debugged 2).stored? 0 = none) ∧
      (∃ o, (debugged 2).stored? 9 = some o ∧ o.model = false) ∧ ∃ o, (debugged 2).stored? 8 = some o ∧ o.model = true) ∧
    ((debugged 1).quiescent 2 = true ∧ (debugged 1).quiescent 4 = false ∧ ((debugged 1).clu 2).run = false ∧ ((debugged 1).clu 4).run = true) ∧
    (bit (2 : Word).toNat 0 = false ∧ 32 ≤ 32) := by
  refine ⟨opened_debugged, ?_, by decide +kernel, by decide +kernel, by decide +kernel, by decide +kernel, by decide⟩
  exact ⟨0, by decide +kernel⟩

theorem witness_RegistersReadAndWrite_2 :
    (bit (1 : Word).toNat 0 = true ∧ (debugged 2).cis.test = none ∧ (∃ x, (debugged 2).cis.strings[0]? = some x ∧ x.st = 0) ∧
      (debugged 2).held ≤ allowWithout 0 (debugged 2)) ∧
    (∀ b ∈ [true, false], let s := { debugged 2 with media := { ready.media with scrubEn := b }, ras := { ready.ras with sramScrub := b, hbmScrub := b } };
      Quiet s ∧ s.media.scrubEn = b) ∧
    ((0x43520001 : Word).toNat / 2 ^ 16 = 0x4352 ∧ bit (0x43520001 : Word).toNat 0 = true ∧ bit (0x43520000 : Word).toNat 0 = false ∧
      (0x43510001 : Word).toNat / 2 ^ 16 ≠ 0x4352) ∧
    (bit (0x50470100 : Word).toNat 8 = true ∧ (0x50470100 : Word).toNat / 2 ^ 16 = 0x5047 ∧ bit (0x50470000 : Word).toNat 8 = false ∧
      (0x50460100 : Word).toNat / 2 ^ 16 ≠ 0x5047) ∧
    (∀ n ∈ [1, 2, 3], startRefused n (debugged 2).boot.paddr (debugged 2) = false ∧ startRefused n 0x8000000 (debugged 2) = true) ∧
    ((debugged 0).boot.op = none ∧ ∀ j ∈ [0, 127], j < 128 ∧ (debugged 0).boot.locked ((debugged 0).boot.raddr + 4 * j) 4 = false ∧
      ¬(0x8000000 ≤ (debugged 0).boot.raddr + 4 * j ∧ (debugged 0).boot.raddr + 4 * j < 0xA000000)) ∧
    ({ (debugged 0).boot with xo := [(true, 0, 0)] }.locked 0x400 4 = true) ∧
    (∀ op ∈ [1, 2, 3], let o : FlashOp := ⟨op, 0x400000, if op = 3 then [] else List.replicate 512 0x55⟩
      let s := { debugged 0 with boot := { (debugged 0).boot with op := some o, spoiled := [(0x405, 1, 88)] } }; Quiet s ∧ s.boot.op = some o ∧ o.op = op ∧
      ∀ x ∈ s.boot.spoiled, x.1 / 2 ^ 22 = (x.1 + x.2.1 - 1) / 2 ^ 22) := by
  refine ⟨⟨rfl, rfl, some_of (by decide +kernel), by decide +kernel⟩, by decide +kernel, by decide, by decide, by decide +kernel, ?_, by decide +kernel,
    by decide +kernel⟩
  decide +kernel

/-- A sled that tracks a cadence of 25 ms. -/
def tracking (src pidx : Nat) : State :=
  { ready with
    now := 7000
    cad := { ready.cad with src := src, tracked := 25000, pidx := pidx, lens := List.replicate 16 25000, frameViol := 5 }
    cfg := { ready.cfg with conf := { ready.cfg.conf with slot := 4, stepw := 50, cadsrc := 0 } }
    pwr := { ready.pwr with vin := 4800, input := 4800, temps := [300, 300, 300, 300, 300, 200, 200], sensed := true } }

/-- Pulses at the ends of their classes, lengths at the ends of what is accepted. -/
theorem witness_CadencePowerAndCisternEventsAct_1 :
    (∀ src ∈ [0, 1, 2], ∀ p ∈ [0, 2, 14, 15], Quiet (tracking src p) ∧ (tracking src p).boot.phase = .ready ∧ (tracking src p).cad.src = src ∧
      (tracking src p).cad.frameViol < 63 ∧ min ((tracking src p).cad.pidx + 1) 16 ≠ (tracking src p).cfg.conf.slot ∧ (tracking src p).cfg.commit = none ∧
      (tracking src p).cfg.conf.cadsrc = 0) ∧
    ((tracking 1 2).cad.period = 25000 ∧
      [99, 100, 10000, 10001, 14999, 15000, 22500, 22501].map (pulseClass 25000) =
        [.glitch, .ordinary, .ordinary, .ambiguous, .ambiguous, .marker, .marker, .stuck] ∧
      40 * 25000 ≤ 10000 * 100 ∧ 9999 * 100 < 40 * 25000) ∧
    (let s := { tracking 1 3 with pwr := { (tracking 1 3).pwr with pendingPs := some (2, 0, 5) } }; Quiet s ∧ s.pwr.pendingPs = some (2, 0, 5)) ∧
    (let s := { tracking 2 3 with cad := { (tracking 2 3).cad with cand := (List.range 16).map fun i => (25000 + i, i == 4) } };
      Quiet s ∧ cleanRun s.cad.cand = true) ∧
    (let g : Surge := ⟨2, .stack 3, 150, 10⟩; let s := { tracking 2 3 with pwr := { (tracking 2 3).pwr with surges := [g] } };
      Quiet s ∧ s.cad.pidx < 15 ∧ s.cad.pidx + 1 = s.cfg.conf.slot ∧ s.cad.realign = false ∧ s.pwr.hot = false ∧ g.cls ∈ [2, 3, 4] ∧
      g.unit ≠ .recharge ∧ s.pwr.trimSteps = 0 ∧ g.watts ≤ s.cfg.conf.stepw * 10 ∧ s.drawD + g.watts ≤ s.ceiling * 10 ∧
      (∀ x ∈ s.pwr.grants, x.unit ≠ g.unit) ∧ ∀ b ∈ s.media.sbs, s.emptied b = false) ∧
    (let g : Surge := ⟨4, .eraseGroup 7, 160, 10⟩; let s := { tracking 2 3 with pwr := { (tracking 2 3).pwr with surges := [g] } };
      Quiet s ∧ g.unit ≠ .recharge ∧ s.drawD + g.watts ≤ s.ceiling * 10 ∧ s.erasable = true ∧ ∀ b ∈ s.media.sbs, s.emptied b = false) ∧
    (let s := { tracking 1 3 with pwr := { (tracking 1 3).pwr with grants := [⟨.cluster 1, 95, 0xFFFFFFFF⟩, ⟨.stack 0, 95, 0xFFFFFFFF⟩] } };
      Quiet s ∧ s.releasable (.cluster 1) = true ∧ s.releasable (.stack 0) = false) := by and_intros <;> decide +kernel

theorem witness_CadencePowerAndCisternEventsAct_2 :
    (let l : List Int := [500, 500, 100, 300, 300, 150, 400]; let s := tracking 1 3; s.variant = .d1024 ∧ l.length = 7 ∧
      (∀ i < 7, implausible s.pwr.sensed (s.pwr.temps.getD i 0) (l.getD i 0) = false) ∧ 4000 ≤ s.pwr.input ∧ s.pwr.input ≤ 5950 ∧
      150 ≤ l.getD 5 0 ∧ l.getD 5 0 ≤ 450 ∧ s.tempOut = false ∧ implausible s.pwr.sensed (s.pwr.temps.getD 6 0) 401 = true ∧ ∀ e ∈ s.ras.ring, e.kind ≠ 0x16) ∧
    ((tracking 1 3).cis.strings.length = 9 ∧ ∀ b ∈ [true, false], { (tracking 1 3).cis with switching := b }.switching = b) ∧
    ((tracking 1 3).cis.test = none ∧ (∃ x, (tracking 1 3).cis.strings[0]? = some x ∧ x.st = 0) ∧ (tracking 1 3).held ≤ allowWithout 0 (tracking 1 3) ∧
      cisTested.cis.test.isSome = true) ∧
    (∀ i ∈ [0, 8], let c : CTest := ⟨some i, [], [1], [(0, 4)], true, true⟩
      let s := { ready with cis := { ready.cis with test := some c, strings := ready.cis.strings.modify i fun y => { y with st := 2, was := 1 } } };
      Quiet s ∧ s.cis.test = some c ∧ c.current = some i ∧ i < 9 ∧ c.left = [] ∧ ∃ x, s.cis.strings[i]? = some x ∧ x.st = 2 ∧ x.was < 2) ∧
    (∀ b ∈ [some 5, none], { ready.cis with burst := b }.burst = b) ∧
    (∀ t ∈ [none, some (⟨some 8, [], [1], [], true, true⟩ : CTest), some ⟨some 0, [1], [], [], false, true⟩],
      let s := { ready with cis := { ready.cis with switching := true, test := t } };
      Quiet s ∧ s.cis.switching = true ∧ ∀ c, s.cis.test = some c → c.current.isSome = true ∧ (c.current = some 8 → c.left = [])) := by
  refine ⟨by and_intros <;> decide +kernel, by decide +kernel, ⟨rfl, some_of (by decide +kernel), by decide +kernel, rfl⟩, fun i h => ?_, by decide, ?_⟩
  rotate_left
  · intro t h
    simp only [List.mem_cons, List.not_mem_nil, or_false] at h
    rcases h with rfl | rfl | rfl <;> exact ⟨by decide +kernel, rfl, by intro c hc; cases hc <;> decide⟩
  simp only [List.mem_cons, List.not_mem_nil, or_false] at h
  rcases h with rfl | rfl <;> exact ⟨by decide +kernel, rfl, rfl, by decide, rfl, some_of (by decide +kernel)⟩

/-! ### Ill-formed commands, which the checks of WellFormed refuse -/

def okMsg : Msg :=
  ⟨0, false, false, false, 16383, 16383, 143, 255, 2 ^ 32 - 1, 2 ^ 32 - 1, 0, 2 ^ 32 - 1, 2 ^ 32 - 1, 255, 2 ^ 32 - 1, 0, [127], []⟩

theorem wf_cmd : (cm 0).wf = true ∧ { cm 0 with sqid := 65536 }.wf = false ∧ { cm 0 with cid := 65536 }.wf = false ∧
    { cm 0 with nsid := 2 ^ 32 }.wf = false := by decide

theorem wf_cmd_params (c : Cmd) (h : c.params = List.replicate 65537 0) : c.wf = false := by
  have : c.params.length = 65537 := by rw [h, List.length_replicate]
  simp [Cmd.wf, this]

theorem wf_loc : (⟨127, 15, 5, 1820, 3071, 3, true⟩ : Loc).wf = true ∧
    ∀ l ∈ [⟨128, 0, 0, 0, 0, 0, true⟩, ⟨0, 16, 0, 0, 0, 0, true⟩, ⟨0, 0, 6, 0, 0, 0, true⟩, ⟨0, 0, 0, 1821, 0, 0, true⟩, ⟨0, 0, 0, 0, 3072, 0, true⟩,
      (⟨0, 0, 0, 0, 0, 4, true⟩ : Loc)], l.wf = false := by decide

theorem wf_msg : okMsg.wf = true ∧
    ∀ m ∈ [{ okMsg with typ := 256 }, { okMsg with src := 16384 }, { okMsg with dst := 16384 }, { okMsg with flow := 144 }, { okMsg with sgen := 256 },
      { okMsg with seq := 2 ^ 32 }, { okMsg with ack := 2 ^ 32 }, { okMsg with inst := 2 ^ 32 }, { okMsg with jobtag := 2 ^ 32 },
      { okMsg with sclu := 256 }, { okMsg with opid := 2 ^ 32 }, { okMsg with poison := [128] }], m.wf = false := by decide

theorem wf_msg_payload (m : Msg) (h : m.payload = List.replicate 8193 0) : m.wf = false := by
  have : m.payload.length = 8193 := by rw [h, List.length_replicate]
  simp [Msg.wf, this]

/-- Each arm of the check, on a term that it refuses. -/
theorem wf_instr :
    ∀ i ∈ [Instr.submissionQueueDoorbell 65536 0 [], .submissionQueueDoorbell 0 65536 [], .submissionQueueDoorbell 0 0 [⟨0, { cm 0 with cid := 65536 }⟩],
      .completionQueueDoorbell 65536 0, .completionQueueDoorbell 0 65536, .identify { cm 0 with cid := 65536 },
      .nvmeMiAdminTunnel ⟨6, { cm 0 with cid := 65536 }⟩, .read (cm 0), .scan { cm 0 with sqid := 1, cid := 65536 },
      .mediaPatrolRead ⟨128, 0, 0, 0, 0, 0, true⟩ [] false, .gcMove 0 0 ⟨0, 0, 0, 0, 0, 4, true⟩ l0, .gcMove 0 0 l0 ⟨0, 0, 0, 0, 0, 4, true⟩,
      .probe { okMsg with flow := 144 }, .shufpair { okMsg with typ := 256 }, .bar2Read 0 2, .bar2Read 2 4, .bar2Write 0 0 1, .bar2Write 6 0 4,
      .jobBoundary 8, .teardownEnd 8, .stringTestDone 9 0 0, .thermalSensorRead [], .thermalShutdownRecovery [250],
      .stringMonitorRead ⟨[], List.replicate 9 0, [], 250⟩, .stringMonitorRead ⟨List.replicate 9 0, [], [], 250⟩], i.wf = false := by decide +kernel

/-! ### Values worked out from the spec -/

/-- The table of operations gives no row bits. -/
theorem test_decode_none : decodeTableWord 32 0xFFFFFFFF = none := rfl

/-- No word puts a command at the front of the queue. -/
theorem test_withFetchWord : State.reset.withFetchWord 32 5 = State.reset := rfl

/-- Table 5.8 of 05_meadow_index.md: the regions of an index of 2,048-bit codes, DEG 32, 32,768 plots, 2,000,000,000 items. -/
theorem test_index_extent :
    regionFrames true 2048 32 2000000000 32768 = [1, 128, 1, 4968, 5897871, 7845268, 610352, 737234, 278528] := by decide +kernel

/-- The nodes of the examples after R156: 192 bytes and 341 to a page, 128 bytes and 512 to a page. -/
theorem test_node_sizes : nodeSz true 2048 32 = 192 ∧ 65536 / nodeSz true 2048 32 = 341 ∧ nodeSz false 64 16 = 128 ∧ 65536 / nodeSz false 64 16 = 512 := by
  decide

/-- An image that reports FIXED 52,000 and PERUNIT 5,120 for 32 clusters (R259): B for 16,777,216 frames, and W of R298. -/
theorem test_scan_bound :
    let image := zeros (0xF0 + 16 * 31) ++ leBytes 8 52000 ++ leBytes 8 5120
    imgBound image 32 16777216 = 2684406560 ∧ jobLimit ready { job with cmd := cm 0 } 32 2684406560 = 3355508200 := by decide +kernel

/-- A sequence of MAXTOK tokens needs 129 units (the example after R306). -/
theorem test_sequence_units :
    seqUnits ⟨1, true, zeros 0xC ++ leBytes 4 8192 ++ leBytes 4 1 ++ leBytes 4 65536 ++ leBytes 4 1024 ++ zeros 64, false⟩ 8192 = 129 := by decide +kernel

/-- The example of R242's addresses: first, second, (0, 1, 0), (0, 0, 1) and last element, and their number. -/
theorem test_elements :
    let l := elemAddrs 0x804000 [(64, 0x2000), (4, 0x80000), (2, 0x400)]
    l.length = 512 ∧ l[0]? = some 0x804000 ∧ l[1]? = some 0x806000 ∧ l[64]? = some 0x884000 ∧ l[256]? = some 0x804400 ∧ l[511]? = some 0xA02400 := by
  decide +kernel

/-- The same from ag2 as the example writes it: BASE 80_0000h, levels 3Fh, 3 and 1 with their strides, OPA 4000h. -/
theorem test_descriptor :
    let d := agDesc (leBytes 8 0x800000 ++ [0, 3] ++ leBytes 2 16 ++ zeros 4 ++ leBytes 8 0x2000003F ++ leBytes 8 0x800000003 ++ leBytes 8 0x4000001 ++ zeros 24)
    d.ok = true ∧ d.space = 0 ∧ d.elem = 16 ∧ d.levels = [(64, 0x2000), (4, 0x80000), (2, 0x400)] ∧ d.low 0x4000 = 0x804000 ∧ d.high 0x4000 = 0xA02800 := by
  decide +kernel

/-- The example of R272: UINT8 operands, K 4, ZA 128, zb 120, rows 130, 125, 140, 128 and 118, 125, 120, 100 give -19. -/
theorem test_zero_points :
    let d := { mDesc (mdesc 1 1 1 0x800 7 3) with za := 128, k := 4, m := 1, n := 1 }
    let row (a b c e : Byte) : List (List Byte × Bool) := [([a], false), ([b], false), ([c], false), ([e], false)]
    let o : UnitOps := ⟨(2, 0), row 130 125 140 128, row 118 125 120 100, [], false⟩
    let x := { base4 with tile := Mem.write 0 (Mem.write 0 [] 0x4400 (leBytes 4 463)) 0x5280 [120] }
    (intElem x d o 0 0).1 = -19 := by decide +kernel

/-- The distance of codes is the number of bits in which they differ. -/
theorem test_hamming : hamming [0xFF, 0x0F, 0] [0, 0xFF, 1] = 13 := by decide

/-- The schema of Table 4.8 and its predicate, on records that it keeps and drops. -/
def corpus : List FieldD := [⟨0x10, 0, 0, 8⟩, ⟨7, 0, 0, 0x10⟩, ⟨7, 0, 0, 0x14⟩, ⟨6, 0, 0, 0x18⟩, ⟨5, 0, 0, 0x1A⟩, ⟨0x18, 0, 64, 0x20⟩, ⟨0x10, 0, 0, 0x28⟩]

def pterm (op fld value : Nat) : List Byte := leBytes 1 op ++ [0] ++ leBytes 2 fld ++ zeros 4 ++ leBytes 8 value

def keepWeb : List Byte :=
  [1, 8] ++ zeros 6 ++ pterm 1 3 1 ++ pterm 6 4 3 ++ pterm 0x20 0 0 ++ pterm 6 1 64 ++ pterm 0x20 0 0 ++ pterm 9 2 6 ++ pterm 0x22 0 0 ++ pterm 0x20 0 0

def webRec (tokens flags language quality : Nat) : Rec :=
  ⟨0, [(1, leBytes 4 tokens), (2, leBytes 4 flags), (3, leBytes 2 language), (4, leBytes 1 quality)], [], [], [], [], 0, false, []⟩

theorem test_predicate :
    keepWeb.length = 136 ∧ passes corpus (termsOf keepWeb) (webRec 64 1 1 3) = true ∧
    ∀ r ∈ [webRec 63 1 1 3, webRec 64 2 1 3, webRec 64 4 1 3, webRec 64 1 2 3, webRec 64 1 1 2], passes corpus (termsOf keepWeb) r = false := by
  decide +kernel

/-- Strings of 0.114 F, 35 J each at 307.2 J per farad, at 30.4 V: 280 J allow 31 GiB (the example of Table 14.4, R401, R407). -/
theorem test_allowance :
    { ready.cis with strings := (List.range 9).map fun i => ⟨1140, 0, 1, 30400, if i = 8 then 1 else 0, 0⟩ }.allowance 32 = 31 := by decide +kernel

/-- The wake-ups of the example after R429: the first owned period grants ten stacks, the second two stacks and twelve clusters. -/
def waking (surges : List Surge) : State :=
  { tracking 2 3 with
    cfg := { (tracking 2 3).cfg with conf := { (tracking 2 3).cfg.conf with stepw := 150 } }
    pwr := { (tracking 2 3).pwr with surges := surges } }

def stackSurges (l : List Nat) : List Surge := l.map fun n => ⟨2, .stack n, 150, 0⟩
def clusterSurges : List Surge := (List.range 32).map fun n => ⟨3, .cluster n, 95, 0⟩

theorem test_first_wake :
    (nextOf (exec .surrogatePeriod (waking (stackSurges (List.range 12) ++ clusterSurges)))).pwr.grants.map (·.unit) =
      (List.range 10).map GUnit.stack := by decide +kernel

theorem test_second_wake :
    (nextOf (exec .surrogatePeriod (waking (stackSurges [10, 11] ++ clusterSurges)))).pwr.grants.map (·.unit) =
      [.stack 10, .stack 11] ++ (List.range 12).map GUnit.cluster := by decide +kernel

/-- The value of a register after one instruction of cluster 4, its words and registers as given. -/
def regAfter (i : Instr) (ws : List Nat) (g : List (Nat × Nat)) (r : Nat) : Nat := ((nextOf (exec i (at4 (core4 ws g)))).clu 4).core.reg r |>.toNat

/-- Table 8.5: ADDI wraps, SRAI keeps the sign, LIH keeps the low half. -/
theorem test_addi_wraps : let w := ins 1 2 2 1; regAfter (.addi 4 (BitVec.ofNat 32 w)) [w] [(2, 2 ^ 64 - 1)] 2 = 0 := by decide +kernel
theorem test_srai_sign : let w := ins 7 3 2 63; regAfter (.srai 4 (BitVec.ofNat 32 w)) [w] [(2, 2 ^ 63)] 3 = 2 ^ 64 - 1 := by decide +kernel
theorem test_lih : let w := ins 9 3 0 0; regAfter (.lih 4 (BitVec.ofNat 32 w) 0x80000001) [w, 0x80000001] [(3, 0x12345678)] 3 = 0x8000000112345678 := by
  decide +kernel
theorem test_mulhu : let w := ins 0 3 2 (2 * 2 ^ 11 + 16); regAfter (.alu 4 (BitVec.ofNat 32 w)) [w] [(2, 2 ^ 64 - 1)] 3 = 2 ^ 64 - 2 := by decide +kernel
theorem test_slt_signed : let w := ins 0 3 2 (1 * 2 ^ 11 + 9); regAfter (.alu 4 (BitVec.ofNat 32 w)) [w] [(2, 2 ^ 64 - 1), (1, 0)] 3 = 1 := by decide +kernel

/-- A store of a byte leaves the byte above it; a load of two bytes is not extended by its sign (Table 8.5). -/
theorem test_store_byte :
    let w := ins 0x17 2 1 3
    Mem.read 0 ((nextOf (exec (.sb 4 (BitVec.ofNat 32 w)) (at4 (core4 [w] [(1, 5), (2, 0xABCD)])))).clu 4).core.dm 8 2 = [0xCD, 0] := by decide +kernel

/-- BEQ jumps by its offset in words; LOOP of none goes past its body. -/
theorem test_beq : let w := ins 0x18 1 2 0xFFFF; ((nextOf (exec (.beq 4 (BitVec.ofNat 32 w)) (at4 (core4 [w])))).clu 4).core.pc = 60 := by decide +kernel
theorem test_loop_none : let w := 0x20 * 2 ^ 26 + 2; ((nextOf (exec (.loop 4 (BitVec.ofNat 32 w)) (at4 (core4 [w])))).clu 4).core.pc = 76 := by decide +kernel

/-- An NVM subsystem reset needs 4E564D65h; a power-good below 42 V starts nothing (R428, R447). -/
theorem test_reset_code : (nextOf (exec (.nvmSubsystemReset 0x4E564D65) ready)).boot.phase = .fill ∧
    (nextOf (exec (.nvmSubsystemReset 0x4E564D64) ready)).boot.phase = .ready := by decide +kernel
theorem test_power_good : (nextOf (exec (.powerGood 3 true 4800) State.reset)).boot.phase = .fill := by decide +kernel

/-- An Abort is answered at once, by one completion in queue 0. -/
theorem test_abort_answers :
    ((nextOf (exec (.adminAbort (cm 0)) ready)).nvm.cqs.filter fun k => k.id == 0).map (·.tail) = [3] := by decide +kernel

end Sys2Proof.Tests
end

section
/-! SUPPORT. Reading a canonical memory, programming a canonical boot flash, and the end of a boot flash operation in a quiet state. -/

namespace Sys2Proof.Machine

namespace Mem

/-- Reading on from below every cell of a canonical memory gives each byte as it stands at its address. -/
theorem readFrom_eq_map_get {d : Byte} {n a : Nat} {m : Mem} (h : wfFrom d a m = true) :
    readFrom d n a m = (List.range' a n).map (get d m) := by
  induction n generalizing a m with
  | zero => rfl
  | succ n ih =>
    match m with
    | [] => rw [readFrom, ih (m := []) rfl]; rfl
    | (k, b) :: m =>
      simp only [wfFrom, Bool.and_eq_true, decide_eq_true_eq] at h
      rw [readFrom, List.range'_succ, List.map_cons]
      split
      · next hk =>
        have hhead : get d ((k, b) :: m) a = b := by
          rw [get, List.find?_cons_of_pos (by exact beq_iff_eq.2 hk)]
        rw [ih (hk ▸ h.2), hhead]
        congr 1
        refine List.map_congr_left fun x hx => ?_
        have := (List.mem_range'_1.1 hx).1
        refine (get_append_of_absent (m := [(k, b)]) fun c hc => ?_).symm
        rw [List.mem_singleton.1 hc]
        show k ≠ x
        omega
      · next hk =>
        have hlt : a + 1 ≤ k := by omega
        have habsent : get d ((k, b) :: m) a = d := get_absent fun c hc => by
          rcases List.mem_cons.1 hc with rfl | hc
          · exact hk
          · have := le_of_wfFrom h.2 c hc
            omega
        have hrest : wfFrom d (a + 1) ((k, b) :: m) = true := by
          simp only [wfFrom, Bool.and_eq_true, decide_eq_true_eq]
          exact ⟨⟨hlt, h.1.2⟩, h.2⟩
        rw [ih hrest, habsent]

/-- What lies below the address of a read does not matter to a canonical memory. -/
theorem wfFrom_dropWhile_lt {d : Byte} {m : Mem} {lo a : Nat} (h : wfFrom d lo m = true) :
    wfFrom d a (m.dropWhile fun c => decide (c.1 < a)) = true := by
  induction m generalizing lo with
  | nil => rfl
  | cons c m ih =>
    obtain ⟨k, b⟩ := c
    simp only [wfFrom, Bool.and_eq_true, decide_eq_true_eq] at h
    by_cases hk : k < a
    · rw [List.dropWhile_cons_of_pos (by exact decide_eq_true hk)]
      exact ih h.2
    · rw [List.dropWhile_cons_of_neg (by exact mt of_decide_eq_true hk)]
      simp only [wfFrom, Bool.and_eq_true, decide_eq_true_eq]
      exact ⟨⟨Nat.le_of_not_lt hk, h.1.2⟩, h.2⟩

theorem get_dropWhile_lt {d : Byte} {m : Mem} {a k : Nat} (h : a ≤ k) :
    get d (m.dropWhile fun c => decide (c.1 < a)) k = get d m k := by
  have hbelow : ∀ c ∈ m.takeWhile (fun c => decide (c.1 < a)), c.1 ≠ k := fun c hc => by
    have hlt := List.all_eq_true.1 List.all_takeWhile c hc
    have : c.1 < a := of_decide_eq_true hlt
    omega
  calc get d (m.dropWhile fun c => decide (c.1 < a)) k
      = get d (m.takeWhile (fun c => decide (c.1 < a)) ++ m.dropWhile fun c => decide (c.1 < a)) k :=
        (get_append_of_absent hbelow).symm
    _ = get d m k := by rw [List.takeWhile_append_dropWhile]

/-- A read of a canonical memory gives each byte as it stands at its address. -/
theorem read_eq_map_get {d : Byte} {m : Mem} (h : wf d m = true) (a n : Nat) :
    read d m a n = (List.range' a n).map (get d m) := by
  rw [read, readFrom_eq_map_get (wfFrom_dropWhile_lt h)]
  exact List.map_congr_left fun x hx => get_dropWhile_lt (List.mem_range'_1.1 hx).1

end Mem

/-- Programming a canonical flash clears the bits that its data has as 0, and leaves the other bytes as they are (R434). -/
theorem Boot.byteAt_program {b : Boot} (h : Mem.wf 0xFF b.flash = true) (a k : Nat) (d : List Byte) :
    (b.program a d).byteAt k =
      if a ≤ k ∧ k < a + d.length then b.byteAt k &&& d.getD (k - a) 0 else b.byteAt k := by
  have hlen : (((Mem.read 0xFF b.flash a d.length).zip d).map fun x => x.1 &&& x.2).length = d.length := by
    simp only [Mem.read_eq_map_get h, List.length_map, List.length_zip, List.length_range', Nat.min_self]
  show b.baseAt k &&& Mem.get 0xFF (b.program a d).flash k = _
  rw [Boot.program, Mem.get_write, hlen]
  split
  · next hk =>
    have hj : k - a < d.length := by omega
    have hold : (Mem.read 0xFF b.flash a d.length)[k - a]? = some (Mem.get 0xFF b.flash k) := by
      rw [Mem.read_eq_map_get h, List.getElem?_map, List.getElem?_range' hj, Nat.one_mul, Nat.add_sub_cancel' hk.1]
      rfl
    have hnew : (((Mem.read 0xFF b.flash a d.length).zip d).map fun x => x.1 &&& x.2).getD (k - a) 0xFF =
        Mem.get 0xFF b.flash k &&& d.getD (k - a) 0 := by
      rw [List.getD_eq_getElem?_getD, List.getElem?_map, List.zip, List.getElem?_zipWith, hold, List.getElem?_eq_getElem hj,
        List.getD_eq_getElem?_getD, List.getElem?_eq_getElem hj]
      rfl
    rw [hnew, Boot.byteAt, BitVec.and_assoc]
  · rfl

/-- The boot flash interface is nothing that a quiet state rests on. -/
theorem State.quiet.modBoot {s : State} (h : s.quiet) (f : Boot → Boot) : (s.modBoot f).quiet :=
  ⟨⟨h.escalate, h.waiting, h.pend, h.bind, h.parts⟩, h.flights, h.sqs⟩

/-- The count of free values is nothing that a quiet state rests on. -/
theorem State.quiet.modFree {s : State} (h : s.quiet) (f : Nat → Nat) : (s.modFree f).quiet :=
  ⟨⟨h.escalate, h.waiting, h.pend, h.bind, h.parts⟩, h.flights, h.sqs⟩

theorem State.quiet.spoil {s : State} (h : s.quiet) (a n : Nat) : (spoil a n s).quiet := (h.modBoot _).modFree _

theorem State.quiet.drawBytes {s : State} (h : s.quiet) (n : Nat) : (drawBytes n s).2.quiet :=
  h.modFree (· + n)

/-- The end of a boot flash operation changes the boot flash interface and draws free values: nothing follows of itself from it. -/
theorem flashOver_quiet {s : State} (h : s.quiet) (o : FlashOp) (passed : Bool) (pulses : Nat) :
    (flashOver o passed pulses s).quiet := by
  have hended : ∀ f g : Boot → Boot, (if o.op = 2 then (s.modBoot f).modBoot g else s.modBoot f).quiet := fun f g => by
    split
    · exact (h.modBoot f).modBoot g
    · exact h.modBoot f
  unfold flashOver
  dsimp only
  split
  · exact (hended _ _).modBoot _
  · exact (hended _ _).spoil _ _
  · exact (hended _ _).spoil _ _
  · exact ((hended _ _).drawBytes _).modBoot _
  · exact (hended _ _).modBoot _

/-- The end of the operation that runs is the whole step of a quiet sled. -/
theorem exec_bootFlashOperationDone {s : State} {o : FlashOp} (h : s.quiet) (ho : s.boot.op = some o) (passed : Bool)
    (pulses : Nat) : exec (.bootFlashOperationDone passed pulses) s = .next (flashOver o passed pulses s) := by
  show execBootFlashOperationDone passed pulses s = _
  rw [execBootFlashOperationDone, ho]
  show Host.Outcome.next (settle _) = _
  rw [settle_quiet (flashOver_quiet h o passed pulses)]

/-- A program that passes leaves the bytes that programming its data leaves (R434, R436, R437). -/
theorem flashOver_passed_program_byteAt {o : FlashOp} (h : o.op = 1 ∨ o.op = 2) (pulses : Nat) (s : State) (a : Nat) :
    (flashOver o true pulses s).boot.byteAt a = (s.boot.program o.addr o.data).byteAt a := by
  unfold flashOver
  rcases h with h | h <;> rw [h] <;> rfl

/-- A program that passes on a canonical flash clears the bits that its data has as 0, and those alone (R434). -/
theorem bootFlashOperationDone_program_byteAt {s : State} {o : FlashOp} (h : s.quiet) (hw : Mem.wf 0xFF s.boot.flash = true)
    (ho : s.boot.op = some o) (hop : o.op = 1 ∨ o.op = 2) (pulses : Nat) :
    ∃ t, exec (.bootFlashOperationDone true pulses) s = .next t ∧
      (∀ j < o.data.length, t.boot.byteAt (o.addr + j) = s.boot.byteAt (o.addr + j) &&& o.data.getD j 0) ∧
      ∀ a, ¬(o.addr ≤ a ∧ a < o.addr + o.data.length) → t.boot.byteAt a = s.boot.byteAt a := by
  refine ⟨_, exec_bootFlashOperationDone h ho true pulses, fun j hj => ?_, fun a ha => ?_⟩
  · rw [flashOver_passed_program_byteAt hop, Boot.byteAt_program hw, if_pos (by omega), Nat.add_sub_cancel_left]
  · rw [flashOver_passed_program_byteAt hop, Boot.byteAt_program hw, if_neg ha]

end Sys2Proof.Machine
end

section
/-! CLAIM. O59: the statement does not ask for a canonical boot flash, and without one a program can set a bit. -/

namespace Sys2Proof.Machine

/-- A native program of FFh, which clears no bit, at 4000000h. -/
def programOfOnes : FlashOp := ⟨1, 0x4000000, [0xFF]⟩

/-- A ready sled with its link up and a boot flash of the given cells, on which `programOfOnes` runs. -/
def programming (flash : Mem) : State :=
  { State.reset with
    boot := { Boot.reset with phase := .ready, flash := flash, op := some programOfOnes }
    nvm := { Nvm.reset with link := ⟨true, 128, 8⟩ } }

/-- Two bytes 00h outside the slot, in ascending order and with the later address first: only the first is canonical. -/
def sortedCells : Mem := [(0x4000000, 0), (0x4000004, 0)]
def unsortedCells : Mem := [(0x4000004, 0), (0x4000000, 0)]

theorem opened_programming (flash : Mem) : (programming flash).opened where
  escalate := rfl
  waiting := fun _ hi => absurd hi List.not_mem_nil
  pend := fun _ hi => absurd hi List.not_mem_nil
  bind := rfl
  parts := fun x hx => .inr (by
    rw [(List.mem_replicate.1 hx).2]
    decide)
  flights := rfl
  sqs := fun _ hq => absurd hq List.not_mem_nil
  bus := rfl
  phase := fun h => BootPhase.noConfusion h
  ps := Nat.zero_lt_succ 2

theorem sortedCells_wf : Mem.wf 0xFF (programming sortedCells).boot.flash = true := by decide
theorem sortedCells_byteAt : (programming sortedCells).boot.byteAt 0x4000000 = 0 := by decide
theorem unsortedCells_byteAt : (programming unsortedCells).boot.byteAt 0x4000000 = 0 := by decide

/-- A read of the unsorted cells does not get past the later address, so that FFh is programmed over 00h as over an erased byte. -/
theorem unsortedCells_program_byteAt :
    ((programming unsortedCells).boot.program programOfOnes.addr programOfOnes.data).byteAt 0x4000000 = 0xFF := by decide

/-- On the sorted cells the program of FFh leaves 00h as it is. -/
theorem sortedCells_programmed : ∃ t, exec (.bootFlashOperationDone true 0) (programming sortedCells) = .next t ∧
    t.boot.byteAt 0x4000000 = 0 := by
  obtain ⟨t, ht, hbytes, -⟩ :=
    bootFlashOperationDone_program_byteAt (opened_programming sortedCells).toquiet sortedCells_wf rfl (o := programOfOnes) (.inl rfl) 0
  refine ⟨t, ht, ?_⟩
  calc t.boot.byteAt 0x4000000
      = (programming sortedCells).boot.byteAt 0x4000000 &&& 0xFF := hbytes 0 Nat.zero_lt_one
    _ = 0 &&& 0xFF := by rw [sortedCells_byteAt]
    _ = 0 := by decide

/-- Refutes O59: `State.opened` lets the cells of the boot flash stand in any order, and `Boot.program` reads the old bytes in one pass
over them. On `unsortedCells` a native program of FFh that passes therefore leaves FFh at its address, where the statement asks for
00h &&& FFh. With a canonical flash, as `State.ok` has it and every step keeps it, the clause holds
(`bootFlashOperationDone_program_byteAt`). -/
theorem not_registersReadAndWrite : ¬ Obligations.RegistersReadAndWrite := by
  unfold Obligations.RegistersReadAndWrite
  intro h
  obtain ⟨-, -, -, -, -, -, -, -, hdone⟩ := h (programming unsortedCells) (opened_programming _)
  obtain ⟨t, ht, -, -, -, hprogram, -⟩ := hdone programOfOnes true 0 rfl
  rw [exec_bootFlashOperationDone (opened_programming _).toquiet rfl] at ht
  obtain rfl := Host.Outcome.next.inj ht
  have hbyte := (hprogram (.inl rfl) rfl).1 0 Nat.zero_lt_one
  rw [flashOver_passed_program_byteAt (.inl rfl)] at hbyte
  have hset : (0xFF : Byte) = 0 &&& 0xFF := calc
    (0xFF : Byte) = _ := unsortedCells_program_byteAt.symm
    _ = (programming unsortedCells).boot.byteAt 0x4000000 &&& 0xFF := hbyte
    _ = 0 &&& 0xFF := by rw [unsortedCells_byteAt]
  exact absurd hset (by decide)

end Sys2Proof.Machine
end

section
/-! SUPPORT. A command in flight: its audit entry, its phase and its job; what its checks do not read. -/

namespace Sys2Proof.Machine

section Flying

variable {s u : State} {q : Sq} {f : Flight} {cr : List Nat} {ser : Option Nat} {out : List HostWrite}

theorem flight?_flying {sqid cid : Nat} (h : f.is sqid cid = true) :
    (u.flying s q f cr ser out).flight? sqid cid = some f := List.find?_cons_of_pos h

theorem setPhase_flying {sqid cid : Nat} (h : f.is sqid cid = true) (ph : Phase) :
    setPhase sqid cid ph (u.flying s q f cr ser out) = u.flying s q (f.inPhase ph) cr ser out := by
  have : [f].map (fun g => if g.is sqid cid then { g with phase := ph } else g) = [f.inPhase ph] := by
    rw [List.map_singleton, if_pos h]
    rfl
  show ({ u.flying s q f cr ser out with nvm := { (u.flying s q f cr ser out).nvm with flights := _ } } : State) = _
  rw [show (u.flying s q f cr ser out).nvm.flights = [f] from rfl, this]
  rfl

/-- The entry of a command that has been fetched is its own. -/
theorem entryOf_is (q : Sq) (opc : BitVec 8) (c : Cmd) (s : State) : (entryOf q opc c s).is q.id c.cid = true := by
  simp [entryOf, Flight.is]

/-- The job of a command has the fetch number and the fetch time of its entry (R292). -/
theorem jobOf_flying {c : Cmd} (h : f.is c.sqid c.cid = true) (opc : Nat) :
    jobOf opc c (u.flying s q f cr ser out) =
      { sqid := c.sqid, cid := c.cid, order := f.order, opc := opc, cmd := c, part := partOf c, jq := jqOf c
        dl := dlOf c, deadline := c.cdw14.toNat, fetched := f.fetched, kind := .command } := by
  unfold jobOf
  rw [flight?_flying h]
  rfl

theorem checkStageObjs_flying (c : Cmd) (schema : Option (List FieldD)) (prev : Option StageD) (ds : List StageD) :
    checkStageObjs (u.flying s q f cr ser out) c schema prev ds = checkStageObjs u c schema prev ds := by
  induction ds generalizing prev with
  | nil => rfl
  | cons d ds ih =>
    have hd : checkStageObj (u.flying s q f cr ser out) c schema prev d = checkStageObj u c schema prev d := rfl
    rw [checkStageObjs, checkStageObjs, hd, ih]

/-- The checks of a query command read neither the controller nor what has been written to the host. -/
theorem checkQuery_flying (opc : Nat) (c : Cmd) : checkQuery opc c (u.flying s q f cr ser out) = checkQuery opc c u := by
  have : checkObjects opc c (u.flying s q f cr ser out) = checkObjects opc c u := by
    unfold checkObjects
    dsimp only
    rw [checkStageObjs_flying]
    rfl
  unfold checkQuery
  rw [this]
  rfl

/-- Nor do the checks of an Index Create. -/
theorem icCheck_flying (c : Cmd) : icCheck c (u.flying s q f cr ser out) = icCheck c u := rfl

/-- A command that writes nothing to its data buffer, or `b` to its start. -/
theorem hostData_flying (sqid cid : Nat) (b : List Byte) :
    hostData sqid cid 0 b (u.flying s q f cr ser []) =
      u.flying s q f cr ser (if b = [] then [] else [.data sqid cid 0 u.nvm.pci.relaxed b]) := by
  unfold hostData
  cases b with
  | nil => rfl
  | cons x l =>
    rw [if_neg Bool.noConfusion, if_neg (List.cons_ne_nil x l)]
    unfold State.flying State.modHostWrites
    rw [List.append_nil]

end Flying

variable {s u : State} {q : Sq} {k : Cq}

/-- An I/O command that fails at a dword. -/
theorem io_badDword {c : Cmd} {opc : BitVec 8} {d : Nat} (h : IoTurn s q k c)
    (hr : ∀ cr, runIo opc.toNat c (s.flying s q (entryOf q opc c s) cr s.nvm.serial []) =
      badDword d c (s.flying s q (entryOf q opc c s) cr s.nvm.serial [])) :
    Completes (ioRow opc c s) s q k c.cid .invalidField d 0 [] s :=
  io_completes h h.1.lands rfl (by decide) fun cr => by
    rw [hr cr, ← h.2.2]
    rfl

/-- The entry that the fetch of an I/O command makes is found under the command's own key. -/
theorem IoTurn.entry_is {c : Cmd} (h : IoTurn s q k c) (opc : BitVec 8) : (entryOf q opc c s).is c.sqid c.cid = true := by
  rw [h.2.2]
  exact entryOf_is q opc c s

end Sys2Proof.Machine
end

section
/-! SUPPORT. Result sets: the use of a set by a command ends, and a set is released (R113, R114). -/

namespace Sys2Proof.Machine

/-- The pool with its units changed. -/
def State.modUnits (g : List PoolUnit → List PoolUnit) (s : State) : State := s.modResv fun r => { r with units := g r.units }

theorem State.modUnits_modUnits (g h : List PoolUnit → List PoolUnit) (s : State) :
    (s.modUnits g).modUnits h = s.modUnits fun l => h (g l) := rfl

/-- Changes of the pool's units, one after another, change the units and nothing else. -/
theorem foldl_modUnits {α : Type} {f : State → α → State} {g : Nat → List PoolUnit → α → List PoolUnit}
    (hf : ∀ s a, f s a = s.modUnits fun l => g s.now l a) (as : List α) (s : State) :
    as.foldl f s = s.modUnits fun l => as.foldl (g s.now) l := by
  induction as generalizing s with
  | nil => rfl
  | cons a as ih =>
    rw [List.foldl_cons, hf, ih]
    rfl

/-- A set that a command no longer uses. -/
def ResultSet.without (key : Nat × Nat) (x : ResultSet) : ResultSet := { x with users := x.users.filter fun k => k != key }

/-- A set that has been released and has no user left. -/
def ResultSet.dead (x : ResultSet) : Bool := x.released && x.users.isEmpty

/-- The units of a result set, with one use less, and with their age moved on after a fetch. -/
def endUse (fetch : Bool) (now : Nat) (l : List PoolUnit) (x : ResultSet) : List PoolUnit :=
  l.map fun u => if u.cls == 0 && u.key == x.handle then
    { u with users := u.users - 1, age := if fetch then max u.age now else u.age } else u

/-- The units without those of a result set. -/
def withoutSet (l : List PoolUnit) (x : ResultSet) : List PoolUnit := l.filter fun u => !(u.cls == 0 && u.key == x.handle)

/-- The end of a use changes the sets and the units of the pool, and nothing else. -/
theorem unuseSets_eq (fetch : Bool) (key : Nat × Nat) (s : State) :
    unuseSets fetch key s =
      (s.modRes fun r => { r with sets := (r.sets.map (ResultSet.without key)).filter fun x => !x.dead }).modUnits fun l =>
        ((s.res.sets.map (ResultSet.without key)).filter ResultSet.dead).foldl withoutSet
          ((s.res.sets.filter fun x => x.users.contains key).foldl (endUse fetch s.now) l) := by
  unfold unuseSets
  dsimp only
  rw [foldl_modUnits (f := fun (s : State) (x : ResultSet) => modUnit 0 x.handle (fun u =>
      { u with users := u.users - 1, age := if fetch then max u.age s.now else u.age }) s)
    (g := fun now => endUse fetch now) fun _ _ => rfl]
  exact foldl_modUnits (g := fun _ => withoutSet) (fun _ _ => rfl) _ _

section Flying

variable {s u : State} {q : Sq} {f : Flight} {cr : List Nat} {ser : Option Nat} {out : List HostWrite}

theorem unuseSets_flying (fetch : Bool) (key : Nat × Nat) :
    unuseSets fetch key (u.flying s q f cr ser out) = (unuseSets fetch key u).flying s q f cr ser out := by
  rw [unuseSets_eq, unuseSets_eq]
  rfl

theorem releaseSet_flying (handle : Nat) :
    releaseSet handle (u.flying s q f cr ser out) = (releaseSet handle u).flying s q f cr ser out :=
  unuseSets_flying (u := u.modRes fun r => { r with
    sets := r.sets.map fun x => if x.handle == handle then { x with released := true } else x }) false _

end Flying

/-- No set is released, and no command uses one. -/
def State.setsIdle (s : State) : Prop := ∀ x ∈ s.res.sets, x.released = false ∧ x.users = []

/-- Units that no set of a list owns are what is left when each of its sets has given up its own. -/
theorem foldl_withoutSet {handle : Nat} (ds : List ResultSet) (hd : ∀ x ∈ ds, x.handle = handle) (hne : ds ≠ [])
    (l : List PoolUnit) : ds.foldl withoutSet l = l.filter fun u => !(u.cls == 0 && u.key == handle) := by
  induction ds generalizing l with
  | nil => exact absurd rfl hne
  | cons d ds ih =>
    rw [List.foldl_cons, withoutSet, hd d List.mem_cons_self]
    rcases ds with - | ⟨e, ds⟩
    · rfl
    · rw [ih (fun x hx => hd x (List.mem_cons_of_mem _ hx)) (List.cons_ne_nil e ds), List.filter_filter]
      simp only [Bool.and_self]

/-- A set marked as released, if it is the one with the handle. -/
def ResultSet.marked (handle : Nat) (x : ResultSet) : ResultSet := if x.handle == handle then { x with released := true } else x

theorem ResultSet.without_of_unused {x : ResultSet} (h : x.users = []) (key : Nat × Nat) : x.without key = x := by
  obtain ⟨⟩ := x
  cases h
  rfl

theorem ResultSet.without_used {x : ResultSet} (h : x.users = []) (key : Nat × Nat) :
    ResultSet.without key { x with users := x.users ++ [key] } = x := by
  obtain ⟨⟩ := x
  cases h
  simp [ResultSet.without]

@[simp] theorem ResultSet.marked_handle (handle : Nat) (x : ResultSet) : (x.marked handle).handle = x.handle := by
  unfold marked
  split <;> rfl

@[simp] theorem ResultSet.marked_users (handle : Nat) (x : ResultSet) : (x.marked handle).users = x.users := by
  unfold marked
  split <;> rfl

/-- Of the sets that no command uses, the one that is released is dead, and no other. -/
theorem ResultSet.dead_marked {x : ResultSet} (h : x.released = false ∧ x.users = []) (handle : Nat) :
    (x.marked handle).dead = (x.handle == handle) := by
  rw [dead, marked_users, h.2, marked]
  split
  · next e => rw [e]; rfl
  · next e => rw [h.1, eq_false_of_ne_true e]; rfl

variable {s : State}

/-- A use that begins and ends leaves the sets as they were; only the units of the pool show it. -/
theorem unuseSets_useSet (h : s.setsIdle) (fetch : Bool) (key : Nat × Nat) (handle : Nat) :
    ∃ g, unuseSets fetch key (useSet handle key s) = s.modUnits g := by
  have hsets : (s.res.sets.map fun x => if x.handle == handle then { x with users := x.users ++ [key] } else x).map
      (ResultSet.without key) = s.res.sets := by
    rw [List.map_map]
    refine (List.map_congr_left fun x hx => ?_).trans (List.map_id _)
    show ResultSet.without key (if x.handle == handle then { x with users := x.users ++ [key] } else x) = x
    split
    · exact ResultSet.without_used (h x hx).2 key
    · exact ResultSet.without_of_unused (h x hx).2 key
  have hlive : (s.res.sets.filter fun x => !x.dead) = s.res.sets := List.filter_eq_self.2 fun x hx => by
    rw [ResultSet.dead, (h x hx).1]
    rfl
  have hres : ((useSet handle key s).modRes fun r =>
      { r with sets := (r.sets.map (ResultSet.without key)).filter fun x => !x.dead }) =
      s.modUnits fun l => l.map fun u => if u.cls == 0 && u.key == handle then { u with users := u.users + 1 } else u := by
    show ({ s with res := { s.res with sets := (List.map _ (List.map _ s.res.sets)).filter _ }, resv := _ } : State) = _
    rw [hsets, hlive]
    rfl
  rw [unuseSets_eq, hres]
  exact ⟨_, State.modUnits_modUnits _ _ _⟩

/-- Sets that no command uses are gone with the release of their handle, and with them their units (R114). -/
theorem releaseSet_idle (h : s.setsIdle) {r : ResultSet} {handle : Nat} (hr : r ∈ s.res.sets) (hh : r.handle = handle) :
    releaseSet handle s = (s.modRes fun x => { x with sets := x.sets.filter fun x => x.handle != handle }).modUnits fun l =>
      l.filter fun u => !(u.cls == 0 && u.key == handle) := by
  have hwithout : (s.res.sets.map (ResultSet.marked handle)).map (ResultSet.without (0x10000, 0x10000)) =
      s.res.sets.map (ResultSet.marked handle) := by
    refine (List.map_congr_left fun x hx => ?_).trans (List.map_id _)
    obtain ⟨y, hy, rfl⟩ := List.mem_map.1 hx
    exact ResultSet.without_of_unused ((y.marked_users handle).trans (h y hy).2) _
  have hunused : ((s.res.sets.map (ResultSet.marked handle)).filter fun x => x.users.contains (0x10000, 0x10000)) = [] := by
    refine List.filter_eq_nil_iff.2 fun x hx => ?_
    obtain ⟨y, hy, rfl⟩ := List.mem_map.1 hx
    rw [ResultSet.marked_users, (h y hy).2]
    exact Bool.noConfusion
  have hkept : ((s.res.sets.map (ResultSet.marked handle)).filter fun x => !x.dead) =
      s.res.sets.filter fun x => x.handle != handle := by
    rw [List.filter_map, List.filter_congr (q := fun x => x.handle != handle) fun x hx => by
      rw [Function.comp_apply, ResultSet.dead_marked (h x hx), bne]]
    refine (List.map_congr_left fun x hx => ?_).trans (List.map_id _)
    exact if_neg (by simpa using (List.mem_filter.1 hx).2)
  have hdead : ∀ x ∈ (s.res.sets.map (ResultSet.marked handle)).filter ResultSet.dead, x.handle = handle := fun x hx => by
    obtain ⟨hm, hd⟩ := List.mem_filter.1 hx
    obtain ⟨y, hy, rfl⟩ := List.mem_map.1 hm
    rw [ResultSet.dead_marked (h y hy)] at hd
    exact (y.marked_handle handle).trans (eq_of_beq hd)
  have hsome : (s.res.sets.map (ResultSet.marked handle)).filter ResultSet.dead ≠ [] :=
    List.ne_nil_of_mem (List.mem_filter.2 ⟨List.mem_map_of_mem hr, (ResultSet.dead_marked (h r hr) handle).trans (beq_iff_eq.2 hh)⟩)
  have hres : ((s.modRes fun r => { r with sets := r.sets.map (ResultSet.marked handle) }).modRes fun r =>
      { r with sets := (r.sets.map (ResultSet.without (0x10000, 0x10000))).filter fun x => !x.dead }) =
      s.modRes fun x => { x with sets := x.sets.filter fun x => x.handle != handle } := by
    show ({ s with res := { s.res with sets := (List.map _ (List.map _ s.res.sets)).filter _ } } : State) = _
    rw [hwithout, hkept]
    rfl
  show unuseSets false (0x10000, 0x10000) (s.modRes fun r => { r with sets := r.sets.map (ResultSet.marked handle) }) = _
  rw [unuseSets_eq, hres, State.modRes_res]
  dsimp only
  rw [hwithout, hunused]
  exact congrArg (State.modUnits · _) (funext fun l => foldl_withoutSet _ hdead hsome l)

end Sys2Proof.Machine
end

section
/-! CLAIM. O32: Result Fetch and Result Release, case by case, and the statement. -/

namespace Sys2Proof.Machine

variable {s : State} {c : Cmd} {r : ResultSet}

theorem effResultFetch_unnamed (hc : checkQuery 0xAA c s = none) (hr : s.resultSet? c.nsid (bits c.cdw13.toNat 15 0) = none) :
    effResultFetch c s = badDword 13 c s := by
  unfold effResultFetch
  rw [hc, hr]

theorem effResultFetch_below (hc : checkQuery 0xAA c s = none) (hr : s.resultSet? c.nsid (bits c.cdw13.toNat 15 0) = some r)
    (hoff : c.cdw14.toNat * 4096 < r.first) : effResultFetch c s = badDword 14 c s := by
  unfold effResultFetch
  rw [hc, hr]
  exact if_pos hoff

/-- A fetch whose reads are delivered, or that reads nothing, answers the bytes and their number (R113). -/
theorem effResultFetch_delivered (hc : checkQuery 0xAA c s = none)
    (hr : s.resultSet? c.nsid (bits c.cdw13.toNat 15 0) = some r) (hoff : r.first ≤ c.cdw14.toNat * 4096) {b : List Byte}
    (hb : b = (r.bytes.drop (c.cdw14.toNat * 4096 - r.first)).take (outlenOf c * 4096)) (hd : c.ok = true ∨ b = []) :
    effResultFetch c s = doneWith c .success 0 b.length
      (hostData c.sqid c.cid 0 b (unuseSets true (keyOf c) (useSet r.handle (keyOf c) s))) := by
  have hgood : (c.ok || b.isEmpty) = true := by
    rcases hd with hd | hd <;> rw [hd]
    · exact Bool.true_or _
    · exact Bool.or_true _
  unfold effResultFetch
  rw [hc, hr]
  dsimp only
  rw [if_neg (Nat.not_lt.2 hoff), ← hb, if_pos hgood]

theorem effResultRelease_unnamed (hc : checkQuery 0xAC c s = none) (hr : s.resultSet? c.nsid (bits c.cdw13.toNat 15 0) = none) :
    effResultRelease c s = badDword 13 c s := by
  unfold effResultRelease
  rw [hc, hr]

theorem effResultRelease_named (hc : checkQuery 0xAC c s = none)
    (hr : s.resultSet? c.nsid (bits c.cdw13.toNat 15 0) = some r) :
    effResultRelease c s = doneWith c .success 0 0 (releaseSet r.handle s) := by
  unfold effResultRelease
  rw [hc, hr]
  rfl

theorem handle_of_resultSet? {nsid handle : Nat} (h : s.resultSet? nsid handle = some r) : r.handle = handle := by
  have := List.find?_some h
  simp only [Bool.and_eq_true] at this
  exact eq_of_beq this.1.1

/-- Result sets and Reservoir have no part in whether a command can complete. -/
theorem State.lands.withPool {q : Sq} {k : Cq} (h : s.lands q k) (x : Results) (v : Resv) :
    State.lands { s with res := x, resv := v } q k :=
  ⟨⟨h.escalate, h.waiting, h.pend, h.bind, h.parts⟩, h.sqs, h.sq, h.cq, h.room, h.backlog⟩

variable {q : Sq} {k : Cq}

theorem resultFetch_delivered (ht : IoTurn s q k c) (hc : checkQuery 0xAA c s = none)
    (hr : s.resultSet? c.nsid (bits c.cdw13.toNat 15 0) = some r) (hoff : r.first ≤ c.cdw14.toNat * 4096) {b : List Byte}
    (hb : b = (r.bytes.drop (c.cdw14.toNat * 4096 - r.first)).take (outlenOf c * 4096)) (hd : c.ok = true ∨ b = [])
    (hidle : s.setsIdle) :
    ∃ g, Completes (exec (.resultFetch c) s) s q k c.cid .success 0 b.length
      (if b = [] then [] else [.data q.id c.cid 0 s.nvm.pci.relaxed b]) (s.modUnits g) := by
  obtain ⟨g, hg⟩ := unuseSets_useSet hidle true (keyOf c) r.handle
  refine ⟨g, io_completes (opc := 0xAA) ht (ht.1.lands.withPool s.res _) rfl (by decide) fun cr => ?_⟩
  show effResultFetch c _ = _
  rw [effResultFetch_delivered ((checkQuery_flying _ _).trans hc) hr hoff hb hd]
  have hflying : useSet r.handle (keyOf c) (s.flying s q (entryOf q 0xAA c s) cr s.nvm.serial []) =
      (useSet r.handle (keyOf c) s).flying s q (entryOf q 0xAA c s) cr s.nvm.serial [] := rfl
  rw [hflying, unuseSets_flying, hg, hostData_flying, doneWith, ht.2.2]
  rfl

theorem resultRelease_idle (ht : IoTurn s q k c) (hc : checkQuery 0xAC c s = none)
    (hr : s.resultSet? c.nsid (bits c.cdw13.toNat 15 0) = some r) (hidle : s.setsIdle) :
    Completes (exec (.resultRelease c) s) s q k c.cid .success 0 0 []
      ((s.modRes fun x => { x with sets := x.sets.filter fun x => x.handle != bits c.cdw13.toNat 15 0 }).modUnits fun l =>
        l.filter fun u => !(u.cls == 0 && u.key == bits c.cdw13.toNat 15 0)) := by
  have hh := handle_of_resultSet? hr
  refine io_completes (opc := 0xAC) ht (ht.1.lands.withPool _ _) rfl (by decide) fun cr => ?_
  show effResultRelease c _ = _
  rw [effResultRelease_named ((checkQuery_flying _ _).trans hc) hr, hh, releaseSet_flying,
    releaseSet_idle hidle (List.mem_of_find?_eq_some hr) hh, doneWith, ht.2.2]
  rfl

/-- Settles O32: a use of a set that begins and ends with its command leaves the sets as they were (`unuseSets_useSet`), and the release
of sets that nothing uses removes them and their units (`releaseSet_idle`). -/
theorem resultSetsAreFetchedAndReleased : Obligations.ResultSetsAreFetchedAndReleased := by
  unfold Obligations.ResultSetsAreFetchedAndReleased
  rintro s q k c h ht rfl
  refine ⟨?_, ?_, ?_, ?_⟩
  · rintro r off b hc hr rfl
    refine ⟨fun hoff => io_badDword (opc := 0xAA) ht fun cr =>
      effResultFetch_below ((checkQuery_flying _ _).trans hc) hr hoff, fun hoff hb hd hidle => ?_⟩
    obtain ⟨g, hg⟩ := resultFetch_delivered ht hc hr hoff hb hd hidle
    exact ⟨_, hg, rfl, rfl⟩
  · intro hc hr
    exact io_badDword (opc := 0xAA) ht fun cr => effResultFetch_unnamed ((checkQuery_flying _ _).trans hc) hr
  · intro r hc hr hidle
    exact ⟨_, resultRelease_idle ht hc hr hidle, rfl, rfl, rfl⟩
  · intro hc hr
    exact io_badDword (opc := 0xAC) ht fun cr => effResultRelease_unnamed ((checkQuery_flying _ _).trans hc) hr

end Sys2Proof.Machine
end

section
/-! SUPPORT. A round of `settle` in which something follows: entries of a pending log stay, a Publish begins, an Index Drop ends. -/

namespace Sys2Proof.Machine

/-- Every command in flight has begun, and is none of those that `settle` ends. -/
def State.resting (t : State) : Prop := ∀ f ∈ t.nvm.flights, f.rests

section Resting

variable {t : State}

theorem resting_of_none (h : t.nvm.flights = []) : t.resting := fun f hf => by
  rw [h] at hf
  exact absurd hf List.not_mem_nil

theorem resting_of_one {f : Flight} (h : t.nvm.flights = [f]) (hr : f.rests) : t.resting := fun g hg => by
  rw [h] at hg
  rwa [List.mem_singleton.1 hg]

/-- No command in flight meets a test that none of those that rest meets. -/
theorem find_resting (h : t.resting) {p : Flight → Bool} (hp : ∀ f : Flight, f.rests → p f = false) :
    t.nvm.flights.find? p = none :=
  List.find?_eq_none.2 fun f hf => by rw [hp f (h f hf)]; exact Bool.noConfusion

theorem escalateNow_calm (h : t.escalate = false) : escalateNow t = t := by
  unfold escalateNow
  rw [h]
  rfl

theorem serialStep_resting (h : t.resting) : serialStep t = t := by
  have hn : nextSerial t = none := by
    unfold nextSerial
    rw [find_resting h fun f hf => by rcases hf.phase with e | e <;> simp [e]]
    exact ite_self _
  unfold serialStep
  rw [hn]

theorem dropStep_resting (h : t.resting) : dropStep t = t := by
  have hn : readyDrop t = none := find_resting h fun f hf => by
    rcases hf.drop with e | e
    · simp only [beq_false_of_ne e, Bool.false_and]
    · simp [e]
  unfold dropStep
  rw [hn]

theorem nsStep_resting (h : t.resting) : nsStep t = t := by
  have hn : readyNsEnd t = none := find_resting h fun f hf => by simp [hf.ns]
  unfold nsStep
  rw [hn]

theorem sqStep_resting (h : t.resting) : sqStep t = t := by
  unfold sqStep
  rw [find_resting h fun f hf => by
    rcases hf.sq with e | e
    · simp [e]
    · simp only [beq_false_of_ne e.1, Bool.and_false, Bool.false_and]]

theorem abortStep_resting (h : t.resting) : abortStep t = t := by
  unfold abortStep
  rw [find_resting h fun f hf => by
    rcases hf.sq with e | e
    · simp [e]
    · simp only [beq_false_of_ne e.2, Bool.and_false, Bool.false_and]]

theorem postWrites_resting (h : t.resting) : postWrites t = t := by
  unfold postWrites
  rw [List.filter_eq_nil_iff.2 fun f hf => by
    rcases (h f hf).write with e | e | e
    · simp [e]
    · simp only [beq_false_of_ne e, Bool.false_and]
      exact Bool.noConfusion
    · simp [e]]
  rfl

/-- What is left of a round up to the fetch when the commands in flight rest. -/
theorem settleRound_resting (he : t.escalate = false) (h : t.resting) (hp : (publishStep t).resting) :
    settleRound t = bindStep (markDone (kickAll (publishStep t))) := by
  unfold settleRound
  rw [escalateNow_calm he, serialStep_resting h, dropStep_resting h, nsStep_resting h, sqStep_resting h, abortStep_resting h,
    postWrites_resting hp]

theorem publishStep_none (h : ∀ i ∈ t.idx, i.waiting = []) : publishStep t = t := by
  unfold publishStep
  rw [List.filter_eq_nil_iff.2 fun i hi => by simp [h i hi]]
  rfl

/-- The partitions alone decide whether one of them selects. -/
theorem kickAll_quiet (h : ∀ x ∈ t.parts, x.quiet) : kickAll t = t := by
  have hpart : ∀ p, (t.part p).quiet := fun p => by
    unfold State.part
    rw [List.getD_eq_getElem?_getD]
    cases hx : t.parts[p]? with
    | some x => exact h x (List.mem_of_getElem? hx)
    | none => exact .inr ⟨by decide, rfl⟩
  unfold kickAll
  refine foldl_id _ fun p _ => ?_
  split
  · unfold kick
    split
    · rfl
    · exact trySelect_quiet (hpart p) _
  · rfl

/-- The entries of an index whose commands have all completed. -/
def Index.allDone (ix : Index) : Index := { ix with pend := ix.pend.map fun e => { e with done := true } }

theorem Pend.done_of_done {e : Pend} (h : e.done = true) : { e with done := true } = e :=
  congrArg (fun b => { e with done := b }) h.symm

theorem settled_of_none (h : t.nvm.flights = []) (l : List Pend) : t.settled l = l.map fun e => { e with done := true } := by
  refine List.map_congr_left fun e _ => ?_
  unfold State.flight?
  rw [find_flights h, Option.isSome_none, Bool.or_false]
  split
  · next hd => exact (Pend.done_of_done hd).symm
  · rfl

theorem settled_of_done {l : List Pend} (h : ∀ e ∈ l, e.done = true) : t.settled l = l :=
  (List.map_congr_left fun e he => by rw [h e he]; rfl).trans (List.map_id l)

theorem Index.allDone_of_done {ix : Index} (h : ∀ e ∈ ix.pend, e.done = true) : ix.allDone = ix :=
  congrArg (fun l => { ix with pend := l })
    ((List.map_congr_left fun e he => Pend.done_of_done (h e he)).trans (List.map_id ix.pend))

theorem markDone_none (h : t.nvm.flights = []) : markDone t = t.modIdx (·.map Index.allDone) := by
  unfold markDone
  split
  · next hall =>
    have hidx : t.idx.map Index.allDone = t.idx :=
      (List.map_congr_left fun i hi => Index.allDone_of_done (List.all_eq_true.1 (List.all_eq_true.1 hall i hi))).trans
        (List.map_id _)
    exact congrArg (fun l => { t with idx := l }) hidx.symm
  · refine congrArg (fun l => { t with idx := l }) (List.map_congr_left fun i _ => ?_)
    exact congrArg (fun l => { i with pend := l }) (settled_of_none h i.pend)

/-- A round after the last command has completed: the entries that it appended to pending logs stay, and nothing else follows (R165,
R175). -/
theorem settleRound_allDone (he : t.escalate = false) (hf : t.nvm.flights = []) (hw : ∀ i ∈ t.idx, i.waiting = [])
    (hp : ∀ x ∈ t.parts, x.quiet) (hb : t.lnk.bindWait = []) : settleRound t = t.modIdx (·.map Index.allDone) := by
  have hr := resting_of_none hf
  rw [settleRound_resting he hr ((publishStep_none hw).symm ▸ hr), publishStep_none hw, kickAll_quiet hp, markDone_none hf]
  unfold bindStep
  rw [State.modIdx_lnk, hb]
  rfl

end Resting

section Placed

variable {s : State} {p : Nat}

theorem part_of_getElem? {x : Part} (h : s.parts[p]? = some x) : s.part p = x := by
  rw [State.part, List.getD_eq_getElem?_getD, h]
  rfl

/-- A partition that does not select, before and after a change of it. -/
theorem State.still.modPart (h : s.still) {g : Part → Part} (hg : (g (s.part p)).quiet) : (modPart p g s).still := by
  refine ⟨h.escalate, h.waiting, h.pend, h.bind, fun x hx => ?_⟩
  obtain ⟨i, hi⟩ := List.mem_iff_getElem?.1 hx
  rw [Machine.modPart, State.modParts_parts, List.getElem?_modify, Option.map_eq_map, Option.map_eq_some_iff] at hi
  obtain ⟨y, hy, rfl⟩ := hi
  split
  · next e =>
    rw [← part_of_getElem? hy, ← e]
    exact hg
  · exact h.parts y (List.mem_of_getElem? hy)

/-- A job is placed on a partition that runs one: it waits there, and nothing follows (R292). -/
theorem placeJob_running {j : Job} (hr : (s.part j.part).resetting = false) :
    placeJob j s = modPart j.part (fun p => { p with queues := p.queues.modify j.jq (· ++ [j]) }) s := by
  unfold placeJob
  rw [hr]
  rfl

theorem State.still.placed (h : s.still) {j : Job} (hi : (s.part j.part).idle = false) :
    (Machine.modPart j.part (fun p => { p with queues := p.queues.modify j.jq (· ++ [j]) }) s).still :=
  h.modPart (.inl hi)

end Placed

end Sys2Proof.Machine
end

section
/-! SUPPORT. A serial command that takes its turn: one whose reserved dwords are not zero, and one that completes in the same round as it
takes its turn. -/

namespace Sys2Proof.Machine

variable {s u : State} {q : Sq} {k : Cq} {opc : BitVec 8} {c : Cmd}

/-- A serial command waits for its turn from its fetch on (R48). -/
theorem route_serial {f : Flight} {t : State} (hf : f.phase = .waiting) (ht : t.nvm.flights = [f]) (hq : f.sqid = 0)
    (hen : startsEntry f.sqid f.opc.toNat f.cmd = false) (hser : isSerial f.opc.toNat = true) : route f t = t := by
  have hset : setPhase f.sqid f.cid .waiting t = t := by
    have : t.nvm.flights.map (fun g => if g.is f.sqid f.cid then { g with phase := .waiting } else g) = t.nvm.flights := by
      rw [ht, List.map_singleton]
      split
      · rw [← hf]
      · rfl
    exact congrArg (fun l => { t with nvm := { t.nvm with flights := l } }) this
  unfold route
  dsimp only
  rw [hset, if_neg (by rw [hq]; exact Bool.noConfusion), hen, if_neg Bool.noConfusion, if_pos hser]

/-- The serial command that waits alone is next. -/
theorem nextSerial_begun (h : s.takes q k) (hq : q.id = 0) (hser : isSerial opc.toNat = true) (cr : List Nat) :
    nextSerial (s.begun q opc c cr) = some (entryOf q opc c s) := by
  have hbusy : ∀ n, s.nvm.serial = some n → ((entryOf q opc c s).order == n) = false := fun n hn =>
    beq_false_of_ne (Nat.ne_of_gt (h.serial n hn))
  unfold nextSerial
  rw [show (s.begun q opc c cr).nvm = (s.entered q opc c cr).nvm from closings_flights _ _]
  refine (if_neg ?_).trans ?_
  · show ¬(match s.nvm.serial with
      | some n => [entryOf q opc c s].any fun f => f.order == n && f.phase != .ending
      | none => false) = true
    cases hk : s.nvm.serial with
    | none => exact Bool.noConfusion
    | some n => simp [hbusy n hk]
  · show [entryOf q opc c s].find? _ = _
    simp [entryOf, hq, hser]

/-- A serial command that is submitted takes its turn in the round after its fetch. `t` is what its turn, and the end of an Index Drop
behind it, make of the sled. -/
theorem settle_turn (h : s.takes q k) (hq : q.id = 0) (hf : c.flags = 0) (hser : isSerial opc.toNat = true)
    (hen : startsEntry q.id opc.toNat { c with sqid := q.id } = false) :
    ∃ cr, ∀ t, dropStep (adminTurn (entryOf q opc c s)
        ((s.begun q opc c cr).modNvm fun n => { n with serial := some s.nvm.orders })) = t → t.quiet →
      settle (submit opc { c with sqid := q.id } s) = t := by
  obtain ⟨cr, hfo⟩ := fetchOne_loaded h opc c (.inr hf)
  refine ⟨cr, fun t ht hquiet => ?_⟩
  have hroute : route (entryOf q opc c s) (s.begun q opc c cr) = s.begun q opc c cr :=
    route_serial rfl (congrArg Nvm.flights (closings_flights _ _)) hq hen hser
  have hstill : (s.loaded q ⟨opc, { c with sqid := q.id }⟩).still := ⟨h.escalate, h.waiting, h.pend, h.bind, h.parts⟩
  have hfetch : fetchLoop 1 (s.loaded q ⟨opc, { c with sqid := q.id }⟩) = s.begun q opc c cr := by
    unfold fetchLoop
    rw [hfo]
    exact hroute
  have hround : settleRound (s.begun q opc c cr) = t := by
    have hturn : serialStep (escalateNow (s.begun q opc c cr)) =
        adminTurn (entryOf q opc c s) ((s.begun q opc c cr).modNvm fun n => { n with serial := some s.nvm.orders }) := by
      rw [escalateNow_calm ((begun_escalate opc c cr).trans h.escalate)]
      unfold serialStep
      rw [nextSerial_begun h hq hser]
      rfl
    have hrest := settleRound_still hquiet.tostill hquiet.flights
    unfold settleRound at hrest ⊢
    rw [escalateNow_calm hquiet.escalate, serialStep_resting (resting_of_none hquiet.flights),
      dropStep_resting (resting_of_none hquiet.flights)] at hrest
    rw [hturn, ht]
    exact hrest
  have hlen : 2 * (s.loaded q ⟨opc, { c with sqid := q.id }⟩).nvm.flights.length + 1 + 4 = 3 + 1 + 1 := by
    show 2 * s.nvm.flights.length + 1 + 4 = 5
    rw [h.flights]
    rfl
  have hprogress : ((s.begun q opc c cr).progress == (s.loaded q ⟨opc, { c with sqid := q.id }⟩).progress) = false :=
    begun_progress opc c cr
  unfold settle
  rw [submit_eq h, loaded_waiting h, hlen, settleLoop_succ, settleRound_still hstill h.flights, loaded_waiting h, hfetch,
    if_neg (by rw [hprogress]; exact Bool.noConfusion),
    settleLoop_succ, hround, waitingEntries_nil hquiet.sqs]
  unfold fetchLoop
  rw [settleLoop_quiet hquiet, ite_self]

/-- A command that has completed leaves no Index Drop that waits. -/
theorem dropStep_complete_flying (hu : u.lands q k) {f : Flight} (hf : f.sqid = q.id) (hph : f.phase ≠ .ending) (he : f.errRec = none)
    {st : Status} (hst : st ≠ .cidConflict) (dw0 dw1 : Nat) (cr : List Nat) (ser : Option Nat) (out : List HostWrite) :
    dropStep (complete q.id f.cid st dw0 dw1 (u.flying s q f cr ser out)) =
      complete q.id f.cid st dw0 dw1 (u.flying s q f cr ser out) := by
  obtain ⟨t, ht, -, hfl, -⟩ := complete_flying (s := s) hu hf hph rfl cr ser out st hst dw0 dw1 he
  rw [ht, dropStep_resting (resting_of_none hfl)]

/-- A serial command that completes in its turn, or behind it. -/
theorem completes_turn (h : s.takes q k) (hq : q.id = 0) (hf : c.flags = 0) (hser : isSerial opc.toNat = true)
    (hen : startsEntry q.id opc.toNat { c with sqid := q.id } = false) (hu : u.lands q k) {ph : Phase} (hph : ph ≠ .ending)
    {st : Status} (hst : st ≠ .cidConflict) {dw0 dw1 : Nat} {out : List HostWrite}
    (hr : ∀ cr, dropStep (adminTurn (entryOf q opc c s)
        ((s.begun q opc c cr).modNvm fun n => { n with serial := some s.nvm.orders })) =
      complete q.id c.cid st dw0 dw1 (u.flying s q ((entryOf q opc c s).inPhase ph) cr (some s.nvm.orders) out)) :
    Completes (answer (submit opc { c with sqid := q.id } s)) s q k c.cid st dw0 dw1 out u := by
  obtain ⟨cr, hset⟩ := settle_turn h hq hf hser hen
  obtain ⟨t, ht, he, hfl, ho, hsq, hcq, hc, hl⟩ := complete_flying (s := s) hu (f := (entryOf q opc c s).inPhase ph) rfl hph
    (cid := c.cid) rfl cr (some s.nvm.orders) out st hst dw0 dw1 rfl
  have hs := hset t ((hr cr).trans ht) (lands_quiet hu he hfl hsq)
  exact ⟨t, by unfold answer; rw [hs], he, hfl, ho, hsq, hcq, hc, hl⟩

/-- A serial command of the vendor's with a reserved dword that is not zero is refused, and what its fetch closed is open again (R11,
R300). -/
theorem completes_reserved (h : AdminTurn s q k c) (hser : isSerial opc.toNat = true)
    (hen : startsEntry 0 opc.toNat { c with sqid := 0 } = false) {d : Nat} (hd : reservedHead opc.toNat c = some d)
    (hundo : ∀ cr, undoFetch s.nvm.orders ((s.begun q opc c cr).modNvm fun n => { n with serial := some s.nvm.orders }) =
      s.flying s q (entryOf q opc c s) cr (some s.nvm.orders) []) :
    Completes (adminRow opc c s) s q k c.cid .invalidField d 0 [] s := by
  obtain ⟨ht, hq, hf⟩ := h
  have hrow : adminRow opc c s = answer (submit opc { c with sqid := q.id } s) := by rw [hq]; rfl
  rw [← hq] at hen
  rw [hrow]
  refine completes_turn ht hq hf hser hen ht.lands (ph := .waiting) (by decide) (by decide) fun cr => ?_
  have hturn : adminTurn (entryOf q opc c s) ((s.begun q opc c cr).modNvm fun n => { n with serial := some s.nvm.orders }) =
      badDword d { c with sqid := q.id } (s.flying s q (entryOf q opc c s) cr (some s.nvm.orders) []) := by
    have hm : ((s.begun q opc c cr).modNvm fun n => { n with serial := some s.nvm.orders }).mgmt.sanitize = none :=
      (congrArg Mgmt.sanitize (closings_mgmt (entryOf q opc c s) (s.entered q opc c cr))).trans ht.sanitize
    unfold adminTurn
    dsimp only
    rw [sanitizeBars_none hm, if_neg Bool.noConfusion,
      show reservedHead (entryOf q opc c s).opc.toNat (entryOf q opc c s).cmd = some d from hd]
    exact congrArg (badDword d _) (hundo cr)
  rw [hturn]
  exact dropStep_complete_flying (f := (entryOf q opc c s).inPhase .waiting) ht.lands rfl Phase.noConfusion rfl
    (st := .invalidField) (by decide) d 0 cr _ []

end Sys2Proof.Machine
end

section
/-! SUPPORT. Pending logs: the entries that a command appends, and the Publish that takes them (R99, R100, R168). -/

namespace Sys2Proof.Machine

variable {s u v : State} {q : Sq} {k : Cq} {c : Cmd} {opc : BitVec 8}

/-- A completion does not touch the indexes. -/
theorem complete_modIdx {sqid cid : Nat} {f : Flight} (hf : s.flight? sqid cid = some f) (hp : f.phase ≠ .ending) (st : Status)
    (dw0 dw1 : Nat) (g : List Index → List Index) :
    complete sqid cid st dw0 dw1 (s.modIdx g) = (complete sqid cid st dw0 dw1 s).modIdx g := by
  have hpost : ∀ (cqid : Nat) (e : Cqe) (t : State), post cqid e (t.modIdx g) = (post cqid e t).modIdx g := fun cqid e t => by
    unfold post
    rw [State.modIdx_nvm]
    split
    · rfl
    · split
      · split <;> rfl
      · rfl
  have hflight : complete sqid cid st dw0 dw1 (s.modIdx g) = completeFlight f st dw0 dw1 (s.modIdx g) := by
    unfold complete
    rw [show (s.modIdx g).flight? sqid cid = some f from hf]
    exact if_neg (by simpa using hp)
  have hflight' : complete sqid cid st dw0 dw1 s = completeFlight f st dw0 dw1 s := by
    unfold complete
    rw [hf]
    exact if_neg (by simpa using hp)
  rw [hflight, hflight']
  have hlog : (if st == .success then s.modIdx g else addErrInfo f.sqid f.cid st f.cmd.nsid f.errRec (s.modIdx g)) =
      (if st == .success then s else addErrInfo f.sqid f.cid st f.cmd.nsid f.errRec s).modIdx g := by split <;> rfl
  unfold completeFlight
  dsimp only
  rw [hlog]
  exact hpost _ _ _

/-- An I/O command that completes with entries of its own in pending logs: they stay. `l` are the indexes as the command leaves them. -/
theorem io_completes_appending (h : IoTurn s q k c) (hu : u.lands q k) {l : List Index} (hl : l.map Index.allDone = u.idx)
    {st : Status} (hst : st ≠ .cidConflict) {dw0 dw1 : Nat} {out : List HostWrite}
    (hr : ∀ cr, runIo opc.toNat c (s.flying s q (entryOf q opc c s) cr s.nvm.serial []) =
      complete q.id c.cid st dw0 dw1 ((u.modIdx fun _ => l).flying s q (entryOf q opc c s) cr s.nvm.serial out)) :
    Completes (ioRow opc c s) s q k c.cid st dw0 dw1 out u := by
  obtain ⟨ht, hq, hs⟩ := h
  have hc : { c with sqid := q.id } = c := by rw [← hs]
  obtain ⟨cr, hset⟩ := settle_submit ht opc c (.inl hq) (.inl hq)
  obtain ⟨t, hcomp, he, hfl, ho, hsq, hcq, hcnt, hlog⟩ := complete_flying (s := s) hu (f := entryOf q opc c s) rfl Phase.noConfusion
    (cid := c.cid) rfl cr s.nvm.serial out st hst dw0 dw1 rfl
  have hquiet := lands_quiet hu he hfl hsq
  have hrun : runIo opc.toNat c (s.flying s q (entryOf q opc c s) cr s.nvm.serial []) = t.modIdx fun _ => l := by
    have hflying : (u.modIdx fun _ => l).flying s q (entryOf q opc c s) cr s.nvm.serial out =
        (u.flying s q (entryOf q opc c s) cr s.nvm.serial out).modIdx fun _ => l := rfl
    rw [hr cr, hflying, ← hcomp]
    exact complete_modIdx (flight?_flying (entryOf_is q opc c s)) Phase.noConfusion st dw0 dw1 _
  have hset := hset (t.modIdx fun _ => l) (by
    rw [if_pos (by simpa using hq), hc, begun_flying (.inl hq)]
    exact hrun.symm)
  have hw : ∀ i ∈ l, i.waiting = [] := fun i hi => hu.waiting i.allDone (hl ▸ List.mem_map_of_mem hi)
  have hround : settleRound (t.modIdx fun _ => l) = t := by
    rw [settleRound_allDone (t := t.modIdx fun _ => l) hquiet.escalate hfl hw hquiet.parts hquiet.bind]
    have : l.map Index.allDone = t.idx := hl.trans (congrArg State.idx he).symm
    exact congrArg (fun l => { t with idx := l }) this
  have hne : ((t.modIdx fun _ => l).progress == s.progress) = false := by
    show ((t.nvm.orders, _) == (s.nvm.orders, _)) = false
    rw [ho]
    simp
  rw [hne, if_neg Bool.noConfusion, settleLoop_succ, hround, waitingEntries_nil hquiet.sqs] at hset
  unfold fetchLoop at hset
  rw [settleLoop_quiet hquiet, ite_self, hc] at hset
  refine ⟨t, ?_, he, hfl, ho, hsq, hcq, hcnt, hlog⟩
  unfold ioRow
  rw [if_neg (by rw [hs]; exact hq)]
  exact congrArg Host.Outcome.next hset

/-- An I/O command that stays in flight, and from which more follows in the round after its fetch. -/
theorem io_pends_after (h : IoTurn s q k c) (hsq : ∀ x ∈ u.nvm.sqs, x.unfetched = []) {ph : Phase} {out : List HostWrite}
    (hr : ∀ cr, runIo opc.toNat c (s.flying s q (entryOf q opc c s) cr s.nvm.serial []) =
      v.flying s q ((entryOf q opc c s).inPhase ph) cr s.nvm.serial out)
    (hround : ∀ cr, settleRound (v.flying s q ((entryOf q opc c s).inPhase ph) cr s.nvm.serial out) =
      u.flying s q ((entryOf q opc c s).inPhase ph) cr s.nvm.serial out) :
    Pends (ioRow opc c s) s q opc c ph out u := by
  obtain ⟨ht, hq, hs⟩ := h
  have hc : { c with sqid := q.id } = c := by rw [← hs]
  obtain ⟨cr, hset⟩ := settle_submit ht opc c (.inl hq) (.inl hq)
  have hset := hset (v.flying s q ((entryOf q opc c s).inPhase ph) cr s.nvm.serial out) (by
    rw [if_pos (by simpa using hq), hc, begun_flying (.inl hq)]
    exact (hr cr).symm)
  have hun : ∀ x ∈ (u.flying s q ((entryOf q opc c s).inPhase ph) cr s.nvm.serial out).nvm.sqs, x.unfetched = [] := by
    intro x hx
    obtain ⟨y, hy, rfl⟩ := List.mem_map.1 hx
    split <;> exact hsq y hy
  have hne : ((v.flying s q ((entryOf q opc c s).inPhase ph) cr s.nvm.serial out).progress == s.progress) = false := by
    show ((s.nvm.orders + 1, _) == (s.nvm.orders, _)) = false
    simp
  rw [hne, if_neg Bool.noConfusion, settleLoop_succ, hround, waitingEntries_nil hun, hc] at hset
  unfold fetchLoop at hset
  have hsame : (u.flying s q ((entryOf q opc c s).inPhase ph) cr s.nvm.serial out).progress =
      (v.flying s q ((entryOf q opc c s).inPhase ph) cr s.nvm.serial out).progress := rfl
  rw [hsame, if_pos (beq_self_eq_true _)] at hset
  refine ⟨u.flying s q ((entryOf q opc c s).inPhase ph) cr s.nvm.serial out, ?_, rfl, rfl, rfl, rfl, rfl, rfl, rfl⟩
  unfold ioRow
  rw [if_neg (by rw [hs]; exact hq)]
  exact congrArg Host.Outcome.next hset

/-- What a Delete makes of an item: the index, and the items marked so far (R99). -/
def markItem (key : Nat × Nat) (order : Nat) (a : Index × Nat) (item : Nat) : Index × Nat :=
  ((deleteItem a.1 key order item).1, a.2 + b2n (deleteItem a.1 key order item).2)

/-- Deletes are only appended to the pending log. -/
theorem foldl_markItem_waiting (key : Nat × Nat) (order : Nat) (ids : List Nat) (a : Index × Nat) :
    (ids.foldl (markItem key order) a).1.waiting = a.1.waiting := by
  induction ids generalizing a with
  | nil => rfl
  | cons id ids ih =>
    rw [List.foldl_cons, ih]
    show (deleteItem a.1 key order id).1.waiting = _
    unfold deleteItem
    split
    · rfl
    · split <;> rfl

/-- Taking an entry does not change whether its command has completed. -/
theorem markTaken_done (order : Nat) (held : List Nat) (l : List Pend) (h : ∀ e ∈ l, e.done = true) :
    ∀ e ∈ markTaken order held l, e.done = true := by
  induction l generalizing held with
  | nil => exact h
  | cons e l ih =>
    have he := h e List.mem_cons_self
    have hl := fun held => ih held fun x hx => h x (List.mem_cons_of_mem _ hx)
    unfold markTaken
    split
    · exact List.forall_mem_cons.2 ⟨he, hl _⟩
    · split
      · exact List.forall_mem_cons.2 ⟨he, hl _⟩
      · exact List.forall_mem_cons.2 ⟨he, hl _⟩

/-- The index that a command names is one of the namespace, with that identifier. -/
theorem index?_spec {nsid id : Nat} {ix : Index} (h : s.index? nsid id = some ix) : ix ∈ s.idx ∧ ix.nsid = nsid ∧ ix.id = id := by
  have hm := List.find?_some h
  simp only [Bool.and_eq_true, beq_iff_eq] at hm
  exact ⟨List.mem_of_find?_eq_some h, hm.1.1, hm.1.2⟩

/-- The one element that meets a test is what a search finds. -/
theorem find?_of_unique {α : Type} {l : List α} {p : α → Bool} {a : α} (ha : a ∈ l) (hp : p a = true)
    (hu : ∀ x ∈ l, p x = true → x = a) : l.find? p = some a := by
  cases hx : l.find? p with
  | none => exact absurd hp (List.find?_eq_none.1 hx a ha)
  | some x => rw [hu x (List.mem_of_find?_eq_some hx) (List.find?_some hx)]

/-- A fold over copies of one element that does its work at the first. -/
theorem foldl_copies {α β : Type} {f : β → α → β} {a : α} {b b' : β} (h : f b a = b') (h' : f b' a = b') {l : List α}
    (hne : l ≠ []) (hl : ∀ x ∈ l, x = a) : l.foldl f b = b' := by
  cases l with
  | nil => exact absurd rfl hne
  | cons x l =>
    rw [List.foldl_cons, hl x List.mem_cons_self, h]
    exact foldl_id l fun y hy => (hl y (List.mem_cons_of_mem _ hy)).symm ▸ h'

end Sys2Proof.Machine
end

section
/-! SUPPORT. Index Delete, Index Publish and Index Compact as they are fetched, and the round in which a Publish begins. -/

namespace Sys2Proof.Machine

variable {s : State} {q : Sq} {k : Cq} {c : Cmd} {ix : Index}

theorem effIndexDelete_named (hc : checkQuery 0x99 c s = none) (hi : s.index? c.nsid c.cdw13.toNat = some ix) {r : Index × Nat}
    (hr : r = (deleteIds c).foldl (markItem (keyOf c) (jobOf 0x99 c s).order) (ix, 0)) :
    effIndexDelete c s = doneWith c .success (inlenOf c / 8 - r.2) r.2 (modIndex c.nsid c.cdw13.toNat (fun _ => r.1) s) := by
  unfold effIndexDelete
  rw [hc, hi, hr]
  rfl

theorem effIndexPublish_named (hc : checkQuery 0x9C c s = none) (hi : s.index? c.nsid c.cdw13.toNat = some ix) {pend : List Pend}
    (hp : pend = markTaken (jobOf 0x9C c s).order [] (s.settled ix.pend)) :
    effIndexPublish c s = if (takenBy (jobOf 0x9C c s).order pend).1.isEmpty then doneWith c .success 1 ix.epoch s
      else modIndex c.nsid c.cdw13.toNat (fun _ =>
          { ix with pend := pend, waiting := ix.waiting ++ [(c.sqid, c.cid, (jobOf 0x9C c s).order)] })
        (setPhase c.sqid c.cid .executing s) := by
  unfold effIndexPublish
  rw [hc, hi, hp]

theorem effIndexCompact_beyond (hc : checkQuery 0xA0 c s = none) (hi : s.index? c.nsid c.cdw13.toNat = some ix)
    (hn : ix.nplots ≤ c.cdw14.toNat) : effIndexCompact c s = badDword 14 c s := by
  unfold effIndexCompact
  rw [hc, hi]
  exact if_pos hn

theorem effIndexCompact_placed (hc : checkQuery 0xA0 c s = none) (hi : s.index? c.nsid c.cdw13.toNat = some ix)
    (hn : c.cdw14.toNat < ix.nplots) {f : Flight} (hf : s.nvm.flights = [f]) (hown : f.is c.sqid c.cid = true) :
    effIndexCompact c s = placeJob (jobOf 0xA0 c s) (setPhase c.sqid c.cid .job s) := by
  unfold effIndexCompact
  rw [hc, hi]
  dsimp only
  rw [if_neg (Nat.not_le.2 hn), hf, if_neg (by simp [hown])]

/-- The Publish that waits alone for an index on which nothing works begins: its link job enters job queue 0 of the maintenance
partition (R168). -/
theorem nextPublish_begins {nsid id sq cid order : Nat} {f : Flight}
    (hfind : s.idx.find? (fun i => i.nsid == nsid && i.id == id) = some ix) (hwork : ix.work = .none)
    (hw : ix.waiting = [(sq, cid, order)]) (hf : s.flight? sq cid = some f) (hr : (s.part ix.part).resetting = false) :
    nextPublish nsid id s = modPart ix.part (fun p => { p with queues := p.queues.modify 0 (· ++ [{
        sqid := sq, cid := cid, order := order, opc := 0x9C, cmd := f.cmd, part := ix.part, jq := 0
        dl := false, deadline := 0, fetched := s.now, kind := .link nsid id }]) })
      (modIndex nsid id (fun i => { i with work := .publish sq cid order false, waiting := [] }) s) := by
  have hf' : (modIndex nsid id (fun i => { i with work := .publish sq cid order false, waiting := [] }) s).flight? sq cid = some f := hf
  unfold nextPublish
  rw [hfind]
  dsimp only
  rw [hwork, hw]
  dsimp only
  rw [hf']
  exact placeJob_running hr

theorem nextPublish_busy {nsid id sq cid order : Nat} {b : Bool}
    (hfind : s.idx.find? (fun i => i.nsid == nsid && i.id == id) = some ix) (hwork : ix.work = .publish sq cid order b) :
    nextPublish nsid id s = s := by
  unfold nextPublish
  rw [hfind]
  dsimp only
  rw [hwork]

/-- An index that all of its name in a list have become. -/
def setIndex (nsid id : Nat) (a : Index) (l : List Index) : List Index := l.map fun i => if i.nsid == nsid && i.id == id then a else i

theorem mem_setIndex {nsid id : Nat} {a x : Index} {l : List Index} (hx : x ∈ setIndex nsid id a l) :
    x = a ∨ (x ∈ l ∧ (x.nsid == nsid && x.id == id) = false) := by
  obtain ⟨i, hi, rfl⟩ := List.mem_map.1 hx
  split
  · exact .inl rfl
  · next h => exact .inr ⟨hi, eq_false_of_ne_true h⟩

theorem self_mem_setIndex {nsid id : Nat} {a i : Index} {l : List Index} (hi : i ∈ l) (hn : i.nsid = nsid ∧ i.id = id) :
    a ∈ setIndex nsid id a l :=
  List.mem_map.2 ⟨i, hi, if_pos (by rw [hn.1, hn.2, beq_self_eq_true, beq_self_eq_true]; rfl)⟩

theorem find?_setIndex {nsid id : Nat} {a i : Index} {l : List Index} (hi : i ∈ l) (hn : i.nsid = nsid ∧ i.id = id)
    (ha : a.nsid = nsid ∧ a.id = id) : (setIndex nsid id a l).find? (fun i => i.nsid == nsid && i.id == id) = some a :=
  find?_of_unique (self_mem_setIndex hi hn) (by rw [ha.1, ha.2, beq_self_eq_true, beq_self_eq_true]; rfl) fun x hx hp => by
    rcases mem_setIndex hx with h | ⟨-, h⟩
    · exact h
    · rw [h] at hp
      exact absurd hp Bool.noConfusion

/-- A change of an index that has just been set. -/
theorem modIndex_setIndex {nsid id : Nat} {a : Index} (ha : a.nsid = nsid ∧ a.id = id) (g : Index → Index) (s : State) :
    modIndex nsid id g (s.modIdx (setIndex nsid id a)) = s.modIdx (setIndex nsid id (g a)) := by
  refine congrArg (fun l => { s with idx := l }) ?_
  show (setIndex nsid id a s.idx).map _ = _
  unfold setIndex
  rw [List.map_map]
  refine List.map_congr_left fun i _ => ?_
  by_cases h : (i.nsid == nsid && i.id == id) = true
  · simp only [Function.comp, h, ha.1, ha.2, beq_self_eq_true, Bool.and_self, if_true]
  · simp only [Function.comp, if_neg h]

theorem State.still.setIndex (h : s.still) {nsid id : Nat} {a : Index} (hw : a.waiting = []) (hp : ∀ e ∈ a.pend, e.done = true) :
    (s.modIdx (Machine.setIndex nsid id a)).still := by
  refine ⟨h.escalate, fun i hi => ?_, fun i hi => ?_, h.bind, h.parts⟩
  · rcases mem_setIndex hi with rfl | ⟨hi, -⟩
    · exact hw
    · exact h.waiting i hi
  · rcases mem_setIndex hi with rfl | ⟨hi, -⟩
    · exact hp
    · exact h.pend i hi

/-- An index on which a Publish has begun. -/
def Index.publishes (ix : Index) (pend : List Pend) (q : Sq) (c : Cmd) (order : Nat) : Index :=
  { ix with
    pend := pend
    work := .publish q.id c.cid order false }

/-- The link job of a Publish that begins as it is fetched (R168). -/
def linkJob (ix : Index) (q : Sq) (c : Cmd) (s : State) : Job :=
  { sqid := q.id, cid := c.cid, order := s.nvm.orders, opc := 0x9C, cmd := c, part := ix.part, jq := 0
    dl := false, deadline := 0, fetched := s.now, kind := .link c.nsid c.cdw13.toNat }

/-- The state once a Publish has begun as it is fetched. -/
def State.publishing (s : State) (ix : Index) (pend : List Pend) (q : Sq) (c : Cmd) : State :=
  modPart ix.part (fun p => { p with queues := p.queues.modify 0 (· ++ [linkJob ix q c s]) })
    (s.modIdx (setIndex c.nsid c.cdw13.toNat (ix.publishes pend q c s.nvm.orders)))

/-- In the round after its fetch a Publish begins, when nothing else works on its index and its partition runs a job: its link job then
waits on that partition. -/
theorem settleRound_publish (h : s.still) (hix : ix ∈ s.idx) (hn : ix.nsid = c.nsid ∧ ix.id = c.cdw13.toNat) (hwork : ix.work = .none)
    (hr : (s.part ix.part).resetting = false) (hi : (s.part ix.part).idle = false) {pend : List Pend}
    (hdone : ∀ e ∈ pend, e.done = true) {f : Flight} (hf : f.is q.id c.cid = true) (hrest : f.rests) (hcmd : f.cmd = c)
    (cr : List Nat) (ser : Option Nat) (out : List HostWrite) :
    settleRound ((s.modIdx (setIndex c.nsid c.cdw13.toNat
        { ix with pend := pend, waiting := [(q.id, c.cid, s.nvm.orders)] })).flying s q f cr ser out) =
      (s.publishing ix pend q c).flying s q f cr ser out := by
  have hw := h.waiting ix hix
  generalize hW : ({ ix with pend := pend, waiting := [(q.id, c.cid, s.nvm.orders)] } : Index) = W
  have hWn : W.nsid = c.nsid ∧ W.id = c.cdw13.toNat := by rw [← hW]; exact hn
  have hlands : (s.publishing ix pend q c).still :=
    (h.setIndex (a := ix.publishes pend q c s.nvm.orders) hw hdone).placed (j := linkJob ix q c s) hi
  have hbstill : ((s.publishing ix pend q c).flying s q f cr ser out).still :=
    ⟨hlands.escalate, hlands.waiting, hlands.pend, hlands.bind, hlands.parts⟩
  have hbegin : nextPublish c.nsid c.cdw13.toNat ((s.modIdx (setIndex c.nsid c.cdw13.toNat W)).flying s q f cr ser out) =
      (s.publishing ix pend q c).flying s q f cr ser out := by
    rw [nextPublish_begins (find?_setIndex hix hn hWn) (by rw [← hW]; exact hwork) (by rw [← hW]) (flight?_flying hf)
      (by rw [← hW]; exact hr)]
    have hpub : ({ W with work := .publish q.id c.cid s.nvm.orders false, waiting := [] } : Index) =
        ix.publishes pend q c s.nvm.orders := by
      rw [← hW]
      exact congrArg (fun l => { ix.publishes pend q c s.nvm.orders with waiting := l }) hw.symm
    have hset := modIndex_setIndex hWn (fun i => { i with work := .publish q.id c.cid s.nvm.orders false, waiting := [] }) s
    rw [hpub] at hset
    have hflying : modIndex c.nsid c.cdw13.toNat (fun i => { i with work := .publish q.id c.cid s.nvm.orders false, waiting := [] })
        ((s.modIdx (setIndex c.nsid c.cdw13.toNat W)).flying s q f cr ser out) =
        (s.modIdx (setIndex c.nsid c.cdw13.toNat (ix.publishes pend q c s.nvm.orders))).flying s q f cr ser out :=
      congrArg (State.flying · s q f cr ser out) hset
    rw [hflying, hcmd, ← hW]
    rfl
  have hagain : nextPublish c.nsid c.cdw13.toNat ((s.publishing ix pend q c).flying s q f cr ser out) =
      (s.publishing ix pend q c).flying s q f cr ser out :=
    nextPublish_busy (find?_setIndex (a := ix.publishes pend q c s.nvm.orders) hix hn hn) rfl
  have hstep : publishStep ((s.modIdx (setIndex c.nsid c.cdw13.toNat W)).flying s q f cr ser out) =
      (s.publishing ix pend q c).flying s q f cr ser out := by
    unfold publishStep
    refine foldl_copies (a := W) (by rw [hWn.1, hWn.2]; exact hbegin) (by rw [hWn.1, hWn.2]; exact hagain) ?_ fun x hx => ?_
    · refine List.ne_nil_of_mem (List.mem_filter.2 ⟨self_mem_setIndex hix hn, ?_⟩)
      rw [← hW]
      dsimp only
      rw [hwork]
      rfl
    · obtain ⟨hx, hwait⟩ := List.mem_filter.1 hx
      rcases mem_setIndex hx with e | ⟨hx, -⟩
      · exact e
      · rw [h.waiting x hx] at hwait
        simp at hwait
  rw [settleRound_resting (t := (s.modIdx (setIndex c.nsid c.cdw13.toNat W)).flying s q f cr ser out) h.escalate
    (resting_of_one rfl hrest) (by rw [hstep]; exact resting_of_one rfl hrest), hstep, kickAll_still hbstill, markDone_still hbstill,
    bindStep_still hbstill]

end Sys2Proof.Machine
end

section
/-! SUPPORT. Index Delete, Index Publish and Index Compact, taken by the sled. -/

namespace Sys2Proof.Machine

variable {s : State} {q : Sq} {k : Cq} {c : Cmd} {ix : Index}

/-- A command of an I/O queue that has begun rests, unless it is a Write. -/
theorem IoTurn.rests (h : IoTurn s q k c) {opc : BitVec 8} (hd : opc ≠ 0xF0) (hw : opc ≠ 0x01) {ph : Phase}
    (hph : ph = .executing ∨ ph = .job) : ((entryOf q opc c s).inPhase ph).rests where
  phase := hph
  drop := .inl hd
  ns := by rw [show ((entryOf q opc c s).inPhase ph).sqid = q.id from rfl, beq_false_of_ne h.2.1]; rfl
  sq := .inl h.2.1
  write := .inr (.inl hw)

/-- The job of an I/O command as it is fetched. -/
theorem IoTurn.jobOf_entry (h : IoTurn s q k c) (opc : BitVec 8) {u : State} {ph : Phase} (cr : List Nat) (ser : Option Nat)
    (out : List HostWrite) :
    jobOf opc.toNat c (u.flying s q ((entryOf q opc c s).inPhase ph) cr ser out) =
      { sqid := q.id, cid := c.cid, order := s.nvm.orders, opc := opc.toNat, cmd := c, part := partOf c, jq := jqOf c
        dl := dlOf c, deadline := c.cdw14.toNat, fetched := s.now, kind := .command } := by
  rw [jobOf_flying (f := (entryOf q opc c s).inPhase ph) (h.entry_is opc), h.2.2]
  rfl

theorem indexDelete_completes (h : IoTurn s q k c) (hc : checkQuery 0x99 c s = none)
    (hi : s.index? c.nsid c.cdw13.toNat = some ix) {r : Index × Nat}
    (hr : r = (deleteIds c).foldl (markItem (q.id, c.cid) s.nvm.orders) (ix, 0)) :
    Completes (exec (.indexDelete c) s) s q k c.cid .success (inlenOf c / 8 - r.2) r.2 []
      (s.modIdx (setIndex c.nsid c.cdw13.toNat r.1.allDone)) := by
  have hwait : r.1.waiting = [] := by
    rw [hr, foldl_markItem_waiting]
    exact h.1.waiting ix (index?_spec hi).1
  have hdone : ∀ e ∈ r.1.allDone.pend, e.done = true := fun e he => by
    obtain ⟨x, -, rfl⟩ := List.mem_map.1 he
    rfl
  have hstill : (s.modIdx (setIndex c.nsid c.cdw13.toNat r.1.allDone)).still := h.1.tostill.setIndex hwait hdone
  have hidx : (setIndex c.nsid c.cdw13.toNat r.1 s.idx).map Index.allDone = setIndex c.nsid c.cdw13.toNat r.1.allDone s.idx := by
    unfold setIndex
    rw [List.map_map]
    refine List.map_congr_left fun i hi => ?_
    dsimp only [Function.comp]
    split
    · rfl
    · exact Index.allDone_of_done (h.1.pend i hi)
  refine io_completes_appending (opc := 0x99) h ⟨hstill, h.1.sqs, h.1.sq, h.1.cq, h.1.room, h.1.backlog⟩ hidx (by decide) fun cr => ?_
  have horder : (jobOf 0x99 c (s.flying s q (entryOf q 0x99 c s) cr s.nvm.serial [])).order = s.nvm.orders :=
    congrArg Job.order (h.jobOf_entry 0x99 (ph := .waiting) cr _ [])
  show effIndexDelete c _ = _
  rw [effIndexDelete_named ((checkQuery_flying _ _).trans hc) hi (r := r) (by rw [horder, keyOf, h.2.2]; exact hr), doneWith, h.2.2]
  rfl

/-- What a Publish that is fetched as the only command in flight finds: every entry of the pending log stays. -/
theorem effIndexPublish_flying (h : IoTurn s q k c) (hc : checkQuery 0x9C c s = none)
    (hi : s.index? c.nsid c.cdw13.toNat = some ix) (cr : List Nat) :
    effIndexPublish c (s.flying s q (entryOf q 0x9C c s) cr s.nvm.serial []) =
      if (takenBy s.nvm.orders (markTaken s.nvm.orders [] ix.pend)).1.isEmpty then
        doneWith c .success 1 ix.epoch (s.flying s q (entryOf q 0x9C c s) cr s.nvm.serial [])
      else (s.modIdx (setIndex c.nsid c.cdw13.toNat
          { ix with pend := markTaken s.nvm.orders [] ix.pend, waiting := [(q.id, c.cid, s.nvm.orders)] })).flying s q
        ((entryOf q 0x9C c s).inPhase .executing) cr s.nvm.serial [] := by
  obtain ⟨hmem, -⟩ := index?_spec hi
  have horder : (jobOf 0x9C c (s.flying s q (entryOf q 0x9C c s) cr s.nvm.serial [])).order = s.nvm.orders :=
    congrArg Job.order (h.jobOf_entry 0x9C (ph := .waiting) cr _ [])
  rw [effIndexPublish_named ((checkQuery_flying _ _).trans hc) hi rfl, horder, settled_of_done (h.1.pend ix hmem),
    setPhase_flying (h.entry_is 0x9C), h.1.waiting ix hmem, h.2.2]
  rfl

theorem indexPublish_completes (h : IoTurn s q k c) (hc : checkQuery 0x9C c s = none)
    (hi : s.index? c.nsid c.cdw13.toNat = some ix) (ht : (takenBy s.nvm.orders (markTaken s.nvm.orders [] ix.pend)).1 = []) :
    Completes (exec (.indexPublish c) s) s q k c.cid .success 1 ix.epoch [] s :=
  io_completes (opc := 0x9C) h h.1.lands rfl (by decide) fun cr => by
    show effIndexPublish c _ = _
    rw [effIndexPublish_flying h hc hi, ht, List.isEmpty_nil, if_pos rfl, doneWith, h.2.2]

theorem indexPublish_pends (h : IoTurn s q k c) (hc : checkQuery 0x9C c s = none)
    (hi : s.index? c.nsid c.cdw13.toNat = some ix) (ht : (takenBy s.nvm.orders (markTaken s.nvm.orders [] ix.pend)).1 ≠ [])
    (hwork : ix.work = .none) (hreset : (s.part ix.part).resetting = false) (hidle : (s.part ix.part).idle = false) :
    Pends (exec (.indexPublish c) s) s q 0x9C c .executing [] (s.publishing ix (markTaken s.nvm.orders [] ix.pend) q c) := by
  obtain ⟨hmem, hname⟩ := index?_spec hi
  have hcmd : ((entryOf q 0x9C c s).inPhase .executing).cmd = c := by
    show { c with sqid := q.id } = c
    rw [← h.2.2]
  refine io_pends_after (opc := 0x9C) (v := s.modIdx (setIndex c.nsid c.cdw13.toNat
      { ix with pend := markTaken s.nvm.orders [] ix.pend, waiting := [(q.id, c.cid, s.nvm.orders)] }))
    (u := s.publishing ix (markTaken s.nvm.orders [] ix.pend) q c) h h.1.sqs (fun cr => ?_) fun cr => ?_
  · show effIndexPublish c _ = _
    rw [effIndexPublish_flying h hc hi, if_neg (by rw [List.isEmpty_iff]; exact ht)]
  · exact settleRound_publish (f := (entryOf q 0x9C c s).inPhase .executing) h.1.tostill hmem hname hwork hreset hidle
      (markTaken_done _ _ _ (h.1.pend ix hmem)) (entryOf_is q 0x9C c s) (h.rests (by decide) (by decide) (.inl rfl)) hcmd cr s.nvm.serial []

theorem indexCompact_pends (h : IoTurn s q k c) (hc : checkQuery 0xA0 c s = none)
    (hi : s.index? c.nsid c.cdw13.toNat = some ix) (hn : c.cdw14.toNat < ix.nplots) (hreset : (s.part (partOf c)).resetting = false)
    (hidle : (s.part (partOf c)).idle = false) :
    Pends (exec (.indexCompact c) s) s q 0xA0 c .job []
      (modPart (partOf c) (fun p => { p with queues := p.queues.modify (jqOf c) (· ++ [{
        sqid := q.id, cid := c.cid, order := s.nvm.orders, opc := 0xA0, cmd := c, part := partOf c, jq := jqOf c
        dl := dlOf c, deadline := c.cdw14.toNat, fetched := s.now, kind := .command }]) }) s) := by
  refine io_pends (opc := 0xA0) h (h.1.tostill.modPart (.inl hidle)) h.1.sqs rfl
    (h.rests (by decide) (by decide) (.inr rfl)) fun cr => ?_
  show effIndexCompact c _ = _
  have hjob : jobOf 0xA0 c (s.flying s q (entryOf q 0xA0 c s) cr s.nvm.serial []) = _ := h.jobOf_entry 0xA0 (ph := .waiting) cr _ []
  rw [effIndexCompact_placed ((checkQuery_flying _ _).trans hc) hi hn rfl (h.entry_is 0xA0), hjob, setPhase_flying (h.entry_is 0xA0),
    placeJob_running hreset]
  rfl

end Sys2Proof.Machine
end

section
/-! SUPPORT. Index Create and Index Drop as they are fetched: what the fetch of a Drop closes, and what opens it again (R159, R164). -/

namespace Sys2Proof.Machine

variable {s u : State} {q : Sq} {k : Cq} {c : Cmd} {ix : Index}

/-- No namespace and no index is closed. -/
structure State.allOpen (s : State) : Prop where
  gone : ∀ n ∈ s.nss, n.gone = none
  dropping : ∀ i ∈ s.idx, i.dropping = none

/-- An index as the fetch of a Drop leaves it. -/
def closedIndex (order nsid id : Nat) (i : Index) : Index :=
  if i.nsid == nsid && i.id == id && i.dropping.isNone then { i with dropping := some order } else i

theorem closeIndex_idx (order : Nat) (c : Cmd) (s : State) :
    closeIndex order c s = s.modIdx (·.map (closedIndex order c.nsid c.cdw10.toNat)) := rfl

theorem closedIndex_of_named {order nsid id : Nat} {i : Index} (hn : i.nsid = nsid ∧ i.id = id) (hd : i.dropping = none) :
    closedIndex order nsid id i = { i with dropping := some order } :=
  if_pos (by simp [hn.1, hn.2, hd])

theorem closedIndex_of_other {order nsid id : Nat} {i : Index} (hn : ¬(i.nsid = nsid ∧ i.id = id)) : closedIndex order nsid id i = i :=
  if_neg fun h => by
    simp only [Bool.and_eq_true, beq_iff_eq] at h
    exact hn h.1

theorem closedIndex_of_closed {order nsid id : Nat} {i : Index} (hd : i.dropping.isNone = false) : closedIndex order nsid id i = i :=
  if_neg (by rw [hd, Bool.and_false]; exact Bool.noConfusion)

/-- Closing changes neither the name of an index nor what waits for it. -/
theorem closedIndex_eq (order nsid id : Nat) (i : Index) : ∃ d, closedIndex order nsid id i = { i with dropping := d } := by
  unfold closedIndex
  split
  · exact ⟨_, rfl⟩
  · exact ⟨_, rfl⟩

/-- A close that is made again changes nothing. -/
theorem closeIndex_closeIndex (order : Nat) (c : Cmd) (s : State) :
    closeIndex order c (closeIndex order c s) = closeIndex order c s := by
  refine congrArg (fun l => { s with idx := l }) ?_
  show (s.idx.map (closedIndex order c.nsid c.cdw10.toNat)).map (closedIndex order c.nsid c.cdw10.toNat) = _
  rw [List.map_map]
  refine List.map_congr_left fun i _ => ?_
  show closedIndex _ _ _ (closedIndex _ _ _ i) = closedIndex _ _ _ i
  by_cases hn : i.nsid = c.nsid ∧ i.id = c.cdw10.toNat
  · cases hd : i.dropping with
    | none => rw [closedIndex_of_named hn hd, closedIndex_of_closed rfl]
    | some n =>
      have : i.dropping.isNone = false := by rw [hd]; rfl
      rw [closedIndex_of_closed this, closedIndex_of_closed this]
  · rw [closedIndex_of_other hn, closedIndex_of_other hn]

/-- A close of an index that is not there changes nothing. -/
theorem closeIndex_absent (order : Nat) (h : ∀ i ∈ s.idx, ¬(i.nsid = c.nsid ∧ i.id = c.cdw10.toNat)) : closeIndex order c s = s :=
  congrArg (fun l => { s with idx := l }) ((List.map_congr_left fun i hi => closedIndex_of_other (h i hi)).trans (List.map_id _))

/-- A namespace that is not closed need not be opened again. -/
theorem State.allOpen.reopened_nss (h : s.allOpen) (order : Nat) :
    s.nss.map (fun n => if n.gone == some order then { n with gone := none } else n) = s.nss :=
  (List.map_congr_left fun n hn => by rw [h.gone n hn]; rfl).trans (List.map_id _)

/-- What the fetch of an Index Drop that is refused has closed is open again, and nothing else changes. -/
theorem undoFetch_closeIndex (h : s.allOpen) (order : Nat) (c : Cmd) : undoFetch order (closeIndex order c s) = s := by
  have hidx : (s.idx.map (closedIndex order c.nsid c.cdw10.toNat)).map
      (fun i => if i.dropping == some order then { i with dropping := none } else i) = s.idx := by
    rw [List.map_map]
    refine (List.map_congr_left fun i hi => ?_).trans (List.map_id _)
    have hd := h.dropping i hi
    show (if (closedIndex order c.nsid c.cdw10.toNat i).dropping == some order then _ else _) = i
    by_cases hn : i.nsid = c.nsid ∧ i.id = c.cdw10.toNat
    · rw [closedIndex_of_named hn hd, if_pos (beq_self_eq_true _)]
      exact congrArg (fun d => { i with dropping := d }) hd.symm
    · rw [closedIndex_of_other hn, hd]
      rfl
  show ({ s with idx := (s.idx.map (closedIndex order c.nsid c.cdw10.toNat)).map _, nss := s.nss.map _ } : State) = s
  rw [hidx, h.reopened_nss]

/-- A refusal opens nothing where nothing is closed. -/
theorem undoFetch_open (h : s.allOpen) (order : Nat) : undoFetch order s = s := by
  have hidx : s.idx.map (fun i => if i.dropping == some order then { i with dropping := none } else i) = s.idx :=
    (List.map_congr_left fun i hi => by rw [h.dropping i hi]; rfl).trans (List.map_id _)
  show ({ s with idx := s.idx.map _, nss := s.nss.map _ } : State) = s
  rw [hidx, h.reopened_nss]

/-- An Index Drop begins with its index closed. -/
theorem begun_indexDrop (hq : q.id = 0) (cr : List Nat) :
    s.begun q 0xF0 c cr = (closeIndex s.nvm.orders c s).flying s q (entryOf q 0xF0 c s) cr s.nvm.serial [] := by
  unfold State.begun closings
  rw [entered_flying, show (entryOf q 0xF0 c s).sqid = q.id from rfl, hq]
  rfl

/-- The first reserved dword of Index Create and Index Drop that is not zero. -/
theorem reservedHead_of_nonzero {opc d : Nat} (ho : 0xC0 ≤ opc ∧ opc ≠ 0xDA ∧ opc ≠ 0xDD)
    (h : c.cdw2 ≠ 0 ∧ d = 2 ∨ c.cdw2 = 0 ∧ c.cdw3 ≠ 0 ∧ d = 3) : reservedHead opc c = some d := by
  unfold reservedHead
  rw [if_pos ho]
  rcases h with ⟨h2, rfl⟩ | ⟨h2, h3, rfl⟩
  · rw [List.findIdx?_cons, if_pos (bne_iff_ne.2 h2)]
    rfl
  · rw [List.findIdx?_cons, if_neg (by simp [h2]), List.findIdx?_cons, if_pos (bne_iff_ne.2 h3)]
    rfl

theorem reservedHead_of_zero (opc : Nat) (h2 : c.cdw2 = 0) (h3 : c.cdw3 = 0) : reservedHead opc c = none := by
  unfold reservedHead
  split
  · simp [List.findIdx?_cons, h2, h3]
  · rfl

theorem AdminTurn.allOpen (h : AdminTurn s q k c) (hd : ∀ i ∈ s.idx, i.dropping = none) : s.allOpen := ⟨h.1.gone, hd⟩

theorem indexCreate_reserved (h : AdminTurn s q k c) (hd : ∀ i ∈ s.idx, i.dropping = none) {d : Nat}
    (hr : c.cdw2 ≠ 0 ∧ d = 2 ∨ c.cdw2 = 0 ∧ c.cdw3 ≠ 0 ∧ d = 3) :
    Completes (exec (.indexCreate c) s) s q k c.cid .invalidField d 0 [] s :=
  completes_reserved (opc := 0xED) h (by decide) rfl (reservedHead_of_nonzero (by decide) hr) fun cr => by
    rw [begun_flying (.inr ⟨by decide, rfl⟩)]
    exact congrArg (State.flying · s q _ cr (some s.nvm.orders) []) (undoFetch_open (h.allOpen hd) s.nvm.orders)

theorem indexDrop_reserved (h : AdminTurn s q k c) (hd : ∀ i ∈ s.idx, i.dropping = none) {d : Nat}
    (hr : c.cdw2 ≠ 0 ∧ d = 2 ∨ c.cdw2 = 0 ∧ c.cdw3 ≠ 0 ∧ d = 3) :
    Completes (exec (.indexDrop c) s) s q k c.cid .invalidField d 0 [] s :=
  completes_reserved (opc := 0xF0) h (by decide) rfl (reservedHead_of_nonzero (by decide) hr) fun cr => by
    rw [begun_indexDrop h.2.1]
    exact congrArg (State.flying · s q _ cr (some s.nvm.orders) []) (undoFetch_closeIndex (h.allOpen hd) s.nvm.orders c)

theorem effIndexCreate_placed (hn : (s.ns? c.nsid).isSome) (hc : icCheck c s = none) (hro : s.media.readOnly = false) :
    effIndexCreate c s = placeJob { jobOf 0xED c s with
        part := icNum c 0x2A 1, jq := 0, dl := false, deadline := 0, kind := .train c.nsid (icId c) }
      (setPhase c.sqid c.cid .job (s.modIdx (· ++ [icIndex c c.sqid c.cid]))) := by
  unfold effIndexCreate
  rw [if_neg (by rw [← Option.not_isSome, hn]; exact Bool.noConfusion), hc]
  dsimp only
  rw [if_neg (by rw [hro]; exact Bool.noConfusion)]

theorem indexCreate_pends (h : AdminTurn s q k c) (h2 : c.cdw2 = 0) (h3 : c.cdw3 = 0) (hn : (s.ns? c.nsid).isSome)
    (hc : icCheck c s = none) (hro : s.media.readOnly = false) (hreset : (s.part (icNum c 0x2A 1)).resetting = false)
    (hidle : (s.part (icNum c 0x2A 1)).idle = false) :
    Pends (exec (.indexCreate c) s) s q 0xED c .job []
      (modPart (icNum c 0x2A 1) (fun p => { p with queues := p.queues.modify 0 (· ++ [{
          sqid := 0, cid := c.cid, order := s.nvm.orders, opc := 0xED, cmd := { c with sqid := 0 }, part := icNum c 0x2A 1, jq := 0
          dl := false, deadline := 0, fetched := s.now, kind := .train c.nsid (icId c) }]) })
        (s.modIdx (· ++ [icIndex c 0 c.cid]))) := by
  have hstill : (s.modIdx (· ++ [icIndex c 0 c.cid])).still := by
    refine ⟨h.1.escalate, fun i hi => ?_, fun i hi => ?_, h.1.bind, h.1.parts⟩
    · rcases List.mem_append.1 hi with hi | hi
      · exact h.1.waiting i hi
      · rw [List.mem_singleton.1 hi]
        rfl
    · rcases List.mem_append.1 hi with hi | hi
      · exact h.1.pend i hi
      · rw [List.mem_singleton.1 hi]
        exact fun e he => absurd he List.not_mem_nil
  have hown : (entryOf q 0xED c s).is 0 c.cid = true := h.2.1 ▸ entryOf_is q 0xED c s
  refine admin_pends (opc := 0xED) h (hstill.modPart (.inl hidle)) h.1.sqs rfl rfl ⟨by decide, rfl⟩ (reservedHead_of_zero _ h2 h3)
    ⟨.inr rfl, .inr rfl, Bool.and_false _, .inr (by decide : (0xED : BitVec 8) ≠ 0 ∧ (0xED : BitVec 8) ≠ 8), .inl h.2.1⟩
    fun cr ser => ?_
  · show effIndexCreate { c with sqid := 0 } _ = _
    rw [effIndexCreate_placed (s := s.flying s q (entryOf q 0xED c s) cr ser []) (c := { c with sqid := 0 }) hn
      ((icCheck_flying _).trans hc) hro, jobOf_flying hown]
    have hflying : (s.flying s q (entryOf q 0xED c s) cr ser []).modIdx (· ++ [icIndex { c with sqid := 0 } 0 c.cid]) =
        (s.modIdx (· ++ [icIndex c 0 c.cid])).flying s q (entryOf q 0xED c s) cr ser [] := rfl
    rw [hflying, setPhase_flying hown, placeJob_running hreset]
    rfl

end Sys2Proof.Machine
end

section
/-! CLAIM. O33: an Index Drop takes effect in its turn, and the statement. -/

namespace Sys2Proof.Machine

variable {s u : State} {q : Sq} {k : Cq} {c : Cmd} {ix : Index}

/-- Deallocation changes the contents of the namespace, and the media. -/
theorem dropUnits_eq (nsid lba n : Nat) (s : State) :
    ∃ m, dropUnits nsid lba n s =
      (modNs nsid (fun x => { x with mem := Mem.clear x.mem (lba * 4096) (n * 4096) }) s).modMedia fun _ => m := by
  unfold dropUnits
  dsimp only
  split
  · exact ⟨_, rfl⟩
  · exact ⟨_, rfl⟩

/-- The state without the indexes of a name, and without the copies in the Reservoir of the extent of one of them. -/
def State.withoutIndex (s : State) (nsid id : Nat) (ix : Index) : State :=
  (s.modResv fun r => { r with
    units := r.units.filter fun u => !(u.cls == 1 &&
      decide (nsid * 2 ^ 48 + ix.first ≤ u.key ∧ u.key < nsid * 2 ^ 48 + ix.first + ix.nframes)) }).modIdx
    (·.filter fun i => !(i.nsid == nsid && i.id == id))

theorem removeIndex_of_find? {nsid id : Nat} (h : s.idx.find? (fun i => i.nsid == nsid && i.id == id) = some ix) :
    removeIndex nsid id s = dropUnits nsid (ix.first * 16) (ix.nframes * 16) (s.withoutIndex nsid id ix) := by
  unfold removeIndex
  rw [h]
  rfl

/-- What the end of an index leaves of the state `s`. -/
structure IndexRemoved (nsid id : Nat) (ix : Index) (s u : State) : Prop where
  idx : u.idx = s.idx.filter fun i => !(i.nsid == nsid && i.id == id)
  nss : u.nss = s.nss.map fun x => if x.id == nsid then
    { x with mem := Mem.clear x.mem (ix.first * 16 * 4096) (ix.nframes * 16 * 4096) } else x
  cfg : u.cfg = s.cfg
  clus : u.clus = s.clus
  res : u.res = s.res
  parts : u.parts = s.parts
  nvm : u.nvm = s.nvm
  escalate : u.escalate = s.escalate
  lnk : u.lnk = s.lnk

theorem removeIndex_removed {nsid id : Nat} (h : s.idx.find? (fun i => i.nsid == nsid && i.id == id) = some ix) :
    IndexRemoved nsid id ix s (removeIndex nsid id s) := by
  obtain ⟨m, hm⟩ := dropUnits_eq nsid (ix.first * 16) (ix.nframes * 16) (s.withoutIndex nsid id ix)
  rw [removeIndex_of_find? h, hm]
  constructor <;> rfl

/-- With its one index gone, nothing follows from a state out of which its command can complete. -/
theorem IndexRemoved.lands {nsid id : Nat} (hr : IndexRemoved nsid id ix s u) (h : s.lands q k) : u.lands q k := by
  have hsub : ∀ i ∈ u.idx, i ∈ s.idx := fun i hi => by
    rw [hr.idx] at hi
    exact (List.mem_filter.1 hi).1
  exact ⟨⟨hr.escalate ▸ h.escalate, fun i hi => h.waiting i (hsub i hi), fun i hi => h.pend i (hsub i hi), hr.lnk ▸ h.bind,
    hr.parts ▸ h.parts⟩, hr.nvm ▸ h.sqs, hr.nvm ▸ h.sq, hr.nvm ▸ h.cq, h.room, h.backlog⟩

section Flying

variable {f : Flight} {cr : List Nat} {ser : Option Nat} {out : List HostWrite}

theorem dropUnits_flying (nsid lba n : Nat) :
    dropUnits nsid lba n (u.flying s q f cr ser out) = (dropUnits nsid lba n u).flying s q f cr ser out := by
  unfold dropUnits
  dsimp only
  rw [apply_ite (fun t : State => t.flying s q f cr ser out)]
  rfl

theorem removeIndex_flying (nsid id : Nat) :
    removeIndex nsid id (u.flying s q f cr ser out) = (removeIndex nsid id u).flying s q f cr ser out := by
  cases h : u.idx.find? fun i => i.nsid == nsid && i.id == id with
  | none =>
    unfold removeIndex
    rw [show (u.flying s q f cr ser out).idx = u.idx from rfl, h]
  | some ix =>
    rw [removeIndex_of_find? h, removeIndex_of_find? (s := u.flying s q f cr ser out) h, ← dropUnits_flying]
    rfl

/-- An Index Drop that is alone in flight takes effect at once (R164). -/
theorem dropStep_flying (ho : f.opc = 0xF0) (hp : f.phase = .executing) :
    dropStep (u.flying s q f cr ser out) = complete f.sqid f.cid .success 0 0
      ((removeIndex f.cmd.nsid f.cmd.cdw10.toNat u).flying s q f cr ser out) := by
  have hready : readyDrop (u.flying s q f cr ser out) = some f :=
    List.find?_cons_of_pos (by
      rw [show (u.flying s q f cr ser out).nvm.flights = [f] from rfl, ho, hp]
      simp)
  unfold dropStep
  rw [hready]
  dsimp only
  rw [removeIndex_flying]

end Flying

theorem effIndexDrop_accepted {order : Nat} (ho : (jobOf 0xF0 c s).order = order) (hn : (s.ns? c.nsid).isSome)
    (hmine : (closeIndex order c s).idx.any (fun i => i.dropping == some order) = true)
    (hz : c.cdw11 = 0 ∧ c.cdw12 = 0 ∧ c.cdw13 = 0 ∧ c.cdw14 = 0 ∧ c.cdw15 = 0) :
    effIndexDrop c s = setPhase c.sqid c.cid .executing (closeIndex order c s) := by
  obtain ⟨h11, h12, h13, h14, h15⟩ := hz
  unfold effIndexDrop
  dsimp only
  rw [ho, if_neg (by rw [← Option.not_isSome, hn]; exact Bool.noConfusion), hmine, if_neg Bool.noConfusion, h11, h12, h13, h14, h15]
  rfl

theorem effIndexDrop_absent {order : Nat} (ho : (jobOf 0xF0 c s).order = order) (hn : (s.ns? c.nsid).isSome)
    (hmine : (closeIndex order c s).idx.any (fun i => i.dropping == some order) = false) : effIndexDrop c s = badDword 10 c s := by
  unfold effIndexDrop
  dsimp only
  rw [ho, if_neg (by rw [← Option.not_isSome, hn]; exact Bool.noConfusion), hmine, Bool.not_false, if_pos rfl]

/-- Nothing follows from the close of an index. -/
theorem State.lands.closeIndex (h : s.lands q k) (order : Nat) (c : Cmd) : (closeIndex order c s).lands q k := by
  have hmem : ∀ i ∈ (Machine.closeIndex order c s).idx, ∃ j ∈ s.idx, ∃ d, i = { j with dropping := d } := fun i hi => by
    obtain ⟨j, hj, rfl⟩ := List.mem_map.1 hi
    obtain ⟨d, hd⟩ := closedIndex_eq order c.nsid c.cdw10.toNat j
    exact ⟨j, hj, d, hd⟩
  refine ⟨⟨h.escalate, fun i hi => ?_, fun i hi => ?_, h.bind, h.parts⟩, h.sqs, h.sq, h.cq, h.room, h.backlog⟩
  · obtain ⟨j, hj, d, rfl⟩ := hmem i hi
    exact h.waiting j hj
  · obtain ⟨j, hj, d, rfl⟩ := hmem i hi
    exact h.pend j hj

/-- The job of an Index Drop has the fetch number of its command. -/
theorem jobOf_indexDrop_order (q : Sq) (c : Cmd) (cr : List Nat) (ser : Option Nat) (out : List HostWrite) :
    (jobOf 0xF0 { c with sqid := q.id } (u.flying s q (entryOf q 0xF0 c s) cr ser out)).order = s.nvm.orders := by
  rw [jobOf_flying (c := { c with sqid := q.id }) (entryOf_is q 0xF0 c s)]
  rfl

theorem indexDrop_absent (h : AdminTurn s q k c) (h2 : c.cdw2 = 0) (h3 : c.cdw3 = 0) (hn : (s.ns? c.nsid).isSome)
    (hd : ∀ i ∈ s.idx, i.dropping = none ∧ ¬(i.nsid = c.nsid ∧ i.id = c.cdw10.toNat)) :
    Completes (exec (.indexDrop c) s) s q k c.cid .invalidField 10 0 [] s := by
  have hclose : closeIndex s.nvm.orders c s = s := closeIndex_absent _ fun i hi => (hd i hi).2
  have hmine : s.idx.any (fun i => i.dropping == some s.nvm.orders) = false :=
    List.any_eq_false.2 fun i hi => by rw [(hd i hi).1]; exact Bool.noConfusion
  have hrow : exec (.indexDrop c) s = answer (submit 0xF0 { c with sqid := q.id } s) := by rw [h.2.1]; rfl
  rw [hrow]
  refine completes_serial h.1 h.2.1 h.2.2 (reservedHead_of_zero _ h2 h3) h.1.lands (by decide) (by decide) (by rw [h.2.1]; rfl) fun cr => ?_
  rw [begun_indexDrop h.2.1, hclose]
  show effIndexDrop { c with sqid := q.id } (s.flying s q (entryOf q 0xF0 c s) cr (some s.nvm.orders) []) = _
  refine effIndexDrop_absent (jobOf_indexDrop_order q c cr _ []) hn ?_
  exact (congrArg (fun t : State => t.idx.any fun i => i.dropping == some s.nvm.orders) hclose).trans hmine

/-- The one index of a name, closed: what a Drop removes. -/
theorem closeIndex_removed (order : Nat) (hix : s.idx.filter (fun i => i.nsid == c.nsid && i.id == c.cdw10.toNat) = [ix])
    (hd : ∀ i ∈ s.idx, i.dropping = none) :
    (closeIndex order c s).idx.find? (fun i => i.nsid == c.nsid && i.id == c.cdw10.toNat) = some { ix with dropping := some order } ∧
    ((closeIndex order c s).idx.filter fun i => !(i.nsid == c.nsid && i.id == c.cdw10.toNat)) =
      s.idx.filter fun i => !(i.nsid == c.nsid && i.id == c.cdw10.toNat) := by
  have hname : (fun i : Index => i.nsid == c.nsid && i.id == c.cdw10.toNat) ∘ closedIndex order c.nsid c.cdw10.toNat =
      fun i => i.nsid == c.nsid && i.id == c.cdw10.toNat := funext fun i => by
    obtain ⟨d, hd⟩ := closedIndex_eq order c.nsid c.cdw10.toNat i
    rw [Function.comp_apply, hd]
  have hother : (fun i : Index => !(i.nsid == c.nsid && i.id == c.cdw10.toNat)) ∘ closedIndex order c.nsid c.cdw10.toNat =
      fun i => !(i.nsid == c.nsid && i.id == c.cdw10.toNat) := funext fun i => congrArg not (congrFun hname i)
  have hmem : ix ∈ s.idx ∧ (ix.nsid == c.nsid && ix.id == c.cdw10.toNat) = true :=
    List.mem_filter.1 (by rw [hix]; exact List.mem_singleton_self ix)
  constructor
  · rw [closeIndex_idx, State.modIdx_idx, List.find?_map, hname, find_of_filter hix, Option.map_some,
      closedIndex_of_named (by simpa using hmem.2) (hd ix hmem.1)]
  · rw [closeIndex_idx, State.modIdx_idx, List.filter_map, hother]
    refine (List.map_congr_left fun i hi => closedIndex_of_other fun hn => ?_).trans (List.map_id _)
    have := (List.mem_filter.1 hi).2
    simp [hn.1, hn.2] at this

/-- A Drop of an index that no command names takes effect in its turn. -/
theorem indexDrop_removes (h : AdminTurn s q k c) (h2 : c.cdw2 = 0) (h3 : c.cdw3 = 0) (hn : (s.ns? c.nsid).isSome)
    (hz : c.cdw11 = 0 ∧ c.cdw12 = 0 ∧ c.cdw13 = 0 ∧ c.cdw14 = 0 ∧ c.cdw15 = 0)
    (hfind : (closeIndex s.nvm.orders c s).idx.find? (fun i => i.nsid == c.nsid && i.id == c.cdw10.toNat) =
      some { ix with dropping := some s.nvm.orders })
    (hu : (removeIndex c.nsid c.cdw10.toNat (closeIndex s.nvm.orders c s)).lands q k) :
    Completes (exec (.indexDrop c) s) s q k c.cid .success 0 0 []
      (removeIndex c.nsid c.cdw10.toNat (closeIndex s.nvm.orders c s)) := by
  have hmine : (closeIndex s.nvm.orders c (closeIndex s.nvm.orders c s)).idx.any
      (fun i => i.dropping == some s.nvm.orders) = true := by
    rw [closeIndex_closeIndex]
    exact List.any_eq_true.2 ⟨_, List.mem_of_find?_eq_some hfind, beq_self_eq_true _⟩
  have hrow : exec (.indexDrop c) s = answer (submit 0xF0 { c with sqid := q.id } s) := by rw [h.2.1]; rfl
  rw [hrow]
  refine completes_turn h.1 h.2.1 h.2.2 (by decide) (by rw [h.2.1]; rfl) hu (ph := .executing) (by decide) (by decide) fun cr => ?_
  have hbegun : ((s.begun q 0xF0 c cr).modNvm fun n => { n with serial := some s.nvm.orders }) =
      (closeIndex s.nvm.orders c s).flying s q (entryOf q 0xF0 c s) cr (some s.nvm.orders) [] := by
    rw [begun_indexDrop h.2.1]
    rfl
  have hopen := h.1.closed 0xF0 c cr
  rw [begun_indexDrop h.2.1] at hopen
  rw [hbegun, adminTurn_runs (s := (closeIndex s.nvm.orders c s).flying s q (entryOf q 0xF0 c s) cr (some s.nvm.orders) [])
    h.1.sanitize hopen (reservedHead_of_zero _ h2 h3)]
  show dropStep (effIndexDrop { c with sqid := q.id }
    ((closeIndex s.nvm.orders c s).flying s q (entryOf q 0xF0 c s) cr (some s.nvm.orders) [])) = _
  have horder := jobOf_indexDrop_order (s := s) (u := closeIndex s.nvm.orders c s) q c cr (some s.nvm.orders) []
  rw [effIndexDrop_accepted horder hn hmine hz]
  have hclose : closeIndex s.nvm.orders { c with sqid := q.id }
      ((closeIndex s.nvm.orders c s).flying s q (entryOf q 0xF0 c s) cr (some s.nvm.orders) []) =
      (closeIndex s.nvm.orders c s).flying s q (entryOf q 0xF0 c s) cr (some s.nvm.orders) [] :=
    congrArg (State.flying · s q (entryOf q 0xF0 c s) cr (some s.nvm.orders) []) (closeIndex_closeIndex s.nvm.orders c s)
  rw [hclose, setPhase_flying (entryOf_is q 0xF0 c s), dropStep_flying rfl rfl]
  rfl

/-- Settles O33: a Delete, a Publish, a Compact and a Create are what their effects make of the command that is alone in flight. Two go on
in the round after their fetch: the deletes of an Index Delete stay once it has completed (`settleRound_allDone`), and a Publish with
entries to take begins (`settleRound_publish`). An Index Drop closes its index at its fetch, and takes effect in its turn
(`indexDrop_removes`) or opens it again (`undoFetch_closeIndex`). -/
theorem indexCommandsChangeIndexes : Obligations.IndexCommandsChangeIndexes := by
  unfold Obligations.IndexCommandsChangeIndexes
  intro s q k c
  refine ⟨?_, ?_, ?_, ?_, ?_, ?_, ?_⟩
  · intro ix r h hc hi hr
    exact indexDelete_completes h hc hi hr
  · rintro ix pend h hc hi rfl
    exact ⟨indexPublish_completes h hc hi, fun ht hwork hreset hidle _ => indexPublish_pends h hc hi ht hwork hreset hidle⟩
  · intro ix h hc hi
    exact ⟨fun hn => io_badDword (opc := 0xA0) h fun cr => effIndexCompact_beyond ((checkQuery_flying _ _).trans hc) hi hn,
      fun hn hreset hidle => indexCompact_pends h hc hi hn hreset hidle⟩
  · intro d h hd hr
    exact ⟨indexCreate_reserved h hd hr, indexDrop_reserved h hd hr⟩
  · exact indexCreate_pends
  · intro ix h h2 h3 hn h11 h12 h13 h14 h15 hix hd
    obtain ⟨hfind, hkept⟩ := closeIndex_removed s.nvm.orders hix hd
    have hgone := removeIndex_removed hfind
    have hlands : (closeIndex s.nvm.orders c s).lands q k := h.1.lands.closeIndex _ c
    exact ⟨_, indexDrop_removes h h2 h3 hn ⟨h11, h12, h13, h14, h15⟩ hfind (hgone.lands hlands),
      hgone.idx.trans hkept, hgone.nss, hgone.cfg, hgone.clus, hgone.res, hgone.parts⟩
  · exact indexDrop_absent

end Sys2Proof.Machine
end

section
/-! SUPPORT. A command already in flight: what follows while every command is at its job, and what the sled posts when the one command
completes. -/

namespace Sys2Proof.Machine

section AtJobs

variable {t : State}

/-- Every command in flight is at its job. -/
def State.atJobs (t : State) : Prop := ∀ f ∈ t.nvm.flights, f.phase = .job

/-- No command in flight meets a test that none at its job meets. -/
theorem find_atJobs (h : t.atJobs) {p : Flight → Bool} (hp : ∀ f : Flight, f.phase = .job → p f = false) :
    t.nvm.flights.find? p = none :=
  List.find?_eq_none.2 fun f hf => by rw [hp f (h f hf)]; exact Bool.noConfusion

/-- A round does nothing up to the fetch: what `settle` moves on is a command that waits or that executes, and not one at its job. -/
theorem settleRound_atJobs (hs : t.still) (h : t.atJobs) : settleRound t = t := by
  have hserial : serialStep t = t := by
    have : nextSerial t = none := by
      unfold nextSerial
      rw [find_atJobs h fun f hf => by simp [hf], ite_self]
    unfold serialStep
    rw [this]
  have hdrop : dropStep t = t := by
    unfold dropStep readyDrop
    rw [find_atJobs h fun f hf => by simp [hf]]
  have hns : nsStep t = t := by
    unfold nsStep readyNsEnd
    rw [find_atJobs h fun f hf => by simp [hf]]
  have hsq : sqStep t = t := by
    unfold sqStep
    rw [find_atJobs h fun f hf => by simp [hf]]
  have habort : abortStep t = t := by
    unfold abortStep
    rw [find_atJobs h fun f hf => by simp [hf]]
  have hwrites : postWrites t = t := by
    unfold postWrites
    rw [List.filter_eq_nil_iff.2 fun f hf => by simp [h f hf]]
    rfl
  unfold settleRound
  rw [escalateNow_calm hs.escalate, hserial, hdrop, hns, hsq, habort, publishStep_still hs, hwrites, kickAll_still hs, markDone_still hs,
    bindStep_still hs]

theorem settle_atJobs (hs : t.still) (h : t.atJobs) (hq : ∀ q ∈ t.nvm.sqs, q.unfetched = []) : settle t = t := by
  unfold settle
  rw [settleLoop_succ, settleRound_atJobs hs h, waitingEntries_nil hq]
  exact if_pos (beq_self_eq_true _)

end AtJobs

variable {s u : State} {q : Sq} {k : Cq} {f : Flight}

theorem State.carries.flight? (h : u.carries q k f) : u.flight? q.id f.cid = some f := by
  unfold State.flight?
  rw [h.flights]
  exact List.find?_cons_of_pos (by simp [Flight.is, h.sqid])

theorem State.carries.not_ending (h : u.carries q k f) : f.phase ≠ .ending := by
  rcases h.phase with e | e <;> rw [e] <;> exact Phase.noConfusion

/-- The one command in flight is at its job: nothing follows. -/
theorem State.carries.settle_job (h : u.carries q k f) (hp : f.phase = .job) : settle u = u :=
  settle_atJobs h.tostill (fun g hg => by rw [h.flights] at hg; rwa [List.mem_singleton.1 hg]) h.sqs

/-- The one command in flight completes (R34, R73). -/
theorem complete_carried (h : u.carries q k f) {st : Status} (hst : st ≠ .cidConflict) (dw0 dw1 : Nat) :
    Finishes (.next (complete q.id f.cid st dw0 dw1 u)) u q k f st dw0 dw1 [] u := by
  have hpost : ∀ (v : State) (e : Cqe), v.nvm.cqs = u.nvm.cqs → post q.cqid e v = postNow k e v := fun v e hv => by
    unfold post
    rw [hv, find_of_filter h.cq]
    exact if_neg (by simp [h.room, h.backlog])
  refine ⟨_, rfl, ?_⟩
  unfold complete
  rw [h.flight?]
  dsimp only
  rw [if_neg (by simpa using h.not_ending)]
  unfold completeFlight
  rw [h.sqid, find_of_filter h.sq]
  dsimp only
  rw [hpost _ _ (by split <;> rfl)]
  unfold postNow State.modNvm State.modHostWrites completion Nvm.withFront Flight.is
  by_cases hs : st = .success
  · subst hs
    simp [h.flights, h.sqid]
  · simp [hst, hs, h.flights, h.sqid, h.record, addErrInfo, State.modNvm]

/-- Nothing follows from what is left of `u` when its one command has completed. -/
theorem State.lands.finished_quiet (h : u.lands q k) {t : State} {w : List HostWrite}
    (ht : t = { u with nvm := u.nvm.withFront t.nvm, hostWrites := w }) (hf : t.nvm.flights = []) (hs : t.nvm.sqs = u.nvm.sqs) :
    t.quiet := by
  have hstill : ({ u with nvm := u.nvm.withFront t.nvm, hostWrites := w } : State).still :=
    ⟨h.escalate, h.waiting, h.pend, h.bind, h.parts⟩
  rw [← ht] at hstill
  exact ⟨hstill, hf, hs ▸ h.sqs⟩

/-- A step that comes down to a change of `s` into `u` and the completion of the one command in flight finishes that command. -/
theorem finishes_carried (h : u.carries q k f) (hw : u.hostWrites = s.hostWrites) (ho : u.nvm.orders = s.nvm.orders)
    {st : Status} (hst : st ≠ .cidConflict) (dw0 dw1 : Nat) :
    Finishes (answer (complete q.id f.cid st dw0 dw1 u)) s q k f st dw0 dw1 [] u := by
  obtain ⟨t, ht, hrest, hfl, hord, hsq, hcq, hcount, hlog⟩ := complete_carried h hst dw0 dw1
  have hquiet := h.tolands.finished_quiet hrest hfl hsq
  refine ⟨t, ?_, hw ▸ hrest, hfl, hord.trans ho, hsq, hcq, hcount, hlog⟩
  unfold answer
  rw [Host.Outcome.next.inj ht, settle_quiet hquiet]

/-- A change of indexes that lets nothing wait and adds no entry to a pending log has no part in whether the command can complete. -/
theorem State.carries.modIndex (h : s.carries q k f) (nsid id : Nat) {g : Index → Index} (hw : ∀ i, (g i).waiting = i.waiting)
    (hp : ∀ i, ∀ e ∈ (g i).pend, e ∈ i.pend) : (modIndex nsid id g s).carries q k f := by
  have hmem : ∀ i ∈ (Machine.modIndex nsid id g s).idx, ∃ j ∈ s.idx, i = j ∨ i = g j := fun i hi => by
    obtain ⟨j, hj, rfl⟩ := List.mem_map.1 hi
    refine ⟨j, hj, ?_⟩
    split
    · exact .inr rfl
    · exact .inl rfl
  refine ⟨⟨⟨h.escalate, fun i hi => ?_, fun i hi e he => ?_, h.bind, h.parts⟩, h.sqs, h.sq, h.cq, h.room, h.backlog⟩, h.flights,
    h.sqid, h.phase, h.record⟩
  · obtain ⟨j, hj, rfl | rfl⟩ := hmem i hi
    · exact h.waiting i hj
    · exact (hw j).trans (h.waiting j hj)
  · obtain ⟨j, hj, rfl | rfl⟩ := hmem i hi
    · exact h.pend i hj e he
    · exact h.pend j hj e (hp j e he)

/-- Nor has the Reservoir. -/
theorem State.carries.modResv (h : s.carries q k f) (g : Resv → Resv) : (s.modResv g).carries q k f :=
  ⟨h.tolands.withPool s.res _, h.flights, h.sqid, h.phase, h.record⟩

end Sys2Proof.Machine
end

section
/-! CLAIM. O34: a new epoch becomes current, case by case of what the index has under way, and the statement. -/

namespace Sys2Proof.Machine

/-- The entries that a Publish leaves are entries of the log. -/
theorem mem_of_mem_takenBy_snd {order : Nat} {l : List Pend} {e : Pend} (h : e ∈ (takenBy order l).2) : e ∈ l :=
  (List.mem_filter.1 h).1

/-- The mirrors are counted in the Reservoir alone (R326). -/
theorem countMirror_eq (s : State) : ∃ g, countMirror s = s.modResv g := by
  unfold countMirror
  split
  · exact ⟨_, rfl⟩
  · exact ⟨id, rfl⟩

/-- An index to which a Publish has brought its new epoch (R167, R168). -/
def Index.published (plots : List Plot) (dir : List DirE) (order : Nat) (i : Index) : Index :=
  { i.advance plots dir (takenBy order i.pend).2 with work := .none }

/-- An index to which a Compact has brought its new epoch (R173, R174). -/
def Index.compacted (plots : List Plot) (dir : List DirE) (reclaimed sweeps : Nat) (i : Index) : Index :=
  { i.advance plots dir i.pend with
    work := .none, reclaimed := i.reclaimed + reclaimed, sweeps := i.sweeps + sweeps }

/-- An index whose training has ended, at epoch 1 (R161). -/
def Index.trained (i : Index) : Index := { i with work := .none, epoch := 1, next := none }

variable {s : State} {q : Sq} {k : Cq} {f : Flight} {nsid idx : Nat} {ix : Index} {plots : List Plot} {dir : List DirE}

section Effect

variable (hix : s.idx.find? (fun i => i.nsid == nsid && i.id == idx) = some ix)
include hix

theorem epochDurable_unknown (hn : ix.next = none) : epochDurable nsid idx s = s := by
  unfold epochDurable
  rw [hix]
  dsimp only
  rw [hn]

/-- A change of a Publish or a Compact for which the version log has no room waits (R170; log 112). -/
theorem epochDurable_noRoom (hn : ix.next = some (plots, dir)) (hroom : ix.roomFor plots = false) {sqid cid : Nat}
    (hw : (∃ o b, ix.work = .publish sqid cid o b) ∨ (∃ n r v, ix.work = .compact sqid cid n r v)) :
    epochDurable nsid idx s = modIndex nsid idx (Index.giveUp plots) s := by
  have hfull : (!ix.roomFor plots) = true := by rw [hroom]; rfl
  unfold epochDurable
  rw [hix]
  dsimp only
  rcases hw with ⟨o, b, hw⟩ | ⟨n, r, v, hw⟩
  · rw [hn, hw]
    exact if_pos hfull
  · rw [hn, hw]
    exact if_pos hfull

theorem epochDurable_publish (hn : ix.next = some (plots, dir)) (hroom : ix.roomFor plots = true) {sqid cid order : Nat} {b : Bool}
    (hw : ix.work = .publish sqid cid order b) :
    epochDurable nsid idx s =
      complete sqid cid .success 0 (nextEpoch ix.epoch) (modIndex nsid idx (Index.published plots dir order) s) := by
  unfold epochDurable
  rw [hix]
  dsimp only
  rw [hn, hw]
  exact if_neg (by rw [hroom]; exact Bool.noConfusion)

theorem epochDurable_compact (hn : ix.next = some (plots, dir)) (hroom : ix.roomFor plots = true) {sqid cid n r w : Nat}
    (hw : ix.work = .compact sqid cid n r w) :
    epochDurable nsid idx s = complete sqid cid .success n r (modIndex nsid idx (Index.compacted plots dir r w) s) := by
  unfold epochDurable
  rw [hix]
  dsimp only
  rw [hn, hw]
  exact if_neg (by rw [hroom]; exact Bool.noConfusion)

theorem epochDurable_training (hn : ix.next = some (plots, dir)) {sqid cid : Nat} (hw : ix.work = .training sqid cid)
    (hf : s.flight? sqid cid = some f) :
    epochDurable nsid idx s =
      complete sqid cid .success 1 (icReq f.cmd) (countMirror (modIndex nsid idx Index.trained s)) := by
  unfold epochDurable
  rw [hix]
  dsimp only
  rw [hn, hw]
  dsimp only
  rw [hf]
  rfl

end Effect

/-- Settles O34: what the index has under way decides what its new epoch makes of it. The change leaves the one command able to complete
(`State.carries.modIndex`), and its completion is all that follows (`finishes_carried`); a command at its job that has none is left as it
is (`State.carries.settle_job`). -/
theorem newEpochCompletesItsCommand : Obligations.NewEpochCompletesItsCommand := by
  unfold Obligations.NewEpochCompletesItsCommand
  intro s q k f nsid idx ix plots dir h hfilter
  have hix := find_of_filter hfilter
  have hexec : exec (.epochDurable nsid idx) s = answer (epochDurable nsid idx s) := rfl
  rw [hexec]
  refine ⟨?noRoom, ?publish, ?compact, ?training, ?unknown⟩
  case noRoom =>
    rintro w hn hroom hp hkind rfl
    have hcarries := h.modIndex nsid idx (g := Index.giveUp plots) (fun _ => rfl) fun _ _ he => he
    rw [epochDurable_noRoom hix hn hroom hkind, answer, hcarries.settle_job hp]
  case publish =>
    intro order b hn hroom hw
    rw [epochDurable_publish hix hn hroom hw]
    have hcarries := h.modIndex nsid idx (g := Index.published plots dir order) (fun _ => rfl) fun _ _ he => mem_of_mem_takenBy_snd he
    exact finishes_carried hcarries rfl rfl (by decide) _ _
  case compact =>
    intro n r w hn hroom hw
    rw [epochDurable_compact hix hn hroom hw]
    have hcarries := h.modIndex nsid idx (g := Index.compacted plots dir r w) (fun _ => rfl) fun _ _ he => he
    exact finishes_carried hcarries rfl rfl (by decide) _ _
  case training =>
    intro hn hw
    rw [epochDurable_training hix hn hw h.flight?]
    obtain ⟨g, hg⟩ := countMirror_eq (modIndex nsid idx Index.trained s)
    have hcarries := (h.modIndex nsid idx (g := Index.trained) (fun _ => rfl) fun _ _ he => he).modResv g
    show Finishes _ s q k f _ _ _ _ (countMirror (modIndex nsid idx Index.trained s))
    rw [hg]
    exact finishes_carried hcarries rfl rfl (by decide) _ _
  case unknown =>
    intro hn hp
    rw [epochDurable_unknown hix hn, answer, h.settle_job hp]

end Sys2Proof.Machine
end
